-- ==== Sys2Proof/Word.lean ====
section
/-! DEFINITION. The machine's words and bytes. -/
namespace Sys2Proof

/-- A register of 32 bits (R71). -/
abbrev Word := BitVec 32
/-- A register of a control core (R221). -/
abbrev Dword := BitVec 64
/-- A byte (R9). -/
abbrev Byte := BitVec 8

end Sys2Proof
end

