-- ==== Sys2Proof/Machine/Bits.lean ====
section
/-! DEFINITION. Helpers on bits, bytes and lane masks (R8, R9). -/
namespace Sys2Proof.Machine

/-- Bits [lo + n - 1 : lo] of a number. -/
def bits (x lo n : Nat) : Nat := x / 2 ^ lo % 2 ^ n
/-- Bits [lo + n - 1 : lo] of a word, as a number. -/
def wbits (x : Word) (lo n : Nat) : Nat := bits x.toNat lo n
/-- Bit `i` of a word. -/
def wbit (x : Word) (i : Nat) : Bool := x.getLsbD i
/-- The word of a number, modulo 2^32. -/
def word (n : Nat) : Word := BitVec.ofNat 32 n
/-- A bit as a word. -/
def bword (b : Bool) : Word := if b then 1 else 0
/-- The sign-extension of an `n`-bit field to an integer. -/
def sint {n : Nat} (x : BitVec n) : Int := x.toInt
/-- Sign-extension of a field to a word (R8, R13). -/
def sextw {n : Nat} (x : BitVec n) : Word := x.signExtend 32
/-- Rounding division upwards. -/
def ceilDiv (a b : Nat) : Nat := (a + b - 1) / b
/-- The next multiple of `b` at or above `a`. -/
def roundUp (a b : Nat) : Nat := ceilDiv a b * b

/-- The number of a byte sequence, least significant byte first (R9). -/
def leNat : List Byte → Nat
  | [] => 0
  | b :: r => b.toNat + 256 * leNat r
/-- The `n` bytes of a number, least significant byte first (R9). -/
def leBytes : Nat → Nat → List Byte
  | 0, _ => []
  | n + 1, x => BitVec.ofNat 8 x :: leBytes n (x / 256)
/-- The word of the first four bytes. -/
def leWord (b : List Byte) : Word := word (leNat (b.take 4))
/-- The 32-bit word at byte offset `o` of a record. -/
def wordAt (b : List Byte) (o : Nat) : Word := leWord (b.drop o)
/-- The `n`-byte number at offset `o` of a record. -/
def natAt (b : List Byte) (o n : Nat) : Nat := leNat ((b.drop o).take n)
/-- The bytes of a sequence of words (R9). -/
def wordsBytes (ws : List Word) : List Byte := ws.flatMap (fun w => leBytes 4 w.toNat)

/-- The lanes of a mask, in ascending order (R40). -/
def lanesOf (m : Word) : List Nat := (List.range 32).filter (fun l => wbit m l)
/-- The mask of a predicate on lanes. -/
def maskOf (p : Nat → Bool) : Word :=
  word ((List.range 32).foldl (fun a l => if p l then a + 2 ^ l else a) 0)
/-- The mask of one lane. -/
def laneBit (l : Nat) : Word := word (2 ^ l)
/-- The number of 1 bits. -/
def popCount (m : Word) : Nat := (lanesOf m).length
/-- The lowest lane of a mask. -/
def lowestLane (m : Word) : Option Nat := (lanesOf m).head?

/-- Insert into a list ordered by a key, after equal keys. -/
def insertBy {α : Type} (key : α → Nat) (x : α) : List α → List α
  | [] => [x]
  | y :: r => if key x < key y then x :: y :: r else y :: insertBy key x r
/-- Sort by a key, stably. -/
def sortBy {α : Type} (key : α → Nat) (l : List α) : List α := l.foldl (fun a x => insertBy key x a) []
/-- The element of least key, the first on a tie. -/
def minBy {α : Type} (key : α → Nat) : List α → Option α
  | [] => none
  | x :: r => match minBy key r with
    | none => some x
    | some y => if key x ≤ key y then some x else some y
/-- Remove the first element that a predicate selects. -/
def dropFirst {α : Type} (p : α → Bool) : List α → List α
  | [] => []
  | x :: r => if p x then r else x :: dropFirst p r
/-- The first position at which a predicate holds. -/
def findPos {α : Type} (p : α → Bool) : List α → Option Nat
  | [] => none
  | x :: r => if p x then some 0 else (findPos p r).map (· + 1)
/-- Lists without repeats, keeping first places. -/
def dedup (l : List Nat) : List Nat := l.foldl (fun a x => if a.contains x then a else a ++ [x]) []
/-- The greatest of a list, 0 when empty. -/
def maxOf (l : List Nat) : Nat := l.foldl max 0
/-- Replace the first element that a predicate selects. -/
def updateFirst {α : Type} (p : α → Bool) (f : α → α) : List α → List α
  | [] => []
  | x :: r => if p x then f x :: r else x :: updateFirst p f r

end Sys2Proof.Machine
end

