-- ==== Sys2Proof/Machine/Float.lean ====
section
/-! DEFINITION. Number formats and exact arithmetic (R117 to R128): every finite value is an integer times a power of two,
every operation is formed exactly and rounded once. -/
namespace Sys2Proof.Machine

/-- A floating format of R117: exponent and fraction widths, greatest finite encoding, and whether it has infinities and
NaNs in the IEEE 754 places. -/
structure Fmt where
  e : Nat
  f : Nat
  ieee : Bool
  deriving DecidableEq, Repr

/-- FP64 (R117). -/
def F64 : Fmt := ⟨11, 52, true⟩
/-- FP32 (R117). -/
def F32 : Fmt := ⟨8, 23, true⟩
/-- FP16 (R117). -/
def F16 : Fmt := ⟨5, 10, true⟩
/-- BF16 (R117). -/
def BF16 : Fmt := ⟨8, 7, true⟩
/-- E4M3 (R117): no infinity, NaN only where every exponent and fraction bit is 1. -/
def E4M3 : Fmt := ⟨4, 3, false⟩
/-- E5M2 (R117). -/
def E5M2 : Fmt := ⟨5, 2, true⟩
/-- E2M1 (R117): no infinity and no NaN. -/
def E2M1 : Fmt := ⟨2, 1, false⟩

/-- Bits of an encoding. -/
def Fmt.width (F : Fmt) : Nat := 1 + F.e + F.f
/-- Exponent bias (R117). -/
def Fmt.bias (F : Fmt) : Nat := 2 ^ (F.e - 1) - 1
/-- Exponent of the last place of subnormals and of the smallest normals. -/
def Fmt.qmin (F : Fmt) : Int := 1 - F.bias - F.f
/-- The sign bit. -/
def Fmt.signBit (F : Fmt) : Nat := 2 ^ (F.e + F.f)
/-- The encoding of the greatest finite magnitude (R117). -/
def Fmt.maxEnc (F : Fmt) : Nat :=
  if F.ieee then (2 ^ F.e - 1) * 2 ^ F.f - 1 else if F.e = 4 then 0x7E else 7
/-- The encoding of +∞ of a format that has one. -/
def Fmt.infEnc (F : Fmt) : Nat := (2 ^ F.e - 1) * 2 ^ F.f
/-- The canonical NaN (R117): the quiet bit alone; every fraction bit for E4M3. E2M1 has none and takes +0 (R123). -/
def Fmt.nanEnc (F : Fmt) : Nat :=
  if F.ieee then F.infEnc + 2 ^ (F.f - 1) else if F.e = 4 then 0x7F else 0

/-- A value: a NaN, quiet or signalling; an infinity; or an integer times a power of two, with a sign for zero. -/
inductive FVal where
  | nan (sig : Bool)
  | inf (neg : Bool)
  | fin (neg : Bool) (m : Nat) (e : Int)
  deriving DecidableEq, Repr

/-- The rounding modes (R120), by their RM number (R121). -/
inductive Rnd where
  | rne | rtz | rup | rdn | rna
  deriving DecidableEq, Repr
/-- The mode of an RM field; 5 to 7 are never held (R121). -/
def rndOf (n : Nat) : Rnd := match n with | 1 => .rtz | 2 => .rup | 3 => .rdn | 4 => .rna | _ => .rne

/-- FX flag bits (R124). -/
def flagIX : Nat := 1
/-- Underflow (R124). -/
def flagUF : Nat := 2
/-- Overflow (R124). -/
def flagOF : Nat := 4
/-- Division by zero (R124). -/
def flagDZ : Nat := 8
/-- Invalid operation (R124). -/
def flagIV : Nat := 16

/-- The value of an encoding (R117). -/
def Fmt.dec (F : Fmt) (x : Nat) : FVal :=
  let neg := x.testBit (F.e + F.f)
  let ex := bits x F.f F.e
  let fr := x % 2 ^ F.f
  if F.ieee && ex = 2 ^ F.e - 1 then
    if fr = 0 then .inf neg else .nan (!fr.testBit (F.f - 1))
  else if !F.ieee && F.e = 4 && x % 128 = 127 then .nan false
  else if ex = 0 then .fin neg fr F.qmin
  else .fin neg (2 ^ F.f + fr) (F.qmin + (ex - 1 : Nat))

/-- Negation; a NaN stays. -/
def FVal.neg : FVal → FVal
  | .nan s => .nan s
  | .inf n => .inf !n
  | .fin n m e => .fin (!n) m e
/-- The sign. -/
def FVal.isNeg : FVal → Bool
  | .nan _ => false
  | .inf n => n
  | .fin n _ _ => n
/-- A signalling NaN. -/
def FVal.isSig : FVal → Bool
  | .nan s => s
  | _ => false
/-- A NaN. -/
def FVal.isNan : FVal → Bool
  | .nan _ => true
  | _ => false
/-- Zero. -/
def FVal.isZero : FVal → Bool
  | .fin _ m _ => m = 0
  | _ => false

/-- Does a magnitude of integer part `n` with the remainder `r` out of `d` round away from zero (R120)? -/
def roundsUp (mode : Rnd) (neg : Bool) (n r d : Nat) : Bool :=
  match mode with
  | .rne => 2 * r > d || (2 * r = d && n % 2 = 1)
  | .rna => 2 * r ≥ d && r > 0
  | .rtz => false
  | .rup => !neg && r > 0
  | .rdn => neg && r > 0

/-- Round `m × 2^e` to a multiple of `2^q`: the multiple, and whether the value was changed. -/
def roundAt (mode : Rnd) (neg : Bool) (m : Nat) (e q : Int) : Nat × Bool :=
  if q ≤ e then (m * 2 ^ (e - q).toNat, false)
  else
    let d := 2 ^ (q - e).toNat
    (m / d + (if roundsUp mode neg (m / d) (m % d) d then 1 else 0), m % d != 0)

/-- The sign bit of an encoding. -/
def Fmt.sgn (F : Fmt) (neg : Bool) : Nat := if neg then F.signBit else 0

/-- The overflow result (R122, R123). -/
def Fmt.overflow (F : Fmt) (mode : Rnd) (neg : Bool) : Nat :=
  let toInf := match mode with
    | .rne => true | .rna => true | .rtz => false | .rup => !neg | .rdn => neg
  F.sgn neg + if F.ieee && toInf then F.infEnc else F.maxEnc

/-- Round `± m × 2^e`, m nonzero, to a format: the encoding and the flags OF, UF and IX, tininess after rounding (R122,
R124). `inexact` says that the value given already stands for one that lies strictly beside it. -/
def Fmt.round (F : Fmt) (mode : Rnd) (neg : Bool) (m : Nat) (e : Int) (inexact : Bool := false) : Nat × Nat :=
  let top : Int := e + Nat.log2 m
  let q := max (top - F.f) F.qmin
  let (n, ch) := roundAt mode neg m e q
  let ix := ch || inexact
  let enc := (q - F.qmin).toNat * 2 ^ F.f + n
  if enc > F.maxEnc then (F.overflow mode neg, flagOF + flagIX)
  else
    let (n', _) := roundAt mode neg m e (top - F.f)
    let tiny := top < F.qmin + F.f && !(top + 1 = F.qmin + F.f && n' = 2 ^ (F.f + 1))
    (F.sgn neg + enc, (if tiny && ix then flagUF else 0) + (if ix then flagIX else 0))

/-- The encoding of a value: a NaN is canonical, an infinity of a format without one saturates with IV (R123). -/
def Fmt.enc (F : Fmt) (mode : Rnd) : FVal → Nat × Nat
  | .nan s => (F.nanEnc, if s || (!F.ieee && F.e = 2) then flagIV else 0)
  | .inf n => if F.ieee then (F.sgn n + F.infEnc, 0) else (F.sgn n + F.maxEnc, flagIV)
  | .fin n m e => if m = 0 then (F.sgn n, 0) else F.round mode n m e

/-- The exact product, and whether it is the invalid 0 × ∞ (R122, R124). -/
def FVal.mul : FVal → FVal → FVal × Bool
  | .nan s, y => (.nan (s || y.isSig), false)
  | .fin _ _ _, .nan s => (.nan s, false)
  | .inf _, .nan s => (.nan s, false)
  | .inf a, .inf b => (.inf (a != b), false)
  | .inf a, .fin b m _ => if m = 0 then (.nan false, true) else (.inf (a != b), false)
  | .fin a m _, .inf b => if m = 0 then (.nan false, true) else (.inf (a != b), false)
  | .fin a m e, .fin b n f => (.fin (a != b) (m * n) (e + f), false)

/-- The integer of a finite value in units of `2^q`, q at or below its exponent. -/
def FVal.scaled (q : Int) : FVal → Int
  | .fin n m e => (if n then -1 else 1) * (m * 2 ^ (e - q).toNat : Nat)
  | _ => 0
/-- The exponent of a finite value. -/
def FVal.expo : FVal → Int
  | .fin _ _ e => e
  | _ => 0

/-- The exact sum of finite values, with the zero signs of R122. -/
def sumFin (mode : Rnd) (ts : List FVal) : FVal :=
  let q := ts.foldl (fun q t => min q t.expo) (ts.head?.elim 0 FVal.expo)
  let s : Int := ts.foldl (fun s t => s + t.scaled q) 0
  if s = 0 then
    let allPos := ts.all (fun t => t.isZero && !t.isNeg)
    let allNeg := ts.all (fun t => t.isZero && t.isNeg)
    .fin (if allPos then false else if allNeg then true else mode = .rdn) 0 q
  else .fin (s < 0) s.natAbs q

/-- The sum of terms rounded once (R128): a NaN term, or infinities of both signs, give the canonical NaN; `iv` says that
an invalid product stands among them. -/
def Fmt.sum (F : Fmt) (mode : Rnd) (ts : List FVal) (iv : Bool := false) : Nat × Nat :=
  let pos := ts.any (fun t => t == .inf false)
  let neg := ts.any (fun t => t == .inf true)
  let bad := iv || ts.any FVal.isSig || (pos && neg)
  if ts.any FVal.isNan || iv || (pos && neg) then (F.nanEnc, if bad then flagIV else 0)
  else if pos then (F.infEnc, 0)
  else if neg then (F.signBit + F.infEnc, 0)
  else F.enc mode (sumFin mode ts)

/-- a + b (R333, R327). -/
def Fmt.add (F : Fmt) (mode : Rnd) (a b : Nat) : Nat × Nat := F.sum mode [F.dec a, F.dec b]
/-- a − b (R333). -/
def Fmt.sub (F : Fmt) (mode : Rnd) (a b : Nat) : Nat × Nat := F.sum mode [F.dec a, (F.dec b).neg]
/-- a × b (R333, R327). -/
def Fmt.mul (F : Fmt) (mode : Rnd) (a b : Nat) : Nat × Nat :=
  let (p, iv) := (F.dec a).mul (F.dec b)
  if iv then (F.nanEnc, flagIV) else F.enc mode p
/-- a × b + c with one rounding (R128); 0 × ∞ raises IV even when c is a quiet NaN (R333). -/
def Fmt.fma (F : Fmt) (mode : Rnd) (a b c : Nat) : Nat × Nat :=
  let (p, iv) := (F.dec a).mul (F.dec b)
  F.sum mode [p, F.dec c] iv
/-- The dot product of R127: elements of format E, total and result of format F. -/
def Fmt.dot (F E : Fmt) (mode : Rnd) (d : Nat) (ab : List (Nat × Nat)) : Nat × Nat :=
  let ps := ab.map (fun x => (E.dec x.1).mul (E.dec x.2))
  F.sum mode (F.dec d :: ps.map (·.1)) (ps.any (·.2))

/-- Exact comparison of two values that are no NaN. -/
def FVal.cmp : FVal → FVal → Ordering
  | .inf a, .inf b => if a = b then .eq else if a then .lt else .gt
  | .inf a, _ => if a then .lt else .gt
  | _, .inf b => if b then .gt else .lt
  | x, y =>
    let q := min x.expo y.expo
    compare (x.scaled q) (y.scaled q)

/-- minimumNumber or maximumNumber (R269, R333): −0 lies below +0. -/
def Fmt.minmax (F : Fmt) (wantMax : Bool) (a b : Nat) : Nat × Nat :=
  let x := F.dec a
  let y := F.dec b
  let iv := if x.isSig || y.isSig then flagIV else 0
  if x.isNan && y.isNan then (F.nanEnc, iv)
  else if x.isNan then (b, iv)
  else if y.isNan then (a, iv)
  else
    let less := match x.cmp y with
      | .lt => true
      | .gt => false
      | .eq => x.isNeg && !y.isNeg
    (if less != wantMax then a else b, iv)

/-- The conditions of FCMP and DCMP (R328): the result and the flags. -/
def Fmt.cond (F : Fmt) (c a b : Nat) : Bool × Nat :=
  let x := F.dec a
  let y := F.dec b
  let sig := x.isSig || y.isSig
  if x.isNan || y.isNan then
    (c = 1 || c = 6, if sig || (2 ≤ c && c ≤ 5) then flagIV else 0)
  else
    let o := x.cmp y
    (match c with
      | 0 => o = .eq
      | 1 => o ≠ .eq
      | 2 => o = .lt
      | 3 => o ≠ .gt
      | 4 => o = .gt
      | 5 => o ≠ .lt
      | 6 => false
      | _ => true, 0)

/-- Round a value to an integer under a mode: the signed integer and whether it was changed. -/
def FVal.toIntegral (mode : Rnd) : FVal → Int × Bool
  | .fin neg m e =>
    let (n, ch) := roundAt mode neg m e 0
    ((if neg then -1 else 1) * (n : Int), ch)
  | _ => (0, false)

/-- The integral FUN functions (R339): zero and infinities keep, never IX. -/
def Fmt.integral (F : Fmt) (mode : Rnd) (a : Nat) : Nat × Nat :=
  match F.dec a with
  | .nan s => (F.nanEnc, if s then flagIV else 0)
  | .inf _ => (a, 0)
  | .fin neg m e =>
    let (n, _) := roundAt mode neg m e 0
    if n = 0 then (F.sgn neg, 0) else ((F.round mode neg n 0).1, 0)

/-- Exact quotient of two positive magnitudes rounded once: `(m × 2^e) / (n × 2^f)`. -/
def Fmt.quot (F : Fmt) (mode : Rnd) (neg : Bool) (m : Nat) (e : Int) (n : Nat) (f : Int) : Nat × Nat :=
  let k := Nat.log2 n + F.f + 4
  let t := m * 2 ^ k
  let s := 2 * (t / n) + (if t % n = 0 then 0 else 1)
  F.round mode neg s (e - f - k - 1)

/-- The reciprocal (R270). -/
def Fmt.rcp (F : Fmt) (mode : Rnd) (a : Nat) : Nat × Nat :=
  match F.dec a with
  | .nan s => (F.nanEnc, if s then flagIV else 0)
  | .inf n => (F.sgn n, 0)
  | .fin n m e => if m = 0 then (F.sgn n + F.infEnc, flagDZ) else F.quot mode n 1 0 m e

/-- The integer square root, bit by bit from bit `i - 1` down. -/
def isqrtFrom (x : Nat) : Nat → Nat → Nat
  | 0, r => r
  | i + 1, r => let t := r + 2 ^ i; isqrtFrom x i (if t * t ≤ x then t else r)
/-- The integer square root. -/
def isqrt (x : Nat) : Nat := isqrtFrom x (Nat.log2 x / 2 + 1) 0

/-- The square root (R270). -/
def Fmt.sqrt (F : Fmt) (mode : Rnd) (a : Nat) : Nat × Nat :=
  match F.dec a with
  | .nan s => (F.nanEnc, if s then flagIV else 0)
  | .inf n => if n then (F.nanEnc, flagIV) else (a, 0)
  | .fin n m e =>
    if m = 0 then (a, 0)
    else if n then (F.nanEnc, flagIV)
    else
      let k := F.f + 4
      let (m', e') := if e % 2 = 0 then (m, e) else (2 * m, e - 1)
      let t := m' * 4 ^ k
      let r := isqrt t
      F.round mode false (2 * r + (if r * r = t then 0 else 1)) (e' / 2 - k - 1)

/-- Exact sign change (R270): sign `g` for FABS is cleared, for FNEG flipped. -/
def Fmt.negAbs (F : Fmt) (abs : Bool) (a : Nat) : Nat × Nat :=
  match F.dec a with
  | .nan s => (F.nanEnc, if s then flagIV else 0)
  | x => ((if abs then 0 else F.sgn (!x.isNeg)) + a % F.signBit, 0)

/-! ## FRSQ, FEXP2, FLOG2, FSIN, FCOS and FTANH (R340)

Each is the exact function value rounded once to FP32 under RNE. The value is formed in fixed point with far more bits
than any FP32 argument needs to settle its rounding; a value that is not exact is marked inexact. -/

/-- Bits after the point. -/
def prec : Nat := 420

/-- `1 / (k × 2^k)` summed: ln 2 in fixed point. -/
def ln2Sum : Nat → Nat → Nat
  | 0, a => a
  | k + 1, a => ln2Sum k (a + 2 ^ prec / ((k + 1) * 2 ^ (k + 1)))
/-- ln 2 in fixed point. -/
def ln2Fix : Nat := ln2Sum (prec + 8) 0

/-- arctan(1/n) by its alternating series: `t` is the power term, `j` the odd divisor. -/
def atanSum (n2 : Nat) : Nat → Nat → Nat → Int → Int
  | 0, _, _, a => a
  | i + 1, t, j, a => atanSum n2 i (t / n2) (j + 2) (a + (if j % 4 = 1 then 1 else -1) * (t / j : Nat))
/-- π in fixed point, by Machin's formula. -/
def piFix : Nat :=
  (16 * atanSum 25 100 (2 ^ prec / 5) 1 0 - 4 * atanSum 57121 40 (2 ^ prec / 239) 1 0).toNat

/-- exp of a fixed-point argument in [0, 1): `t` is the term of index `k`. -/
def expSum (y : Nat) : Nat → Nat → Nat → Nat → Nat
  | 0, _, _, a => a
  | i + 1, t, k, a => expSum y i (t * y / 2 ^ prec / (k + 1)) (k + 1) (a + t)
/-- exp of a fixed-point argument in [0, 1). -/
def expFix (y : Nat) : Nat := expSum y 90 (2 ^ prec) 0 0

/-- sin or cos of a fixed-point argument in [0, 2): the alternating series from term `t` of index `k`. -/
def trigSum (y2 : Nat) : Nat → Nat → Nat → Bool → Int → Int
  | 0, _, _, _, a => a
  | i + 1, t, k, neg, a =>
    trigSum y2 i (t * y2 / 2 ^ prec / ((k + 1) * (k + 2))) (k + 2) (!neg) (a + (if neg then -1 else 1) * (t : Int))
/-- sin in fixed point. -/
def sinFix (y : Nat) : Nat := (trigSum (y * y / 2 ^ prec) 60 y 1 false 0).toNat
/-- cos in fixed point. -/
def cosFix (y : Nat) : Nat := (trigSum (y * y / 2 ^ prec) 60 (2 ^ prec) 0 false 0).toNat

/-- 2 · artanh(z) of a fixed-point z in [0, 1/3]. -/
def logSum (z2 : Nat) : Nat → Nat → Nat → Nat → Nat
  | 0, _, _, a => a
  | i + 1, t, j, a => logSum z2 i (t * z2 / 2 ^ prec) (j + 2) (a + 2 * (t / j))
/-- ln of a fixed-point argument in [1, 2). -/
def lnFix (x : Nat) : Nat :=
  let z := (x - 2 ^ prec) * 2 ^ prec / (x + 2 ^ prec)
  logSum (z * z / 2 ^ prec) 135 z 1 0

/-- An inexact result from fixed point: `± n / 2^prec × 2^s`, rounded under RNE with IX. -/
def inexactFix (neg : Bool) (n : Nat) (s : Int) : Nat × Nat := F32.round .rne neg (2 * n + 1) (s - prec - 1) true

/-- A magnitude in fixed point, cut. -/
def toFix (m : Nat) (e : Int) : Nat :=
  if 0 ≤ e + prec then m * 2 ^ (e + prec).toNat else m / 2 ^ (-(e + prec)).toNat

/-- FRSQ (R340). -/
def frsqFn (a : Nat) : Nat × Nat :=
  match F32.dec a with
  | .nan s => (F32.nanEnc, if s then flagIV else 0)
  | .inf n => if n then (F32.nanEnc, flagIV) else (0, 0)
  | .fin n m e =>
    if m = 0 then (F32.sgn n + F32.infEnc, flagDZ)
    else if n then (F32.nanEnc, flagIV)
    else
      let (m', e') := if e % 2 = 0 then (m, e) else (2 * m, e - 1)
      let t := 4 ^ 64
      let r := isqrt (t / m')
      F32.round .rne false (2 * r + (if r * r * m' = t then 0 else 1)) (-(e' / 2) - 64 - 1)

/-- FEXP2 (R340). -/
def fexp2Fn (a : Nat) : Nat × Nat :=
  match F32.dec a with
  | .nan s => (F32.nanEnc, if s then flagIV else 0)
  | .inf n => if n then (0, 0) else (F32.infEnc, 0)
  | .fin n m e =>
    if m = 0 then (0x3F800000, 0)
    else if e > 10 ∨ Nat.log2 m + e > 10 then
      (if n then (0, flagUF + flagIX) else (F32.infEnc, flagOF + flagIX))
    else
      -- x in units of 2^-prec; an argument below 2^-prec moves the result by less than any rounding sees
      let x : Int := (if n then -1 else 1) * (toFix m e : Int)
      let i := x / 2 ^ prec
      let f := (x % 2 ^ prec).toNat
      if f = 0 then F32.round .rne false 1 i
      else inexactFix false (expFix (f * ln2Fix / 2 ^ prec)) i

/-- FLOG2 (R340). -/
def flog2Fn (a : Nat) : Nat × Nat :=
  match F32.dec a with
  | .nan s => (F32.nanEnc, if s then flagIV else 0)
  | .inf n => if n then (F32.nanEnc, flagIV) else (F32.infEnc, 0)
  | .fin n m e =>
    if m = 0 then (F32.signBit + F32.infEnc, flagDZ)
    else if n then (F32.nanEnc, flagIV)
    else
      let l := Nat.log2 m
      let i : Int := e + l
      if m = 2 ^ l then
        (if i = 0 then (0, 0) else F32.round .rne (i < 0) i.natAbs 0)
      else
        let fr := lnFix (m * 2 ^ (prec - l)) * 2 ^ prec / ln2Fix
        let y : Int := i * 2 ^ prec + fr
        inexactFix (y < 0) y.natAbs 0

/-- The quadrant of a positive argument and the remainder of π/2 in fixed point. -/
def trigReduce (m : Nat) (e : Int) : Nat × Nat :=
  let x := toFix m e
  let h := piFix / 2
  (x / h % 4, x % h)

/-- FSIN (R340). -/
def fsinFn (a : Nat) : Nat × Nat :=
  match F32.dec a with
  | .nan s => (F32.nanEnc, if s then flagIV else 0)
  | .inf _ => (F32.nanEnc, flagIV)
  | .fin n m e =>
    if m = 0 then (a, 0)
    else if Nat.log2 m + e < -70 then F32.round .rne n m e true
    else
      let (q, r) := trigReduce m e
      inexactFix (n != (q ≥ 2)) (if q % 2 = 0 then sinFix r else cosFix r) 0

/-- FCOS (R340). -/
def fcosFn (a : Nat) : Nat × Nat :=
  match F32.dec a with
  | .nan s => (F32.nanEnc, if s then flagIV else 0)
  | .inf _ => (F32.nanEnc, flagIV)
  | .fin _ m e =>
    if m = 0 then (0x3F800000, 0)
    else if Nat.log2 m + e < -70 then (0x3F800000, flagIX)
    else
      let (q, r) := trigReduce m e
      inexactFix (q = 1 || q = 2) (if q % 2 = 0 then cosFix r else sinFix r) 0

/-- FTANH (R340): (1 − t) / (1 + t) with t = e^(−2|x|). -/
def ftanhFn (a : Nat) : Nat × Nat :=
  match F32.dec a with
  | .nan s => (F32.nanEnc, if s then flagIV else 0)
  | .inf n => (F32.sgn n + 0x3F800000, 0)
  | .fin n m e =>
    if m = 0 then (a, 0)
    else if Nat.log2 m + e < -70 then F32.round .rne n m e true
    else if Nat.log2 m + e > 5 then (F32.sgn n + 0x3F800000, flagIX)
    else
      let y := 2 * toFix m e
      let i := y / ln2Fix
      let t := 2 ^ prec * 2 ^ prec / expFix (y % ln2Fix) / 2 ^ i
      inexactFix n ((2 ^ prec - t) * 2 ^ prec / (2 ^ prec + t)) 0

/-! ## Conversions (R123, R256, R323, R324) -/

/-- A conversion to a floating format: an infinity of E4M3 and E2M1 saturates with IV; a finite value beyond the range
overflows (R122, R123). -/
def cvtFloat (F : Fmt) (mode : Rnd) (x : FVal) : Nat × Nat := F.enc mode x
/-- A conversion to an integer of `w` bits (R324): range checked after rounding. -/
def cvtInt (signed : Bool) (w : Nat) (mode : Rnd) (x : FVal) : Nat × Nat :=
  let lo : Int := if signed then -(2 ^ (w - 1) : Nat) else 0
  let hi : Int := if signed then 2 ^ (w - 1) - 1 else 2 ^ w - 1
  let wrap (i : Int) : Nat := (i % 2 ^ w).toNat
  match x with
  | .nan _ => (0, flagIV)
  | .inf n => (wrap (if n then lo else hi), flagIV)
  | .fin .. =>
    let (y, ch) := x.toIntegral mode
    if y < lo then (wrap lo, flagIV + flagIX)
    else if y > hi then (wrap hi, flagIV + flagIX)
    else (wrap y, if ch then flagIX else 0)
/-- The value of an integer. -/
def intVal (i : Int) : FVal := .fin (i < 0) i.natAbs 0

end Sys2Proof.Machine
end

