-- ==== Sys2Proof/Config.lean ====
section
/-! DEFINITION. What no rule of the spec fixes: free values, which have no body, so that nothing can be proved of their
value. -/
namespace Sys2Proof.Config

/-- A value that the spec leaves open, by the number of the free-value counter (log 6). -/
opaque freeWord : Nat → Word
/-- A count that the spec leaves open, by the number of the free-value counter (log 4, log 6). -/
opaque freeNat : Nat → Nat
/-- How many cycles after the package's reset a hamlet's count of cycles begins: no two clocks are synchronised (R15, R257, log 4). -/
opaque resetDelay : Nat → Nat
/-- The number of ways of a set of a last-level cache, which no rule gives (R91, log 9). -/
opaque llcWays : Nat
/-- The set of a line in a last-level cache, which no rule gives (R91, log 9). -/
opaque llcSet : Nat → Nat
/-- The Commons carve that the monitor sets on each die at boot (R228, log 7). -/
opaque bootCarve : Nat → Nat
/-- The codeword towards which a decoder of an HBM stack takes a pattern of errors that it cannot correct, as symbols and their values; no rule
names the decoder (R235, log 9). -/
opaque nearCodeword : List (Nat × Byte) → List (Nat × Byte)
/-- The 240 bytes of a Clodor flit's payload for an access to another package, and what a payload from there asks for; R241 does not lay
payloads out (log 22). -/
opaque flitOf : Bool → Nat → List Byte → List Byte
opaque flitRequest : List Byte → Option (Bool × Nat × List Byte)
/-- The package that a request came from; the data that a response brings, and their address; the load token as a payload and read from one
(R212, R241, log 22). -/
opaque flitSource : List Byte → Nat
opaque flitResponse : List Byte → Option (Nat × List Byte)
opaque tokenFlit : Nat → List Nat → List Nat → List Byte
opaque flitToken : List Byte → Option (Nat × List Nat × List Nat)
/-- The payload of a flit that carries a SYS AMO with these parameter words to another package (R292, log 22). -/
opaque amoFlit : List Word → List Byte
/-- The bytes of the UUID of the NVMe namespace, which no rule gives (R245, log 16). -/
opaque nvmeUuid : Nat → Nat
/-- The mean occupied flit slots of a parish's router ports at a governor's step, and the package's power at a step of the power controller, by
the moment of the step: what no rule lets the model compute (R246, R247, log 8). -/
opaque slotDepth : Nat → Nat → Nat
opaque watts : Nat → Nat
/-- The heap base and the heap length of a context, which its shard fixes when it creates the context (R284, log 26). -/
opaque heapBase : Nat → Nat
opaque heapLength : Nat → Nat
/-- The router next to which a command-processor core or the steward stands: a number of which the place on the die, and for the steward the
die, are taken (R229, log 4). -/
opaque coreRouter : Nat → Nat

end Sys2Proof.Config
end

