-- ==== Sys2Proof/Syntax.lean ====
section
/-! DEFINITION. The instructions of the KY-MS6: one constructor for each row of spec/opcode_table.json. The first 198
are instruction words (R248 to R256), with the header C and W and the fields of their format; the others are the
machine events of spec/95, whose arguments say which unit moves and what an outside agent supplies. -/
namespace Sys2Proof

/-- What a load token carries (R212): the loads of the packages in ascending number, and the packages that have requested records. -/
structure PodToken where
  loads : List Nat
  requests : List Nat
  deriving DecidableEq, Repr, Inhabited

/-- The header of every instruction word, without OP: chain bit C [31] and wait count W [30:28] (R248). -/
structure Hdr where
  c : BitVec 1
  w : BitVec 3
  deriving DecidableEq, Repr, Inhabited

/-- One constructor per row of spec/opcode_table.json. Field names and widths are those of the formats of R251. -/
inductive Instr where
  /-- IADD (R345) -/
  | iadd (h : Hdr) (d : BitVec 6) (a : BitVec 6) (b : BitVec 6) (g : BitVec 3)
  /-- ISUB (R345) -/
  | isub (h : Hdr) (d : BitVec 6) (a : BitVec 6) (b : BitVec 6) (g : BitVec 3)
  /-- IMUL (R345) -/
  | imul (h : Hdr) (d : BitVec 6) (a : BitVec 6) (b : BitVec 6) (g : BitVec 3)
  /-- IMULH (R345) -/
  | imulh (h : Hdr) (d : BitVec 6) (a : BitVec 6) (b : BitVec 6) (g : BitVec 3)
  /-- IMULHU (R345) -/
  | imulhu (h : Hdr) (d : BitVec 6) (a : BitVec 6) (b : BitVec 6) (g : BitVec 3)
  /-- IMAD (R345) -/
  | imad (h : Hdr) (d : BitVec 6) (a : BitVec 6) (b : BitVec 6) (g : BitVec 3)
  /-- IMIN (R345) -/
  | imin (h : Hdr) (d : BitVec 6) (a : BitVec 6) (b : BitVec 6) (g : BitVec 3)
  /-- IMAX (R345) -/
  | imax (h : Hdr) (d : BitVec 6) (a : BitVec 6) (b : BitVec 6) (g : BitVec 3)
  /-- IMINU (R345) -/
  | iminu (h : Hdr) (d : BitVec 6) (a : BitVec 6) (b : BitVec 6) (g : BitVec 3)
  /-- IMAXU (R345) -/
  | imaxu (h : Hdr) (d : BitVec 6) (a : BitVec 6) (b : BitVec 6) (g : BitVec 3)
  /-- AND (R295) -/
  | and (h : Hdr) (d : BitVec 6) (a : BitVec 6) (b : BitVec 6) (g : BitVec 3)
  /-- OR (R368) -/
  | or (h : Hdr) (d : BitVec 6) (a : BitVec 6) (b : BitVec 6) (g : BitVec 3)
  /-- XOR (R368) -/
  | xor (h : Hdr) (d : BitVec 6) (a : BitVec 6) (b : BitVec 6) (g : BitVec 3)
  /-- ANDN (R295) -/
  | andn (h : Hdr) (d : BitVec 6) (a : BitVec 6) (b : BitVec 6) (g : BitVec 3)
  /-- SEL (R379) -/
  | sel (h : Hdr) (d : BitVec 6) (a : BitVec 6) (b : BitVec 6) (g : BitVec 3)
  /-- SHL (R376) -/
  | shl (h : Hdr) (d : BitVec 6) (a : BitVec 6) (b : BitVec 6) (g : BitVec 3)
  /-- SHR (R376) -/
  | shr (h : Hdr) (d : BitVec 6) (a : BitVec 6) (b : BitVec 6) (g : BitVec 3)
  /-- SAR (R376) -/
  | sar (h : Hdr) (d : BitVec 6) (a : BitVec 6) (b : BitVec 6) (g : BitVec 3)
  /-- ROT (R376) -/
  | rot (h : Hdr) (d : BitVec 6) (a : BitVec 6) (b : BitVec 6) (g : BitVec 3)
  /-- IADD64 (R346) -/
  | iadd64 (h : Hdr) (d : BitVec 6) (a : BitVec 6) (b : BitVec 6) (g : BitVec 3)
  /-- BYTP (R313) -/
  | bytp (h : Hdr) (d : BitVec 6) (a : BitVec 6) (b : BitVec 6) (g : BitVec 3)
  /-- BFE (R305) -/
  | bfe (h : Hdr) (d : BitVec 6) (a : BitVec 6) (b : BitVec 6) (g : BitVec 3)
  /-- BFI (R306) -/
  | bfi (h : Hdr) (d : BitVec 6) (a : BitVec 6) (b : BitVec 6) (g : BitVec 3)
  /-- IDOT4 (R127) -/
  | idot4 (h : Hdr) (d : BitVec 6) (a : BitVec 6) (b : BitVec 6) (g : BitVec 3)
  /-- IDOT4U (R127) -/
  | idot4u (h : Hdr) (d : BitVec 6) (a : BitVec 6) (b : BitVec 6) (g : BitVec 3)
  /-- IDOT8 (R127) -/
  | idot8 (h : Hdr) (d : BitVec 6) (a : BitVec 6) (b : BitVec 6) (g : BitVec 3)
  /-- IDIV (R351) -/
  | idiv (h : Hdr) (d : BitVec 6) (a : BitVec 6) (b : BitVec 6) (g : BitVec 3)
  /-- IREM (R351) -/
  | irem (h : Hdr) (d : BitVec 6) (a : BitVec 6) (b : BitVec 6) (g : BitVec 3)
  /-- ICMP (R349) -/
  | icmp (h : Hdr) (k : BitVec 4) (f : BitVec 4) (a : BitVec 6) (b : BitVec 6) (n : BitVec 1)
  /-- FCMP (R328) -/
  | fcmp (h : Hdr) (k : BitVec 4) (f : BitVec 4) (a : BitVec 6) (b : BitVec 6) (n : BitVec 1)
  /-- DCMP (R328) -/
  | dcmp (h : Hdr) (k : BitVec 4) (f : BitVec 4) (a : BitVec 6) (b : BitVec 6) (n : BitVec 1)
  /-- IADDI (R347) -/
  | iaddi (h : Hdr) (d : BitVec 6) (a : BitVec 6) (i : BitVec 9)
  /-- ANDI (R297) -/
  | andi (h : Hdr) (d : BitVec 6) (a : BitVec 6) (i : BitVec 9)
  /-- ORI (R368) -/
  | ori (h : Hdr) (d : BitVec 6) (a : BitVec 6) (i : BitVec 9)
  /-- XORI (R368) -/
  | xori (h : Hdr) (d : BitVec 6) (a : BitVec 6) (i : BitVec 9)
  /-- SHLI (R376) -/
  | shli (h : Hdr) (d : BitVec 6) (a : BitVec 6) (i : BitVec 5)
  /-- SHRI (R376) -/
  | shri (h : Hdr) (d : BitVec 6) (a : BitVec 6) (i : BitVec 5)
  /-- SARI (R376) -/
  | sari (h : Hdr) (d : BitVec 6) (a : BitVec 6) (i : BitVec 5)
  /-- IMULI (R347) -/
  | imuli (h : Hdr) (d : BitVec 6) (a : BitVec 6) (i : BitVec 9)
  /-- MOVL (R365) -/
  | movl (h : Hdr) (d : BitVec 5) (i : BitVec 16)
  /-- MOVH (R365) -/
  | movh (h : Hdr) (d : BitVec 5) (i : BitVec 16)
  /-- SMOVL (R378) -/
  | smovl (h : Hdr) (d : BitVec 5) (i : BitVec 16)
  /-- SMOVH (R378) -/
  | smovh (h : Hdr) (d : BitVec 5) (i : BitVec 16)
  /-- MOVS (R366) -/
  | movs (h : Hdr) (d : BitVec 6) (s : BitVec 8)
  /-- VTOS (R395) -/
  | vtos (h : Hdr) (d : BitVec 6) (a : BitVec 6) (s : BitVec 8)
  /-- IADDS (R348) -/
  | iadds (h : Hdr) (d : BitVec 6) (a : BitVec 6) (s : BitVec 8)
  /-- IMADS (R348) -/
  | imads (h : Hdr) (d : BitVec 6) (a : BitVec 6) (s : BitVec 8)
  /-- SADD (R377) -/
  | sadd (h : Hdr) (d : BitVec 8) (a : BitVec 8)
  /-- SSUB (R377) -/
  | ssub (h : Hdr) (d : BitVec 8) (a : BitVec 8)
  /-- SMUL (R377) -/
  | smul (h : Hdr) (d : BitVec 8) (a : BitVec 8)
  /-- SAND (R377) -/
  | sand (h : Hdr) (d : BitVec 8) (a : BitVec 8)
  /-- SOR (R377) -/
  | sor (h : Hdr) (d : BitVec 8) (a : BitVec 8)
  /-- SXOR (R377) -/
  | sxor (h : Hdr) (d : BitVec 8) (a : BitVec 8)
  /-- SSHL (R377) -/
  | sshl (h : Hdr) (d : BitVec 8) (a : BitVec 8)
  /-- SSHR (R377) -/
  | sshr (h : Hdr) (d : BitVec 8) (a : BitVec 8)
  /-- SSAR (R377) -/
  | ssar (h : Hdr) (d : BitVec 8) (a : BitVec 8)
  /-- SMIN (R377) -/
  | smin (h : Hdr) (d : BitVec 8) (a : BitVec 8)
  /-- SMAX (R377) -/
  | smax (h : Hdr) (d : BitVec 8) (a : BitVec 8)
  /-- SMINU (R377) -/
  | sminu (h : Hdr) (d : BitVec 8) (a : BitVec 8)
  /-- SMAXU (R377) -/
  | smaxu (h : Hdr) (d : BitVec 8) (a : BitVec 8)
  /-- SMOV (R377) -/
  | smov (h : Hdr) (d : BitVec 8) (a : BitVec 8)
  /-- SNOT (R377) -/
  | snot (h : Hdr) (d : BitVec 8) (a : BitVec 8)
  /-- SNEG (R377) -/
  | sneg (h : Hdr) (d : BitVec 8) (a : BitVec 8)
  /-- SEQ (R377) -/
  | seq (h : Hdr) (d : BitVec 8) (a : BitVec 8)
  /-- SLT (R377) -/
  | slt (h : Hdr) (d : BitVec 8) (a : BitVec 8)
  /-- SLTU (R377) -/
  | sltu (h : Hdr) (d : BitVec 8) (a : BitVec 8)
  /-- SADDI (R378) -/
  | saddi (h : Hdr) (d : BitVec 8) (i : BitVec 13)
  /-- FADD (R333) -/
  | fadd (h : Hdr) (d : BitVec 6) (a : BitVec 6) (b : BitVec 6) (q : BitVec 1) (g : BitVec 2)
  /-- FSUB (R333) -/
  | fsub (h : Hdr) (d : BitVec 6) (a : BitVec 6) (b : BitVec 6) (q : BitVec 1) (g : BitVec 2)
  /-- FMUL (R333) -/
  | fmul (h : Hdr) (d : BitVec 6) (a : BitVec 6) (b : BitVec 6) (q : BitVec 1) (g : BitVec 2)
  /-- FFMA (R333) -/
  | ffma (h : Hdr) (d : BitVec 6) (a : BitVec 6) (b : BitVec 6) (q : BitVec 1) (g : BitVec 2)
  /-- FMIN (R333) -/
  | fmin (h : Hdr) (d : BitVec 6) (a : BitVec 6) (b : BitVec 6) (q : BitVec 1) (g : BitVec 2)
  /-- FMAX (R333) -/
  | fmax (h : Hdr) (d : BitVec 6) (a : BitVec 6) (b : BitVec 6) (q : BitVec 1) (g : BitVec 2)
  /-- DADD (R327) -/
  | dadd (h : Hdr) (d : BitVec 6) (a : BitVec 6) (b : BitVec 6) (q : BitVec 1) (g : BitVec 2)
  /-- DMUL (R327) -/
  | dmul (h : Hdr) (d : BitVec 6) (a : BitVec 6) (b : BitVec 6) (q : BitVec 1) (g : BitVec 2)
  /-- DFMA (R327) -/
  | dfma (h : Hdr) (d : BitVec 6) (a : BitVec 6) (b : BitVec 6) (q : BitVec 1) (g : BitVec 2)
  /-- HFMA2 (R307) -/
  | hfma2 (h : Hdr) (d : BitVec 6) (a : BitVec 6) (b : BitVec 6) (q : BitVec 1) (g : BitVec 2)
  /-- BFMA2 (R307) -/
  | bfma2 (h : Hdr) (d : BitVec 6) (a : BitVec 6) (b : BitVec 6) (q : BitVec 1) (g : BitVec 2)
  /-- FDOT4 (R127) -/
  | fdot4 (h : Hdr) (d : BitVec 6) (a : BitVec 6) (b : BitVec 6) (q : BitVec 1) (g : BitVec 2)
  /-- FDOT8 (R127) -/
  | fdot8 (h : Hdr) (d : BitVec 6) (a : BitVec 6) (b : BitVec 6) (q : BitVec 1) (g : BitVec 2)
  /-- FNEG (R270) -/
  | fneg (h : Hdr) (d : BitVec 6) (a : BitVec 6) (q : BitVec 1) (g : BitVec 2)
  /-- FABS (R270) -/
  | fabs (h : Hdr) (d : BitVec 6) (a : BitVec 6) (q : BitVec 1) (g : BitVec 2)
  /-- FRCP (R270) -/
  | frcp (h : Hdr) (d : BitVec 6) (a : BitVec 6) (q : BitVec 1) (g : BitVec 2)
  /-- FRSQ (R340) -/
  | frsq (h : Hdr) (d : BitVec 6) (a : BitVec 6) (q : BitVec 1) (g : BitVec 2)
  /-- FSQRT (R270) -/
  | fsqrt (h : Hdr) (d : BitVec 6) (a : BitVec 6) (q : BitVec 1) (g : BitVec 2)
  /-- FEXP2 (R340) -/
  | fexp2 (h : Hdr) (d : BitVec 6) (a : BitVec 6) (q : BitVec 1) (g : BitVec 2)
  /-- FLOG2 (R340) -/
  | flog2 (h : Hdr) (d : BitVec 6) (a : BitVec 6) (q : BitVec 1) (g : BitVec 2)
  /-- FSIN (R340) -/
  | fsin (h : Hdr) (d : BitVec 6) (a : BitVec 6) (q : BitVec 1) (g : BitVec 2)
  /-- FCOS (R340) -/
  | fcos (h : Hdr) (d : BitVec 6) (a : BitVec 6) (q : BitVec 1) (g : BitVec 2)
  /-- FTANH (R340) -/
  | ftanh (h : Hdr) (d : BitVec 6) (a : BitVec 6) (q : BitVec 1) (g : BitVec 2)
  /-- FFLOOR (R339) -/
  | ffloor (h : Hdr) (d : BitVec 6) (a : BitVec 6) (q : BitVec 1) (g : BitVec 2)
  /-- FCEIL (R339) -/
  | fceil (h : Hdr) (d : BitVec 6) (a : BitVec 6) (q : BitVec 1) (g : BitVec 2)
  /-- FRND (R339) -/
  | frnd (h : Hdr) (d : BitVec 6) (a : BitVec 6) (q : BitVec 1) (g : BitVec 2)
  /-- FTRUNC (R339) -/
  | ftrunc (h : Hdr) (d : BitVec 6) (a : BitVec 6) (q : BitVec 1) (g : BitVec 2)
  /-- DRCP (R270) -/
  | drcp (h : Hdr) (d : BitVec 6) (a : BitVec 6) (q : BitVec 1) (g : BitVec 2)
  /-- DSQRT (R270) -/
  | dsqrt (h : Hdr) (d : BitVec 6) (a : BitVec 6) (q : BitVec 1) (g : BitVec 2)
  /-- DNEG (R270) -/
  | dneg (h : Hdr) (d : BitVec 6) (a : BitVec 6) (q : BitVec 1) (g : BitVec 2)
  /-- DABS (R270) -/
  | dabs (h : Hdr) (d : BitVec 6) (a : BitVec 6) (q : BitVec 1) (g : BitVec 2)
  /-- CVT (R324) -/
  | cvt (h : Hdr) (d : BitVec 6) (a : BitVec 6) (f : BitVec 5) (q : BitVec 1) (g : BitVec 2)
  /-- CVT_MODE (R324) -/
  | cvtMode (h : Hdr) (d : BitVec 6) (a : BitVec 6) (p : BitVec 2) (m : BitVec 3) (q : BitVec 1) (g : BitVec 2)
  /-- QSWZ (R370) -/
  | qswz (h : Hdr) (d : BitVec 6) (a : BitVec 6) (m : BitVec 2) (g : BitVec 2)
  /-- QBCAST (R370) -/
  | qbcast (h : Hdr) (d : BitVec 6) (a : BitVec 6) (j : BitVec 2) (g : BitVec 2)
  /-- QDIFFX (R370) -/
  | qdiffx (h : Hdr) (d : BitVec 6) (a : BitVec 6) (g : BitVec 2)
  /-- QDIFFY (R370) -/
  | qdiffy (h : Hdr) (d : BitVec 6) (a : BitVec 6) (g : BitVec 2)
  /-- SHFL (R380) -/
  | shfl (h : Hdr) (d : BitVec 6) (a : BitVec 6) (b : BitVec 6) (g : BitVec 3)
  /-- VOTE_NZ (R393) -/
  | voteNz (h : Hdr) (k : BitVec 4) (a : BitVec 6) (n : BitVec 1)
  /-- VOTE_Z (R393) -/
  | voteZ (h : Hdr) (k : BitVec 4) (a : BitVec 6) (n : BitVec 1)
  /-- MATCH (R361) -/
  | matchK (h : Hdr) (k : BitVec 4) (a : BitVec 6)
  /-- REDW (R374) -/
  | redw (h : Hdr) (d : BitVec 6) (a : BitVec 6) (f : BitVec 6) (g : BitVec 2)
  /-- SCANW (R374) -/
  | scanw (h : Hdr) (d : BitVec 6) (a : BitVec 6) (f : BitVec 6) (g : BitVec 2)
  /-- KAND (R353) -/
  | kand (h : Hdr) (k : BitVec 4) (a : BitVec 6) (b : BitVec 6)
  /-- KOR (R353) -/
  | kor (h : Hdr) (k : BitVec 4) (a : BitVec 6) (b : BitVec 6)
  /-- KXOR (R353) -/
  | kxor (h : Hdr) (k : BitVec 4) (a : BitVec 6) (b : BitVec 6)
  /-- KANDN (R353) -/
  | kandn (h : Hdr) (k : BitVec 4) (a : BitVec 6) (b : BitVec 6)
  /-- KNOT (R353) -/
  | knot (h : Hdr) (k : BitVec 4) (a : BitVec 6)
  /-- KMOV (R353) -/
  | kmov (h : Hdr) (k : BitVec 4) (a : BitVec 6)
  /-- KTOS (R354) -/
  | ktos (h : Hdr) (d : BitVec 8) (a : BitVec 8)
  /-- STOK (R388) -/
  | stok (h : Hdr) (d : BitVec 8) (a : BitVec 8)
  /-- KPOP (R354) -/
  | kpop (h : Hdr) (d : BitVec 8) (a : BitVec 8)
  /-- JOIN (R42) -/
  | join (h : Hdr) (k : BitVec 4) (g : BitVec 3)
  /-- LEAVE (R352) -/
  | leave (h : Hdr) (k : BitVec 4) (g : BitVec 3)
  /-- WAITK (R396) -/
  | waitk (h : Hdr) (k : BitVec 4) (g : BitVec 3)
  /-- ELECT (R329) -/
  | elect (h : Hdr) (k : BitVec 4) (g : BitVec 3)
  /-- KSYNC (R42) -/
  | ksync (h : Hdr) (k : BitVec 4) (a : BitVec 6) (g : BitVec 3)
  /-- POPC (R315) -/
  | popc (h : Hdr) (d : BitVec 6) (a : BitVec 6) (g : BitVec 2)
  /-- CLZ (R315) -/
  | clz (h : Hdr) (d : BitVec 6) (a : BitVec 6) (g : BitVec 2)
  /-- BREV (R315) -/
  | brev (h : Hdr) (d : BitVec 6) (a : BitVec 6) (g : BitVec 2)
  /-- NOT (R315) -/
  | not (h : Hdr) (d : BitVec 6) (a : BitVec 6) (g : BitVec 2)
  /-- INEG (R315) -/
  | ineg (h : Hdr) (d : BitVec 6) (a : BitVec 6) (g : BitVec 2)
  /-- IABS (R315) -/
  | iabs (h : Hdr) (d : BitVec 6) (a : BitVec 6) (g : BitVec 2)
  /-- LID (R315) -/
  | lid (h : Hdr) (d : BitVec 6) (g : BitVec 2)
  /-- FXRD (R341) -/
  | fxrd (h : Hdr) (d : BitVec 6) (g : BitVec 2)
  /-- FXCLR (R341) -/
  | fxclr (h : Hdr) (a : BitVec 6) (g : BitVec 2)
  /-- FXSET (R341) -/
  | fxset (h : Hdr) (a : BitVec 6) (g : BitVec 2)
  /-- VRD (R394) -/
  | vrd (h : Hdr) (d : BitVec 6) (a : BitVec 6) (g : BitVec 3)
  /-- VWR (R394) -/
  | vwr (h : Hdr) (a : BitVec 6) (b : BitVec 6) (g : BitVec 3)
  /-- LDS (R358) -/
  | lds (h : Hdr) (t : BitVec 6) (a : BitVec 6) (o : BitVec 4) (z : BitVec 3)
  /-- STS (R386) -/
  | sts (h : Hdr) (t : BitVec 6) (a : BitVec 6) (o : BitVec 4) (z : BitVec 3)
  /-- LDC (R358) -/
  | ldc (h : Hdr) (t : BitVec 6) (a : BitVec 6) (o : BitVec 4) (z : BitVec 3) (h1 : BitVec 2)
  /-- STC (R386) -/
  | stc (h : Hdr) (t : BitVec 6) (a : BitVec 6) (o : BitVec 4) (z : BitVec 3) (h1 : BitVec 2)
  /-- LDX (R358) -/
  | ldx (h : Hdr) (t : BitVec 6) (a : BitVec 6) (o : BitVec 4) (z : BitVec 3) (h1 : BitVec 2)
  /-- STX (R386) -/
  | stx (h : Hdr) (t : BitVec 6) (a : BitVec 6) (o : BitVec 4) (z : BitVec 3) (h1 : BitVec 2)
  /-- LDIO (R359) -/
  | ldio (h : Hdr) (t : BitVec 6) (a : BitVec 6) (o : BitVec 4) (z : BitVec 3)
  /-- STIO (R387) -/
  | stio (h : Hdr) (t : BitVec 6) (a : BitVec 6) (o : BitVec 4) (z : BitVec 3)
  /-- SPILL (R382) -/
  | spill (h : Hdr) (t : BitVec 6) (a : BitVec 6) (o : BitVec 4) (z : BitVec 3) (h1 : BitVec 2)
  /-- FILL (R337) -/
  | fill (h : Hdr) (t : BitVec 6) (a : BitVec 6) (o : BitVec 4) (z : BitVec 3) (h1 : BitVec 2)
  /-- ATOM_ADD (R299) -/
  | atomAdd (h : Hdr) (t : BitVec 6) (a : BitVec 6) (b : BitVec 6) (s : BitVec 3)
  /-- ATOM_FADD (R299) -/
  | atomFadd (h : Hdr) (t : BitVec 6) (a : BitVec 6) (b : BitVec 6) (s : BitVec 3)
  /-- ATOM_MIN (R299) -/
  | atomMin (h : Hdr) (t : BitVec 6) (a : BitVec 6) (b : BitVec 6) (s : BitVec 3)
  /-- ATOM_MAX (R299) -/
  | atomMax (h : Hdr) (t : BitVec 6) (a : BitVec 6) (b : BitVec 6) (s : BitVec 3)
  /-- ATOM_AND (R299) -/
  | atomAnd (h : Hdr) (t : BitVec 6) (a : BitVec 6) (b : BitVec 6) (s : BitVec 3)
  /-- ATOM_OR (R299) -/
  | atomOr (h : Hdr) (t : BitVec 6) (a : BitVec 6) (b : BitVec 6) (s : BitVec 3)
  /-- ATOM_XOR (R299) -/
  | atomXor (h : Hdr) (t : BitVec 6) (a : BitVec 6) (b : BitVec 6) (s : BitVec 3)
  /-- ATOM_EXCH (R299) -/
  | atomExch (h : Hdr) (t : BitVec 6) (a : BitVec 6) (b : BitVec 6) (s : BitVec 3)
  /-- ATOM_CAS (R299) -/
  | atomCas (h : Hdr) (t : BitVec 6) (a : BitVec 6) (b : BitVec 6) (s : BitVec 3)
  /-- ATOM_INC (R299) -/
  | atomInc (h : Hdr) (t : BitVec 6) (a : BitVec 6) (b : BitVec 6) (s : BitVec 3)
  /-- BRA (R309) -/
  | bra (h : Hdr) (k : BitVec 4) (o : BitVec 17)
  /-- BRAS_Z (R310) -/
  | brasZ (h : Hdr) (s : BitVec 8) (o : BitVec 12)
  /-- BRAS_NZ (R310) -/
  | brasNz (h : Hdr) (s : BitVec 8) (o : BitVec 12)
  /-- BRX (R311) -/
  | brx (h : Hdr) (a : BitVec 6) (g : BitVec 3)
  /-- CALL (R314) -/
  | call (h : Hdr) (d : BitVec 6) (o : BitVec 15)
  /-- RET (R375) -/
  | ret (h : Hdr) (a : BitVec 6) (g : BitVec 3)
  /-- EXIT (R332) -/
  | exit (h : Hdr) (g : BitVec 3)
  /-- SYSCALL (R196) -/
  | syscall (h : Hdr) (n : BitVec 9) (a : BitVec 6)
  /-- TRAP (R391) -/
  | trap (h : Hdr) (i : BitVec 8) (g : BitVec 3)
  /-- TRET (R183) -/
  | tret (h : Hdr)
  /-- BKPT (R308) -/
  | bkpt (h : Hdr) (g : BitVec 3)
  /-- SRD (R383) -/
  | srd (h : Hdr) (d : BitVec 8) (a : BitVec 8)
  /-- SWR (R384) -/
  | swr (h : Hdr) (d : BitVec 8) (a : BitVec 8)
  /-- FENCE (R164) -/
  | fence (h : Hdr) (s : BitVec 3) (k : BitVec 2) (g : BitVec 3)
  /-- BINIT (R110) -/
  | binit (h : Hdr) (b : BitVec 4) (s : BitVec 8) (g : BitVec 3)
  /-- BARR (R110) -/
  | barr (h : Hdr) (b : BitVec 4) (s : BitVec 8) (g : BitVec 3)
  /-- BARRD (R110) -/
  | barrd (h : Hdr) (b : BitVec 4) (s : BitVec 8) (g : BitVec 3)
  /-- BARRJ (R110) -/
  | barrj (h : Hdr) (b : BitVec 4) (s : BitVec 8) (g : BitVec 3)
  /-- BWAIT (R110) -/
  | bwait (h : Hdr) (b : BitVec 4) (s : BitVec 8) (g : BitVec 3)
  /-- BSYNC (R110) -/
  | bsync (h : Hdr) (b : BitVec 4) (g : BitVec 3)
  /-- COPY (R317) -/
  | copy (h : Hdr) (h1 : BitVec 2) (s : BitVec 8) (n : BitVec 4) (p : BitVec 2) (z : BitVec 1)
  /-- COPYS (R318) -/
  | copys (h : Hdr) (h1 : BitVec 2) (s : BitVec 8) (n : BitVec 4) (p : BitVec 2) (z : BitVec 1)
  /-- COPYM (R319) -/
  | copym (h : Hdr) (h1 : BitVec 2) (s : BitVec 8) (n : BitVec 4) (p : BitVec 2) (z : BitVec 1)
  /-- GATH (R344) -/
  | gath (h : Hdr) (h1 : BitVec 2) (s : BitVec 8) (n : BitVec 4) (p : BitVec 2) (z : BitVec 1)
  /-- PREF (R320) -/
  | pref (h : Hdr) (h1 : BitVec 2) (s : BitVec 8) (n : BitVec 4) (p : BitVec 2) (z : BitVec 1)
  /-- AMO (R291) -/
  | amo (h : Hdr) (h1 : BitVec 2) (s : BitVec 8) (n : BitVec 4) (p : BitVec 2) (z : BitVec 1)
  /-- LAYSET (R355) -/
  | layset (h : Hdr) (s : BitVec 8) (n : BitVec 4) (z : BitVec 1)
  /-- CPWAIT (R322) -/
  | cpwait (h : Hdr) (s : BitVec 8) (p : BitVec 2) (z : BitVec 1)
  /-- MMOP (R144) -/
  | mmop (h : Hdr) (h1 : BitVec 2) (s : BitVec 8) (n : BitVec 4) (z : BitVec 1)
  /-- MMSP (R149) -/
  | mmsp (h : Hdr) (h1 : BitVec 2) (s : BitVec 8) (n : BitVec 4) (z : BitVec 1)
  /-- MMDRAIN (R363) -/
  | mmdrain (h : Hdr) (h1 : BitVec 2) (s : BitVec 8) (n : BitVec 4) (z : BitVec 1)
  /-- MMWAIT (R150) -/
  | mmwait (h : Hdr) (s : BitVec 8) (z : BitVec 1)
  /-- BATON_TAKE (R304) -/
  | batonTake (h : Hdr) (z : BitVec 1)
  /-- BATON_PASS (R304) -/
  | batonPass (h : Hdr) (z : BitVec 1)
  /-- QENQ (R130) -/
  | qenq (h : Hdr) (s : BitVec 8) (n : BitVec 4) (z : BitVec 1)
  /-- QWAIT (R133) -/
  | qwait (h : Hdr) (s : BitVec 8) (z : BitVec 1)
  /-- TASKGET (R390) -/
  | taskget (h : Hdr) (s : BitVec 8) (z : BitVec 1)
  /-- TASKEND (R390) -/
  | taskend (h : Hdr) (s : BitVec 8) (z : BitVec 1)
  /-- ENQ (R330) -/
  | enq (h : Hdr) (s : BitVec 8) (z : BitVec 1)
  /-- LEASE (R360) -/
  | lease (h : Hdr) (i : BitVec 13)
  /-- YIELD (R397) -/
  | yield (h : Hdr)
  /-- NOP (R367) -/
  | nop (h : Hdr)
  /-- PACKAGE_RESET (R228) -/
  | packageReset
  /-- GOVERNOR_STEP (R246) -/
  | governorStep (parish : Nat) (depth : Nat)
  /-- POWER_CONTROL_TICK (R247) -/
  | powerControlTick (watts : Nat)
  /-- THERMAL_HOT (R237) -/
  | thermalHot (stack : Nat) (temp : Nat)
  /-- FREEZE_END (R238) -/
  | freezeEnd
  /-- FLIT_EJECTION (R22) -/
  | flitEjection (req : Nat)
  /-- HOME_ACCESS (R159) -/
  | homeAccess (req : Nat)
  /-- PEER_FORWARD_REQUEST (R88) -/
  | peerForwardRequest (req : Nat)
  /-- REMOTE_SHARED_REQUEST (R358) -/
  | remoteSharedRequest (req : Nat)
  /-- LOAD_DATA_RETURN (R358) -/
  | loadDataReturn (req : Nat)
  /-- VRD_LANDING (R287) -/
  | vrdLanding (ham : Nat) (warp : Nat) (pend : Nat)
  /-- VWR_LANDING (R275) -/
  | vwrLanding (ham : Nat) (warp : Nat) (pend : Nat)
  /-- ACTIVE_SET_JOIN (R57) -/
  | activeSetJoin (ham : Nat) (warp : Nat)
  /-- FORCED_JOIN (R58) -/
  | forcedJoin (ham : Nat) (warp : Nat)
  /-- ACTIVE_SET_LEAVE (R57) -/
  | activeSetLeave (ham : Nat) (warp : Nat)
  /-- LEASE_REESTIMATE (R54) -/
  | leaseReestimate (ham : Nat) (warp : Nat)
  /-- PASSED_OVER_EXPIRY (R59) -/
  | passedOverExpiry (ham : Nat) (warp : Nat)
  /-- STREAK_EXPIRY (R37) -/
  | streakExpiry (ham : Nat) (warp : Nat)
  /-- YIELD_EXPIRY (R397) -/
  | yieldExpiry (ham : Nat) (warp : Nat)
  /-- CLUSTER_PLACEMENT (R33) -/
  | clusterPlacement (launch : Nat)
  /-- BLOCK_WARPS_ELIGIBLE (R78) -/
  | blockWarpsEligible (ham : Nat) (block : Nat)
  /-- BLOCK_END (R43) -/
  | blockEnd (ham : Nat) (block : Nat)
  /-- CONTEXT_LEAVE (R51) -/
  | contextLeave (ham : Nat) (slot : Nat)
  /-- LAYSET_ARRIVAL (R355) -/
  | laysetArrival (ham : Nat) (id : Nat)
  /-- COMMAND_START (R113) -/
  | commandStart (ham : Nat) (unit : Nat)
  /-- COMMAND_CHUNK (R104) -/
  | commandChunk (ham : Nat) (chan : Nat)
  /-- CHUNK_ACKNOWLEDGEMENT (R106) -/
  | chunkAcknowledgement (ham : Nat) (chan : Nat) (cmd : Nat)
  /-- AMO_PERFORM (R292) -/
  | amoPerform (ham : Nat) (chan : Nat)
  /-- FQREPLY_RETRY (R188) -/
  | fqreplyRetry (ham : Nat) (entry : Nat)
  /-- FQREPLY_ABORT (R188) -/
  | fqreplyAbort (ham : Nat) (entry : Nat)
  /-- CLUSTER_BARRIER_MESSAGE (R111) -/
  | clusterBarrierMessage (msg : Nat)
  /-- CLUSTER_FLIP_MESSAGE (R111) -/
  | clusterFlipMessage (msg : Nat)
  /-- BARRIER_ANSWER (R111) -/
  | barrierAnswer (msg : Nat)
  /-- QENG_COMPLETE (R131) -/
  | qengComplete (ham : Nat)
  /-- SHADOW_LATCH_LOAD (R136) -/
  | shadowLatchLoad (ham : Nat)
  /-- PARAMETER_BLOCK_ARRIVAL (R143) -/
  | parameterBlockArrival (ham : Nat) (id : Nat)
  /-- ENGINE_CONTEXT_SWITCH (R141) -/
  | engineContextSwitch (ham : Nat)
  /-- ENGINE_COMMAND_START (R144) -/
  | engineCommandStart (ham : Nat)
  /-- MMOP_TILE (R144) -/
  | mmopTile (ham : Nat)
  /-- ACTIVATION_ROW_ENTRY (R146) -/
  | activationRowEntry (ham : Nat)
  /-- ENGINE_COMMAND_COMPLETE (R146) -/
  | engineCommandComplete (ham : Nat)
  /-- DRAIN_START (R147) -/
  | drainStart (ham : Nat)
  /-- DRAIN_RESERVE (R148) -/
  | drainReserve (ham : Nat)
  /-- DRAIN_CHUNK (R147) -/
  | drainChunk (ham : Nat)
  /-- MMSP_CHUNK (R149) -/
  | mmspChunk (ham : Nat)
  /-- FENCE_RELEASE (R164) -/
  | fenceRelease (ham : Nat) (warp : Nat)
  /-- ORDERED_ATOM_RELEASE (R299) -/
  | orderedAtomRelease (ham : Nat) (warp : Nat)
  /-- OPERAND_LOG_ACCESS (R189) -/
  | operandLogAccess (ham : Nat) (warp : Nat) (entry : Nat)
  /-- PAGE_WALK_COMPLETE (R192) -/
  | pageWalkComplete (ham : Nat) (walk : Nat)
  /-- FETCH_FAULT (R249) -/
  | fetchFault (ham : Nat) (warp : Nat) (code : Nat)
  /-- SFENCE_VMA (R193) -/
  | sfenceVma (ham : Nat) (va : (Option Nat)) (asid : (Option Nat))
  /-- SCSTAT_FREE (R196) -/
  | scstatFree (ham : Nat) (bits : Nat)
  /-- RESUMECMD (R197) -/
  | resumecmd (ham : Nat) (value : Word)
  /-- WARP_WINDOW_WRITE (R223) -/
  | warpWindowWrite (ham : Nat) (warp : Nat) (off : Nat) (value : Word)
  /-- WCTL_CLRH (R224) -/
  | wctlClrh (ham : Nat) (warp : Nat)
  /-- WCTL_STOP (R224) -/
  | wctlStop (ham : Nat) (warp : Nat) (on : Bool)
  /-- WCTL_STEP (R224) -/
  | wctlStep (ham : Nat) (warp : Nat) (on : Bool)
  /-- QDB_RING (R205) -/
  | qdbRing (queue : Nat)
  /-- QDB_RESUME (R205) -/
  | qdbResume (queue : Nat)
  /-- WDOG_KICK (R220) -/
  | wdogKick (core : Nat)
  /-- WATCHDOG_RESTART (R220) -/
  | watchdogRestart (core : Nat)
  /-- PACKET_START (R207) -/
  | packetStart (queue : Nat)
  /-- LAUNCH (R209) -/
  | launch (queue : Nat)
  /-- BATCH (R211) -/
  | batch (queue : Nat)
  /-- WAITSEM (R210) -/
  | waitsem (queue : Nat)
  /-- WAITSEM_POLL (R210) -/
  | waitsemPoll (queue : Nat)
  /-- SIGNAL (R208) -/
  | signal (queue : Nat)
  /-- MUSTER (R219) -/
  | muster (queue : Nat)
  /-- MUSTER_RESERVE_GRANT (R219) -/
  | musterReserveGrant (queue : Nat) (part : Nat)
  /-- MUSTER_START_TOKEN (R219) -/
  | musterStartToken (queue : Nat) (part : Nat)
  /-- MUSTER_RETRY (R219) -/
  | musterRetry (queue : Nat)
  /-- COPYQ (R208) -/
  | copyq (queue : Nat)
  /-- FENCEQ (R208) -/
  | fenceq (queue : Nat)
  /-- QMARK (R208) -/
  | qmark (queue : Nat)
  /-- PACKET_COMPLETE (R204) -/
  | packetComplete (queue : Nat)
  /-- TASK_DEAL (R211) -/
  | taskDeal (id : Nat)
  /-- LOAD_TOKEN (R212) -/
  | loadToken (seq : Nat) (token : PodToken)
  /-- STEAL_ACK (R212) -/
  | stealAck (card : Nat)
  /-- LOAD_TOKEN_REISSUE (R212) -/
  | loadTokenReissue
  /-- ENQ_REQUEST (R331) -/
  | enqRequest (id : Nat)
  /-- PRCMD_SAVE (R215) -/
  | prcmdSave (ctx : Nat)
  /-- PRCMD_RESTORE (R215) -/
  | prcmdRestore (ctx : Nat)
  /-- PREEMPT_STAGE2 (R216) -/
  | preemptStage2
  /-- PREEMPT_RESET (R216) -/
  | preemptReset
  /-- MAILBOX_SEND (R229) -/
  | mailboxSend (core : Nat) (dest : Nat)
  /-- MAILBOX_DELIVER (R229) -/
  | mailboxDeliver (id : Nat)
  /-- FEATURE_NEGOTIATE (R230) -/
  | featureNegotiate (func : Nat)
  /-- FUNCTION_RESET (R230) -/
  | functionReset (func : Nat)
  /-- HOST_DOORBELL (R231) -/
  | hostDoorbell (func : Nat) (value : (BitVec 64))
  /-- EVENT_RING_WRITE (R232) -/
  | eventRingWrite (func : Nat)
  /-- PARTOWN_WRITE (R23) -/
  | partownWrite (parish : Nat) (value : Word)
  /-- CCARVE_WRITE (R95) -/
  | ccarveWrite (slice : Nat) (value : Word)
  /-- CLODOR_FLIT_RECEIVE (R241) -/
  | clodorFlitReceive (port : Nat) (flit : (List Byte))
  /-- LINK_PORT_DOWN (R241) -/
  | linkPortDown (port : Nat)
  /-- ETH_FRAME_RECEIVE (R244) -/
  | ethFrameReceive (port : Nat) (frame : (List Byte))
  /-- ETH_FRAME_TRANSMIT (R243) -/
  | ethFrameTransmit (port : Nat) (ring : Nat)
  /-- NVME_DOORBELL (R245) -/
  | nvmeDoorbell (off : Nat) (value : Word)
  /-- NVME_COMMAND_COMPLETE (R285) -/
  | nvmeCommandComplete (qid : Nat)
  /-- NVME_ENABLE (R245) -/
  | nvmeEnable (value : Word)
  /-- NVME_READY (R245) -/
  | nvmeReady
  /-- REGISTER_WRITE (R10) -/
  | registerWrite (addr : Nat) (value : Word)
  /-- STACK_BELOW_REL (R236) -/
  | stackBelowRel (stack : Nat) (temp : Nat)
  /-- LINK_PORT_UP (R241) -/
  | linkPortUp (port : Nat)
  /-- FQCTL_HEAD_WRITE (R186) -/
  | fqctlHeadWrite (ham : Nat) (head : Nat)
  /-- HANDLER_MODE_SAVE_WAIT_EXPIRY (R184) -/
  | handlerModeSaveWaitExpiry (ham : Nat) (warp : Nat)
  deriving DecidableEq, Repr

end Sys2Proof
end

