-- ==== Sys2Proof/WellFormed.lean ====
section
/-! DEFINITION. Which instructions are well formed: the register and field limits of R252, R253 and of each family's
rule, the reserved function values of R256, and for an event the range of its unit numbers (R2, R24). -/
namespace Sys2Proof

/-- A vector field that names a register pair is even (R252). -/
def even {n : Nat} (r : BitVec n) : Bool := r.toNat % 2 == 0
/-- A scalar field that starts a run of `n + 1` registers stays within s0 to s159 (R252). -/
def sreg {m : Nat} (s : BitVec m) (n : Nat) : Bool := s.toNat + n ≤ 159
/-- Compares, VOTE, MATCH, ELECT and KOP write k1 to k7 only (R252, R41). -/
def kdst {m : Nat} (k : BitVec m) : Bool := 1 ≤ k.toNat && k.toNat ≤ 7
/-- The register run of a memory access: even for 64 bits, a multiple of 4 for 128 bits (R252). -/
def regRun (z : BitVec 3) (t : BitVec 6) : Bool :=
  if z = 3 then t.toNat % 2 == 0 else if z = 4 then t.toNat % 4 == 0 else true
/-- FP64 sources and destinations of CVT name even registers (R252, R256). -/
def cvtRegs (f : Nat) (d a : BitVec 6) : Bool :=
  (if f = 0x01 ∨ f = 0x12 ∨ f = 0x13 then even d else true) && (if f = 0x00 ∨ f = 0x10 ∨ f = 0x11 then even a else true)
/-- The special registers of R257. -/
def specialKnown (n : Nat) : Bool :=
  n ≤ 9 || n == 0x10 || (0x20 ≤ n && n ≤ 0x26) || n == 0x30 || n == 0x31 || (0x40 ≤ n && n ≤ 0x43) || n == 0x50
/-- The special registers that SWR may name: FPMODE, TRAPPC and TVEC (R257). -/
def specialWritable (n : Nat) : Bool := n == 0x10 || n == 0x24 || n == 0x26

/-- The function value within an operand field is one R256 lists; others are reserved function values. -/
def Instr.funcOk : Instr → Bool
  | .icmp _ _ f _ _ _ => f.toNat ≤ 9
  | .fcmp _ _ f _ _ _ => f.toNat ≤ 7
  | .dcmp _ _ f _ _ _ => f.toNat ≤ 7
  | .cvt _ _ _ f _ _ => f.toNat ≤ 0x15
  | .cvtMode _ _ _ _ m _ _ => m.toNat ≤ 4
  | .redw _ _ _ f _ => f.toNat ≤ 10
  | .scanw _ _ _ f _ => f.toNat % 16 ≤ 10 && f.toNat < 32
  | _ => true

/-- Every field of the instruction is within R252, R253 and its own rule. -/
def Instr.fieldsOk : Instr → Bool
  | .iadd _ _ _ _ _ => true
  | .isub _ _ _ _ _ => true
  | .imul _ _ _ _ _ => true
  | .imulh _ _ _ _ _ => true
  | .imulhu _ _ _ _ _ => true
  | .imad _ _ _ _ _ => true
  | .imin _ _ _ _ _ => true
  | .imax _ _ _ _ _ => true
  | .iminu _ _ _ _ _ => true
  | .imaxu _ _ _ _ _ => true
  | .and _ _ _ _ _ => true
  | .or _ _ _ _ _ => true
  | .xor _ _ _ _ _ => true
  | .andn _ _ _ _ _ => true
  | .sel _ _ _ _ g => g != 0
  | .shl _ _ _ _ _ => true
  | .shr _ _ _ _ _ => true
  | .sar _ _ _ _ _ => true
  | .rot _ _ _ _ _ => true
  | .iadd64 _ d a b _ => even d && even a && even b
  | .bytp _ _ _ _ _ => true
  | .bfe _ _ _ _ _ => true
  | .bfi _ _ _ _ _ => true
  | .idot4 _ _ _ _ _ => true
  | .idot4u _ _ _ _ _ => true
  | .idot8 _ _ _ _ _ => true
  | .idiv _ _ _ _ _ => true
  | .irem _ _ _ _ _ => true
  | .icmp _ k _ _ _ _ => kdst k
  | .fcmp _ k _ _ _ _ => kdst k
  | .dcmp _ k _ a b _ => kdst k && even a && even b
  | .iaddi _ _ _ _ => true
  | .andi _ _ _ _ => true
  | .ori _ _ _ _ => true
  | .xori _ _ _ _ => true
  | .shli _ _ _ _ => true
  | .shri _ _ _ _ => true
  | .sari _ _ _ _ => true
  | .imuli _ _ _ _ => true
  | .movl _ _ _ => true
  | .movh _ _ _ => true
  | .smovl _ _ _ => true
  | .smovh _ _ _ => true
  | .movs _ _ s => sreg s 0
  | .vtos _ d _ s => d.toNat < 32 && sreg s 0
  | .iadds _ _ _ s => sreg s 0
  | .imads _ _ _ s => sreg s 0
  | .sadd _ d a => sreg d 0 && sreg a 0
  | .ssub _ d a => sreg d 0 && sreg a 0
  | .smul _ d a => sreg d 0 && sreg a 0
  | .sand _ d a => sreg d 0 && sreg a 0
  | .sor _ d a => sreg d 0 && sreg a 0
  | .sxor _ d a => sreg d 0 && sreg a 0
  | .sshl _ d a => sreg d 0 && sreg a 0
  | .sshr _ d a => sreg d 0 && sreg a 0
  | .ssar _ d a => sreg d 0 && sreg a 0
  | .smin _ d a => sreg d 0 && sreg a 0
  | .smax _ d a => sreg d 0 && sreg a 0
  | .sminu _ d a => sreg d 0 && sreg a 0
  | .smaxu _ d a => sreg d 0 && sreg a 0
  | .smov _ d a => sreg d 0 && sreg a 0
  | .snot _ d a => sreg d 0 && sreg a 0
  | .sneg _ d a => sreg d 0 && sreg a 0
  | .seq _ d a => sreg d 0 && sreg a 0
  | .slt _ d a => sreg d 0 && sreg a 0
  | .sltu _ d a => sreg d 0 && sreg a 0
  | .saddi _ d _ => sreg d 0
  | .fadd _ _ _ _ _ _ => true
  | .fsub _ _ _ _ _ _ => true
  | .fmul _ _ _ _ _ _ => true
  | .ffma _ _ _ _ _ _ => true
  | .fmin _ _ _ _ _ _ => true
  | .fmax _ _ _ _ _ _ => true
  | .dadd _ d a b _ _ => even d && even a && even b
  | .dmul _ d a b _ _ => even d && even a && even b
  | .dfma _ d a b _ _ => even d && even a && even b
  | .hfma2 _ _ _ _ _ _ => true
  | .bfma2 _ _ _ _ _ _ => true
  | .fdot4 _ _ _ _ _ _ => true
  | .fdot8 _ _ _ _ _ _ => true
  | .fneg _ _ _ _ _ => true
  | .fabs _ _ _ _ _ => true
  | .frcp _ _ _ _ _ => true
  | .frsq _ _ _ _ _ => true
  | .fsqrt _ _ _ _ _ => true
  | .fexp2 _ _ _ _ _ => true
  | .flog2 _ _ _ _ _ => true
  | .fsin _ _ _ _ _ => true
  | .fcos _ _ _ _ _ => true
  | .ftanh _ _ _ _ _ => true
  | .ffloor _ _ _ _ _ => true
  | .fceil _ _ _ _ _ => true
  | .frnd _ _ _ _ _ => true
  | .ftrunc _ _ _ _ _ => true
  | .drcp _ d a _ _ => even d && even a
  | .dsqrt _ d a _ _ => even d && even a
  | .dneg _ d a _ _ => even d && even a
  | .dabs _ d a _ _ => even d && even a
  | .cvt _ d a f _ _ => cvtRegs f.toNat d a
  | .cvtMode _ _ a p _ _ _ => p != 3 || even a
  | .qswz _ _ _ _ _ => true
  | .qbcast _ _ _ _ _ => true
  | .qdiffx _ _ _ _ => true
  | .qdiffy _ _ _ _ => true
  | .shfl _ _ _ _ _ => true
  | .voteNz _ k _ _ => kdst k
  | .voteZ _ k _ _ => kdst k
  | .matchK _ k _ => kdst k
  | .redw _ _ _ _ _ => true
  | .scanw _ _ _ _ _ => true
  | .kand _ k a b => kdst k && a.toNat < 12 && b.toNat < 12
  | .kor _ k a b => kdst k && a.toNat < 12 && b.toNat < 12
  | .kxor _ k a b => kdst k && a.toNat < 12 && b.toNat < 12
  | .kandn _ k a b => kdst k && a.toNat < 12 && b.toNat < 12
  | .knot _ k a => kdst k && a.toNat < 12
  | .kmov _ k a => kdst k && a.toNat < 12
  | .ktos _ d a => sreg d 0 && a.toNat < 12
  | .stok _ d a => 1 ≤ d.toNat && d.toNat ≤ 11 && sreg a 0
  | .kpop _ d a => sreg d 0 && a.toNat < 12
  | .join _ k _ => 8 ≤ k.toNat && k.toNat ≤ 11
  | .leave _ k _ => 8 ≤ k.toNat && k.toNat ≤ 11
  | .waitk _ k _ => 8 ≤ k.toNat && k.toNat ≤ 11
  | .elect _ k _ => kdst k
  | .ksync _ k _ _ => 8 ≤ k.toNat && k.toNat ≤ 11
  | .popc _ _ _ _ => true
  | .clz _ _ _ _ => true
  | .brev _ _ _ _ => true
  | .not _ _ _ _ => true
  | .ineg _ _ _ _ => true
  | .iabs _ _ _ _ => true
  | .lid _ _ _ => true
  | .fxrd _ _ _ => true
  | .fxclr _ _ _ => true
  | .fxset _ _ _ => true
  | .vrd _ _ _ _ => true
  | .vwr _ _ _ _ => true
  | .lds _ t _ _ z => z.toNat ≤ 4 && regRun z t
  | .sts _ t _ _ z => z.toNat ≤ 4 && regRun z t
  | .ldc _ t _ _ z _ => z.toNat ≤ 4 && regRun z t
  | .stc _ t _ _ z _ => z.toNat ≤ 4 && regRun z t
  | .ldx _ t _ _ z _ => z.toNat ≤ 4 && regRun z t
  | .stx _ t _ _ z _ => z.toNat ≤ 4 && regRun z t
  | .ldio _ t a _ z => z.toNat ≤ 4 && regRun z t && even a
  | .stio _ t a _ z => z.toNat ≤ 4 && regRun z t && even a
  | .spill _ t _ _ z _ => 2 ≤ z.toNat && z.toNat ≤ 4 && regRun z t
  | .fill _ t _ _ z _ => 2 ≤ z.toNat && z.toNat ≤ 4 && regRun z t
  | .atomAdd _ _ _ _ s => s.toNat ≤ 5
  | .atomFadd _ _ _ _ s => s.toNat ≤ 5
  | .atomMin _ _ _ _ s => s.toNat ≤ 5
  | .atomMax _ _ _ _ s => s.toNat ≤ 5
  | .atomAnd _ _ _ _ s => s.toNat ≤ 5
  | .atomOr _ _ _ _ s => s.toNat ≤ 5
  | .atomXor _ _ _ _ s => s.toNat ≤ 5
  | .atomExch _ _ _ _ s => s.toNat ≤ 5
  | .atomCas _ _ _ b s => s.toNat ≤ 5 && b.toNat ≤ 62
  | .atomInc _ _ _ _ s => s.toNat ≤ 5
  | .bra _ k _ => (1 ≤ k.toNat && k.toNat ≤ 11) || k == 15
  | .brasZ _ s _ => sreg s 0
  | .brasNz _ s _ => sreg s 0
  | .brx _ _ _ => true
  | .call _ _ _ => true
  | .ret _ _ _ => true
  | .exit _ _ => true
  | .syscall _ _ a => a.toNat ≤ 58
  | .trap _ _ _ => true
  | .tret _ => true
  | .bkpt _ _ => true
  | .srd _ d a => sreg d 0 && specialKnown a.toNat
  | .swr _ d a => sreg a 0 && specialWritable d.toNat
  | .fence _ s _ _ => s.toNat ≤ 4
  | .binit _ _ s _ => sreg s 0
  | .barr _ _ s _ => sreg s 0
  | .barrd _ _ s _ => sreg s 0
  | .barrj _ _ s _ => sreg s 0
  | .bwait _ _ s _ => sreg s 0
  | .bsync _ _ _ => true
  | .copy _ _ s _ _ _ => sreg s 7
  | .copys _ _ s _ _ _ => sreg s 7
  | .copym _ _ s _ _ _ => sreg s 7
  | .gath _ _ s _ _ _ => sreg s 7
  | .pref _ h1 s _ _ _ => sreg s 7 && h1 != 3
  | .amo _ _ s _ _ _ => sreg s 7
  | .layset _ s n _ => sreg s 0 && n.toNat < 8
  | .cpwait _ s _ _ => sreg s 0
  | .mmop _ _ s _ _ => sreg s 0
  | .mmsp _ _ s _ _ => sreg s 0
  | .mmdrain _ _ s _ _ => sreg s 0
  | .mmwait _ s _ => sreg s 0
  | .batonTake _ _ => true
  | .batonPass _ _ => true
  | .qenq _ s _ _ => sreg s 7
  | .qwait _ s _ => sreg s 0
  | .taskget _ s _ => sreg s 1
  | .taskend _ s _ => sreg s 0
  | .enq _ s _ => sreg s 2
  | .lease _ i => i.toNat ≤ 2496
  | .yield _ => true
  | .nop _ => true
  | .packageReset => true
  | .governorStep parish _ => parish < 40
  | .powerControlTick _ => true
  | .thermalHot stack _ => stack < 16
  | .freezeEnd => true
  | .flitEjection _ => true
  | .homeAccess _ => true
  | .peerForwardRequest _ => true
  | .remoteSharedRequest _ => true
  | .loadDataReturn _ => true
  | .vrdLanding ham warp _ => ham < 640 && warp < 64
  | .vwrLanding ham warp _ => ham < 640 && warp < 64
  | .activeSetJoin ham warp => ham < 640 && warp < 64
  | .forcedJoin ham warp => ham < 640 && warp < 64
  | .activeSetLeave ham warp => ham < 640 && warp < 64
  | .leaseReestimate ham warp => ham < 640 && warp < 64
  | .passedOverExpiry ham warp => ham < 640 && warp < 64
  | .streakExpiry ham warp => ham < 640 && warp < 64
  | .yieldExpiry ham warp => ham < 640 && warp < 64
  | .clusterPlacement _ => true
  | .blockWarpsEligible ham _ => ham < 640
  | .blockEnd ham _ => ham < 640
  | .contextLeave ham slot => ham < 640 && slot < 4
  | .laysetArrival ham _ => ham < 640
  | .commandStart ham _ => ham < 640
  | .commandChunk ham chan => ham < 640 && chan < 4
  | .chunkAcknowledgement ham chan _ => ham < 640 && chan < 4
  | .amoPerform ham chan => ham < 640 && chan < 4
  | .fqreplyRetry ham entry => ham < 640 && entry < 256
  | .fqreplyAbort ham entry => ham < 640 && entry < 256
  | .clusterBarrierMessage _ => true
  | .clusterFlipMessage _ => true
  | .barrierAnswer _ => true
  | .qengComplete ham => ham < 640
  | .shadowLatchLoad ham => ham < 640
  | .parameterBlockArrival ham _ => ham < 640
  | .engineContextSwitch ham => ham < 640
  | .engineCommandStart ham => ham < 640
  | .mmopTile ham => ham < 640
  | .activationRowEntry ham => ham < 640
  | .engineCommandComplete ham => ham < 640
  | .drainStart ham => ham < 640
  | .drainReserve ham => ham < 640
  | .drainChunk ham => ham < 640
  | .mmspChunk ham => ham < 640
  | .fenceRelease ham warp => ham < 640 && warp < 64
  | .orderedAtomRelease ham warp => ham < 640 && warp < 64
  | .operandLogAccess ham warp _ => ham < 640 && warp < 64
  | .pageWalkComplete ham _ => ham < 640
  | .fetchFault ham warp _ => ham < 640 && warp < 64
  | .sfenceVma ham _ _ => ham < 640
  | .scstatFree ham _ => ham < 640
  | .resumecmd ham _ => ham < 640
  | .warpWindowWrite ham warp _ _ => ham < 640 && warp < 64
  | .wctlClrh ham warp => ham < 640 && warp < 64
  | .wctlStop ham warp _ => ham < 640 && warp < 64
  | .wctlStep ham warp _ => ham < 640 && warp < 64
  | .qdbRing queue => queue < 1024
  | .qdbResume queue => queue < 1024
  | .wdogKick core => core < 16
  | .watchdogRestart core => core < 16
  | .packetStart queue => queue < 1024
  | .launch queue => queue < 1024
  | .batch queue => queue < 1024
  | .waitsem queue => queue < 1024
  | .waitsemPoll queue => queue < 1024
  | .signal queue => queue < 1024
  | .muster queue => queue < 1024
  | .musterReserveGrant queue _ => queue < 1024
  | .musterStartToken queue _ => queue < 1024
  | .musterRetry queue => queue < 1024
  | .copyq queue => queue < 1024
  | .fenceq queue => queue < 1024
  | .qmark queue => queue < 1024
  | .packetComplete queue => queue < 1024
  | .taskDeal _ => true
  | .loadToken _ _ => true
  | .stealAck _ => true
  | .loadTokenReissue => true
  | .enqRequest _ => true
  | .prcmdSave _ => true
  | .prcmdRestore _ => true
  | .preemptStage2 => true
  | .preemptReset => true
  | .mailboxSend core _ => core < 657
  | .mailboxDeliver _ => true
  | .featureNegotiate func => func < 257
  | .functionReset func => func < 257
  | .hostDoorbell func _ => func < 257
  | .eventRingWrite func => func < 257
  | .partownWrite parish _ => parish < 40
  | .ccarveWrite slice _ => slice < 320
  | .clodorFlitReceive port _ => port < 18
  | .linkPortDown port => port < 18
  | .ethFrameReceive port _ => port < 4
  | .ethFrameTransmit port ring => port < 4 && ring < 64
  | .nvmeDoorbell _ _ => true
  | .nvmeCommandComplete qid => qid < 65
  | .nvmeEnable _ => true
  | .nvmeReady => true
  | .registerWrite _ _ => true
  | .stackBelowRel stack _ => stack < 16
  | .linkPortUp port => port < 18
  | .fqctlHeadWrite ham _ => ham < 640
  | .handlerModeSaveWaitExpiry ham warp => ham < 640 && warp < 64

/-- A well-formed instruction: the only ones that the decoder yields. -/
def Instr.wf (i : Instr) : Bool := i.funcOk && i.fieldsOk

end Sys2Proof
end

