-- ==== Sys2Proof/Decode.lean ====
section
/-! DEFINITION. Decoding a 32-bit instruction word (R248 to R258), and after it the encoder. A word that is no
instruction is rejected by the name of its trap: a reserved OP or function value (0x01, code 0x01) or a field out of
its limits (0x01, code 0x02), in the order of R258 steps 1 and 2. -/
namespace Sys2Proof

/-- Why a word is not an instruction (R258 steps 1 and 2). -/
inductive EncTrap where
  /-- OP or function value reserved: group 0x01, code 0x01. -/
  | reservedOp
  /-- A field outside its limits, or a nonzero must-be-0 field: group 0x01, code 0x02. -/
  | badField
  deriving DecidableEq, Repr

/-- Bits [lo + n - 1 : lo] of a word. -/
def fld (n w lo : Nat) : BitVec n := BitVec.ofNat n (w / 2 ^ lo)
/-- Bits [lo + n - 1 : lo] of a word are 0, as a field marked 0 must be. -/
def zeroAt (n w lo : Nat) : Bool := w / 2 ^ lo % 2 ^ n == 0
/-- The header C and W (R248). -/
def hdr (w : Nat) : Hdr := ⟨fld 1 w 31, fld 3 w 28⟩
/-- R258: first the function value, then the must-be-0 fields `z` and the field limits. -/
def accept (z : Bool) (i : Instr) : Except EncTrap Instr :=
  if i.funcOk then (if z && i.fieldsOk then .ok i else .error .badField) else .error .reservedOp

/-- The words of OP 0x30, by their function value in bits [4:0] (R256, R377). -/
def decodeSop (w : Nat) : Except EncTrap Instr :=
  match w / 2 ^ 0 % 32 with
  | 0 => accept true (.sadd (hdr w) (fld 8 w 13) (fld 8 w 5))
  | 1 => accept true (.ssub (hdr w) (fld 8 w 13) (fld 8 w 5))
  | 2 => accept true (.smul (hdr w) (fld 8 w 13) (fld 8 w 5))
  | 3 => accept true (.sand (hdr w) (fld 8 w 13) (fld 8 w 5))
  | 4 => accept true (.sor (hdr w) (fld 8 w 13) (fld 8 w 5))
  | 5 => accept true (.sxor (hdr w) (fld 8 w 13) (fld 8 w 5))
  | 6 => accept true (.sshl (hdr w) (fld 8 w 13) (fld 8 w 5))
  | 7 => accept true (.sshr (hdr w) (fld 8 w 13) (fld 8 w 5))
  | 8 => accept true (.ssar (hdr w) (fld 8 w 13) (fld 8 w 5))
  | 9 => accept true (.smin (hdr w) (fld 8 w 13) (fld 8 w 5))
  | 10 => accept true (.smax (hdr w) (fld 8 w 13) (fld 8 w 5))
  | 11 => accept true (.sminu (hdr w) (fld 8 w 13) (fld 8 w 5))
  | 12 => accept true (.smaxu (hdr w) (fld 8 w 13) (fld 8 w 5))
  | 13 => accept true (.smov (hdr w) (fld 8 w 13) (fld 8 w 5))
  | 14 => accept true (.snot (hdr w) (fld 8 w 13) (fld 8 w 5))
  | 15 => accept true (.sneg (hdr w) (fld 8 w 13) (fld 8 w 5))
  | 16 => accept true (.seq (hdr w) (fld 8 w 13) (fld 8 w 5))
  | 17 => accept true (.slt (hdr w) (fld 8 w 13) (fld 8 w 5))
  | 18 => accept true (.sltu (hdr w) (fld 8 w 13) (fld 8 w 5))
  | _ => .error .reservedOp

/-- The words of OP 0x3F, by their function value in bits [8:3] (R256, R270, R339, R340). -/
def decodeFun (w : Nat) : Except EncTrap Instr :=
  match w / 2 ^ 3 % 64 with
  | 0 => accept true (.fneg (hdr w) (fld 6 w 15) (fld 6 w 9) (fld 1 w 2) (fld 2 w 0))
  | 1 => accept true (.fabs (hdr w) (fld 6 w 15) (fld 6 w 9) (fld 1 w 2) (fld 2 w 0))
  | 2 => accept true (.frcp (hdr w) (fld 6 w 15) (fld 6 w 9) (fld 1 w 2) (fld 2 w 0))
  | 3 => accept true (.frsq (hdr w) (fld 6 w 15) (fld 6 w 9) (fld 1 w 2) (fld 2 w 0))
  | 4 => accept true (.fsqrt (hdr w) (fld 6 w 15) (fld 6 w 9) (fld 1 w 2) (fld 2 w 0))
  | 5 => accept true (.fexp2 (hdr w) (fld 6 w 15) (fld 6 w 9) (fld 1 w 2) (fld 2 w 0))
  | 6 => accept true (.flog2 (hdr w) (fld 6 w 15) (fld 6 w 9) (fld 1 w 2) (fld 2 w 0))
  | 7 => accept true (.fsin (hdr w) (fld 6 w 15) (fld 6 w 9) (fld 1 w 2) (fld 2 w 0))
  | 8 => accept true (.fcos (hdr w) (fld 6 w 15) (fld 6 w 9) (fld 1 w 2) (fld 2 w 0))
  | 9 => accept true (.ftanh (hdr w) (fld 6 w 15) (fld 6 w 9) (fld 1 w 2) (fld 2 w 0))
  | 10 => accept true (.ffloor (hdr w) (fld 6 w 15) (fld 6 w 9) (fld 1 w 2) (fld 2 w 0))
  | 11 => accept true (.fceil (hdr w) (fld 6 w 15) (fld 6 w 9) (fld 1 w 2) (fld 2 w 0))
  | 12 => accept true (.frnd (hdr w) (fld 6 w 15) (fld 6 w 9) (fld 1 w 2) (fld 2 w 0))
  | 13 => accept true (.ftrunc (hdr w) (fld 6 w 15) (fld 6 w 9) (fld 1 w 2) (fld 2 w 0))
  | 14 => accept true (.drcp (hdr w) (fld 6 w 15) (fld 6 w 9) (fld 1 w 2) (fld 2 w 0))
  | 15 => accept true (.dsqrt (hdr w) (fld 6 w 15) (fld 6 w 9) (fld 1 w 2) (fld 2 w 0))
  | 16 => accept true (.dneg (hdr w) (fld 6 w 15) (fld 6 w 9) (fld 1 w 2) (fld 2 w 0))
  | 17 => accept true (.dabs (hdr w) (fld 6 w 15) (fld 6 w 9) (fld 1 w 2) (fld 2 w 0))
  | _ => .error .reservedOp

/-- The words of OP 0x41, by their function value in bits [8:3] (R256, R370). -/
def decodeQuad (w : Nat) : Except EncTrap Instr :=
  match w / 2 ^ 3 % 64 with
  | 0 | 1 | 2 | 3 => accept (zeroAt 1 w 2) (.qswz (hdr w) (fld 6 w 15) (fld 6 w 9) (fld 2 w 3) (fld 2 w 0))
  | 4 | 5 | 6 | 7 => accept (zeroAt 1 w 2) (.qbcast (hdr w) (fld 6 w 15) (fld 6 w 9) (fld 2 w 3) (fld 2 w 0))
  | 8 => accept (zeroAt 1 w 2) (.qdiffx (hdr w) (fld 6 w 15) (fld 6 w 9) (fld 2 w 0))
  | 12 => accept (zeroAt 1 w 2) (.qdiffy (hdr w) (fld 6 w 15) (fld 6 w 9) (fld 2 w 0))
  | _ => .error .reservedOp

/-- The words of OP 0x43, by their function value in bits [16:13] (R256, R393). -/
def decodeVote (w : Nat) : Except EncTrap Instr :=
  match w / 2 ^ 13 % 16 with
  | 0 => accept (zeroAt 6 w 1) (.voteNz (hdr w) (fld 4 w 17) (fld 6 w 7) (fld 1 w 0))
  | 1 => accept (zeroAt 6 w 1) (.voteZ (hdr w) (fld 4 w 17) (fld 6 w 7) (fld 1 w 0))
  | _ => .error .reservedOp

/-- The words of OP 0x47, by their function value in bits [16:13] (R256, R353). -/
def decodeKop (w : Nat) : Except EncTrap Instr :=
  match w / 2 ^ 13 % 16 with
  | 0 => accept (zeroAt 1 w 0) (.kand (hdr w) (fld 4 w 17) (fld 6 w 7) (fld 6 w 1))
  | 1 => accept (zeroAt 1 w 0) (.kor (hdr w) (fld 4 w 17) (fld 6 w 7) (fld 6 w 1))
  | 2 => accept (zeroAt 1 w 0) (.kxor (hdr w) (fld 4 w 17) (fld 6 w 7) (fld 6 w 1))
  | 3 => accept (zeroAt 1 w 0) (.kandn (hdr w) (fld 4 w 17) (fld 6 w 7) (fld 6 w 1))
  | 4 => accept (zeroAt 7 w 0) (.knot (hdr w) (fld 4 w 17) (fld 6 w 7))
  | 5 => accept (zeroAt 7 w 0) (.kmov (hdr w) (fld 4 w 17) (fld 6 w 7))
  | _ => .error .reservedOp

/-- The words of OP 0x48, by their function value in bits [4:0] (R256, R354, R388). -/
def decodeKs (w : Nat) : Except EncTrap Instr :=
  match w / 2 ^ 0 % 32 with
  | 0 => accept true (.ktos (hdr w) (fld 8 w 13) (fld 8 w 5))
  | 1 => accept true (.stok (hdr w) (fld 8 w 13) (fld 8 w 5))
  | 2 => accept true (.kpop (hdr w) (fld 8 w 13) (fld 8 w 5))
  | _ => .error .reservedOp

/-- The words of OP 0x49, by their function value in bits [20:15] (R256, R42, R329, R352, R396). -/
def decodeMsync (w : Nat) : Except EncTrap Instr :=
  match w / 2 ^ 15 % 64 with
  | 0 => accept (zeroAt 2 w 0 && zeroAt 6 w 5) (.join (hdr w) (fld 4 w 11) (fld 3 w 2))
  | 1 => accept (zeroAt 2 w 0 && zeroAt 6 w 5) (.leave (hdr w) (fld 4 w 11) (fld 3 w 2))
  | 2 => accept (zeroAt 2 w 0 && zeroAt 6 w 5) (.waitk (hdr w) (fld 4 w 11) (fld 3 w 2))
  | 3 => accept (zeroAt 2 w 0 && zeroAt 6 w 5) (.elect (hdr w) (fld 4 w 11) (fld 3 w 2))
  | 4 => accept (zeroAt 2 w 0) (.ksync (hdr w) (fld 4 w 11) (fld 6 w 5) (fld 3 w 2))
  | _ => .error .reservedOp

/-- The words of OP 0x4A, by their function value in bits [8:3] (R256, R315). -/
def decodeIun (w : Nat) : Except EncTrap Instr :=
  match w / 2 ^ 3 % 64 with
  | 0 => accept (zeroAt 1 w 2) (.popc (hdr w) (fld 6 w 15) (fld 6 w 9) (fld 2 w 0))
  | 1 => accept (zeroAt 1 w 2) (.clz (hdr w) (fld 6 w 15) (fld 6 w 9) (fld 2 w 0))
  | 2 => accept (zeroAt 1 w 2) (.brev (hdr w) (fld 6 w 15) (fld 6 w 9) (fld 2 w 0))
  | 3 => accept (zeroAt 1 w 2) (.not (hdr w) (fld 6 w 15) (fld 6 w 9) (fld 2 w 0))
  | 4 => accept (zeroAt 1 w 2) (.ineg (hdr w) (fld 6 w 15) (fld 6 w 9) (fld 2 w 0))
  | 5 => accept (zeroAt 1 w 2) (.iabs (hdr w) (fld 6 w 15) (fld 6 w 9) (fld 2 w 0))
  | 6 => accept (zeroAt 1 w 2 && zeroAt 6 w 9) (.lid (hdr w) (fld 6 w 15) (fld 2 w 0))
  | _ => .error .reservedOp

/-- The words of OP 0x4B, by their function value in bits [8:3] (R256, R341). -/
def decodeFx (w : Nat) : Except EncTrap Instr :=
  match w / 2 ^ 3 % 64 with
  | 0 => accept (zeroAt 1 w 2 && zeroAt 6 w 9) (.fxrd (hdr w) (fld 6 w 15) (fld 2 w 0))
  | 1 => accept (zeroAt 1 w 2 && zeroAt 6 w 15) (.fxclr (hdr w) (fld 6 w 9) (fld 2 w 0))
  | 2 => accept (zeroAt 1 w 2 && zeroAt 6 w 15) (.fxset (hdr w) (fld 6 w 9) (fld 2 w 0))
  | _ => .error .reservedOp

/-- The words of OP 0x77, by their function value in bits [20:15] (R256, R110). -/
def decodeBar (w : Nat) : Except EncTrap Instr :=
  match w / 2 ^ 15 % 64 with
  | 0 => accept true (.binit (hdr w) (fld 4 w 11) (fld 8 w 3) (fld 3 w 0))
  | 1 => accept true (.barr (hdr w) (fld 4 w 11) (fld 8 w 3) (fld 3 w 0))
  | 2 => accept true (.barrd (hdr w) (fld 4 w 11) (fld 8 w 3) (fld 3 w 0))
  | 3 => accept true (.barrj (hdr w) (fld 4 w 11) (fld 8 w 3) (fld 3 w 0))
  | 4 => accept true (.bwait (hdr w) (fld 4 w 11) (fld 8 w 3) (fld 3 w 0))
  | 5 => accept (zeroAt 8 w 3) (.bsync (hdr w) (fld 4 w 11) (fld 3 w 0))
  | _ => .error .reservedOp

/-- The words of OP 0x78, by their function value in bits [20:17] (R256, R291, R317, R318, R319). -/
def decodeCopy (w : Nat) : Except EncTrap Instr :=
  match w / 2 ^ 17 % 16 with
  | 0 => accept true (.copy (hdr w) (fld 2 w 15) (fld 8 w 7) (fld 4 w 3) (fld 2 w 1) (fld 1 w 0))
  | 1 => accept true (.copys (hdr w) (fld 2 w 15) (fld 8 w 7) (fld 4 w 3) (fld 2 w 1) (fld 1 w 0))
  | 2 => accept true (.copym (hdr w) (fld 2 w 15) (fld 8 w 7) (fld 4 w 3) (fld 2 w 1) (fld 1 w 0))
  | 3 => accept true (.gath (hdr w) (fld 2 w 15) (fld 8 w 7) (fld 4 w 3) (fld 2 w 1) (fld 1 w 0))
  | 4 => accept true (.pref (hdr w) (fld 2 w 15) (fld 8 w 7) (fld 4 w 3) (fld 2 w 1) (fld 1 w 0))
  | 5 => accept true (.amo (hdr w) (fld 2 w 15) (fld 8 w 7) (fld 4 w 3) (fld 2 w 1) (fld 1 w 0))
  | 6 => accept (zeroAt 2 w 1 && zeroAt 2 w 15) (.layset (hdr w) (fld 8 w 7) (fld 4 w 3) (fld 1 w 0))
  | 7 => accept (zeroAt 4 w 3 && zeroAt 2 w 15) (.cpwait (hdr w) (fld 8 w 7) (fld 2 w 1) (fld 1 w 0))
  | _ => .error .reservedOp

/-- The words of OP 0x79, by their function value in bits [20:17] (R256, R144, R149, R150, R304). -/
def decodeMm (w : Nat) : Except EncTrap Instr :=
  match w / 2 ^ 17 % 16 with
  | 0 => accept (zeroAt 2 w 1) (.mmop (hdr w) (fld 2 w 15) (fld 8 w 7) (fld 4 w 3) (fld 1 w 0))
  | 1 => accept (zeroAt 2 w 1) (.mmsp (hdr w) (fld 2 w 15) (fld 8 w 7) (fld 4 w 3) (fld 1 w 0))
  | 2 => accept (zeroAt 2 w 1) (.mmdrain (hdr w) (fld 2 w 15) (fld 8 w 7) (fld 4 w 3) (fld 1 w 0))
  | 3 => accept (zeroAt 6 w 1 && zeroAt 2 w 15) (.mmwait (hdr w) (fld 8 w 7) (fld 1 w 0))
  | 4 => accept (zeroAt 16 w 1) (.batonTake (hdr w) (fld 1 w 0))
  | 5 => accept (zeroAt 16 w 1) (.batonPass (hdr w) (fld 1 w 0))
  | _ => .error .reservedOp

/-- The words of OP 0x7A, by their function value in bits [20:17] (R256, R130, R133). -/
def decodeQeng (w : Nat) : Except EncTrap Instr :=
  match w / 2 ^ 17 % 16 with
  | 0 => accept (zeroAt 2 w 1 && zeroAt 2 w 15) (.qenq (hdr w) (fld 8 w 7) (fld 4 w 3) (fld 1 w 0))
  | 1 => accept (zeroAt 6 w 1 && zeroAt 2 w 15) (.qwait (hdr w) (fld 8 w 7) (fld 1 w 0))
  | _ => .error .reservedOp

/-- The words of OP 0x7B, by their function value in bits [20:17] (R256, R330, R390). -/
def decodeTask (w : Nat) : Except EncTrap Instr :=
  match w / 2 ^ 17 % 16 with
  | 0 => accept (zeroAt 6 w 1 && zeroAt 2 w 15) (.taskget (hdr w) (fld 8 w 7) (fld 1 w 0))
  | 1 => accept (zeroAt 6 w 1 && zeroAt 2 w 15) (.taskend (hdr w) (fld 8 w 7) (fld 1 w 0))
  | 2 => accept (zeroAt 6 w 1 && zeroAt 2 w 15) (.enq (hdr w) (fld 8 w 7) (fld 1 w 0))
  | _ => .error .reservedOp

/-- The words of OP 0x00 to 0x0F (R254), by OP modulo 16. -/
def decodeOp0 (w : Nat) : Except EncTrap Instr :=
  match w / 2 ^ 21 % 16 with
  | 0 => accept (zeroAt 21 w 0) (.nop (hdr w))
  | 1 => accept true (.iadd (hdr w) (fld 6 w 15) (fld 6 w 9) (fld 6 w 3) (fld 3 w 0))
  | 2 => accept true (.isub (hdr w) (fld 6 w 15) (fld 6 w 9) (fld 6 w 3) (fld 3 w 0))
  | 3 => accept true (.imul (hdr w) (fld 6 w 15) (fld 6 w 9) (fld 6 w 3) (fld 3 w 0))
  | 4 => accept true (.imulh (hdr w) (fld 6 w 15) (fld 6 w 9) (fld 6 w 3) (fld 3 w 0))
  | 5 => accept true (.imulhu (hdr w) (fld 6 w 15) (fld 6 w 9) (fld 6 w 3) (fld 3 w 0))
  | 6 => accept true (.imad (hdr w) (fld 6 w 15) (fld 6 w 9) (fld 6 w 3) (fld 3 w 0))
  | 7 => accept true (.imin (hdr w) (fld 6 w 15) (fld 6 w 9) (fld 6 w 3) (fld 3 w 0))
  | 8 => accept true (.imax (hdr w) (fld 6 w 15) (fld 6 w 9) (fld 6 w 3) (fld 3 w 0))
  | 9 => accept true (.iminu (hdr w) (fld 6 w 15) (fld 6 w 9) (fld 6 w 3) (fld 3 w 0))
  | 10 => accept true (.imaxu (hdr w) (fld 6 w 15) (fld 6 w 9) (fld 6 w 3) (fld 3 w 0))
  | 11 => accept true (.and (hdr w) (fld 6 w 15) (fld 6 w 9) (fld 6 w 3) (fld 3 w 0))
  | 12 => accept true (.or (hdr w) (fld 6 w 15) (fld 6 w 9) (fld 6 w 3) (fld 3 w 0))
  | 13 => accept true (.xor (hdr w) (fld 6 w 15) (fld 6 w 9) (fld 6 w 3) (fld 3 w 0))
  | 14 => accept true (.andn (hdr w) (fld 6 w 15) (fld 6 w 9) (fld 6 w 3) (fld 3 w 0))
  | _ => accept true (.sel (hdr w) (fld 6 w 15) (fld 6 w 9) (fld 6 w 3) (fld 3 w 0))

/-- The words of OP 0x10 to 0x1F (R254), by OP modulo 16. -/
def decodeOp1 (w : Nat) : Except EncTrap Instr :=
  match w / 2 ^ 21 % 16 with
  | 0 => accept true (.shl (hdr w) (fld 6 w 15) (fld 6 w 9) (fld 6 w 3) (fld 3 w 0))
  | 1 => accept true (.shr (hdr w) (fld 6 w 15) (fld 6 w 9) (fld 6 w 3) (fld 3 w 0))
  | 2 => accept true (.sar (hdr w) (fld 6 w 15) (fld 6 w 9) (fld 6 w 3) (fld 3 w 0))
  | 3 => accept true (.rot (hdr w) (fld 6 w 15) (fld 6 w 9) (fld 6 w 3) (fld 3 w 0))
  | 4 => accept true (.iadd64 (hdr w) (fld 6 w 15) (fld 6 w 9) (fld 6 w 3) (fld 3 w 0))
  | 5 => accept true (.bytp (hdr w) (fld 6 w 15) (fld 6 w 9) (fld 6 w 3) (fld 3 w 0))
  | 6 => accept true (.bfe (hdr w) (fld 6 w 15) (fld 6 w 9) (fld 6 w 3) (fld 3 w 0))
  | 7 => accept true (.bfi (hdr w) (fld 6 w 15) (fld 6 w 9) (fld 6 w 3) (fld 3 w 0))
  | 8 => accept true (.idot4 (hdr w) (fld 6 w 15) (fld 6 w 9) (fld 6 w 3) (fld 3 w 0))
  | 9 => accept true (.idot4u (hdr w) (fld 6 w 15) (fld 6 w 9) (fld 6 w 3) (fld 3 w 0))
  | 10 => accept true (.idot8 (hdr w) (fld 6 w 15) (fld 6 w 9) (fld 6 w 3) (fld 3 w 0))
  | 11 => accept true (.idiv (hdr w) (fld 6 w 15) (fld 6 w 9) (fld 6 w 3) (fld 3 w 0))
  | 12 => accept true (.irem (hdr w) (fld 6 w 15) (fld 6 w 9) (fld 6 w 3) (fld 3 w 0))
  | 13 => accept true (.icmp (hdr w) (fld 4 w 17) (fld 4 w 13) (fld 6 w 7) (fld 6 w 1) (fld 1 w 0))
  | 14 => accept true (.fcmp (hdr w) (fld 4 w 17) (fld 4 w 13) (fld 6 w 7) (fld 6 w 1) (fld 1 w 0))
  | _ => accept true (.dcmp (hdr w) (fld 4 w 17) (fld 4 w 13) (fld 6 w 7) (fld 6 w 1) (fld 1 w 0))

/-- The words of OP 0x20 to 0x2F (R254), by OP modulo 16. -/
def decodeOp2 (w : Nat) : Except EncTrap Instr :=
  match w / 2 ^ 21 % 16 with
  | 0 => accept true (.iaddi (hdr w) (fld 6 w 15) (fld 6 w 9) (fld 9 w 0))
  | 1 => accept true (.andi (hdr w) (fld 6 w 15) (fld 6 w 9) (fld 9 w 0))
  | 2 => accept true (.ori (hdr w) (fld 6 w 15) (fld 6 w 9) (fld 9 w 0))
  | 3 => accept true (.xori (hdr w) (fld 6 w 15) (fld 6 w 9) (fld 9 w 0))
  | 4 => accept (zeroAt 4 w 5) (.shli (hdr w) (fld 6 w 15) (fld 6 w 9) (fld 5 w 0))
  | 5 => accept (zeroAt 4 w 5) (.shri (hdr w) (fld 6 w 15) (fld 6 w 9) (fld 5 w 0))
  | 6 => accept (zeroAt 4 w 5) (.sari (hdr w) (fld 6 w 15) (fld 6 w 9) (fld 5 w 0))
  | 7 => accept true (.imuli (hdr w) (fld 6 w 15) (fld 6 w 9) (fld 9 w 0))
  | 8 => accept true (.movl (hdr w) (fld 5 w 16) (fld 16 w 0))
  | 9 => accept true (.movh (hdr w) (fld 5 w 16) (fld 16 w 0))
  | 10 => accept true (.smovl (hdr w) (fld 5 w 16) (fld 16 w 0))
  | 11 => accept true (.smovh (hdr w) (fld 5 w 16) (fld 16 w 0))
  | 12 => accept (zeroAt 1 w 0 && zeroAt 6 w 9) (.movs (hdr w) (fld 6 w 15) (fld 8 w 1))
  | 13 => accept (zeroAt 1 w 0) (.vtos (hdr w) (fld 6 w 15) (fld 6 w 9) (fld 8 w 1))
  | 14 => accept (zeroAt 1 w 0) (.iadds (hdr w) (fld 6 w 15) (fld 6 w 9) (fld 8 w 1))
  | _ => accept (zeroAt 1 w 0) (.imads (hdr w) (fld 6 w 15) (fld 6 w 9) (fld 8 w 1))

/-- The words of OP 0x30 to 0x3F (R254), by OP modulo 16. -/
def decodeOp3 (w : Nat) : Except EncTrap Instr :=
  match w / 2 ^ 21 % 16 with
  | 0 => decodeSop w
  | 1 => accept true (.saddi (hdr w) (fld 8 w 13) (fld 13 w 0))
  | 2 => accept true (.fadd (hdr w) (fld 6 w 15) (fld 6 w 9) (fld 6 w 3) (fld 1 w 2) (fld 2 w 0))
  | 3 => accept true (.fsub (hdr w) (fld 6 w 15) (fld 6 w 9) (fld 6 w 3) (fld 1 w 2) (fld 2 w 0))
  | 4 => accept true (.fmul (hdr w) (fld 6 w 15) (fld 6 w 9) (fld 6 w 3) (fld 1 w 2) (fld 2 w 0))
  | 5 => accept true (.ffma (hdr w) (fld 6 w 15) (fld 6 w 9) (fld 6 w 3) (fld 1 w 2) (fld 2 w 0))
  | 6 => accept true (.fmin (hdr w) (fld 6 w 15) (fld 6 w 9) (fld 6 w 3) (fld 1 w 2) (fld 2 w 0))
  | 7 => accept true (.fmax (hdr w) (fld 6 w 15) (fld 6 w 9) (fld 6 w 3) (fld 1 w 2) (fld 2 w 0))
  | 8 => accept true (.dadd (hdr w) (fld 6 w 15) (fld 6 w 9) (fld 6 w 3) (fld 1 w 2) (fld 2 w 0))
  | 9 => accept true (.dmul (hdr w) (fld 6 w 15) (fld 6 w 9) (fld 6 w 3) (fld 1 w 2) (fld 2 w 0))
  | 10 => accept true (.dfma (hdr w) (fld 6 w 15) (fld 6 w 9) (fld 6 w 3) (fld 1 w 2) (fld 2 w 0))
  | 11 => accept true (.hfma2 (hdr w) (fld 6 w 15) (fld 6 w 9) (fld 6 w 3) (fld 1 w 2) (fld 2 w 0))
  | 12 => accept true (.bfma2 (hdr w) (fld 6 w 15) (fld 6 w 9) (fld 6 w 3) (fld 1 w 2) (fld 2 w 0))
  | 13 => accept true (.fdot4 (hdr w) (fld 6 w 15) (fld 6 w 9) (fld 6 w 3) (fld 1 w 2) (fld 2 w 0))
  | 14 => accept true (.fdot8 (hdr w) (fld 6 w 15) (fld 6 w 9) (fld 6 w 3) (fld 1 w 2) (fld 2 w 0))
  | _ => decodeFun w

/-- The words of OP 0x40 to 0x4F (R254), by OP modulo 16. -/
def decodeOp4 (w : Nat) : Except EncTrap Instr :=
  match w / 2 ^ 21 % 16 with
  | 0 => if zeroAt 1 w 8 then accept true (.cvt (hdr w) (fld 6 w 15) (fld 6 w 9) (fld 5 w 3) (fld 1 w 2) (fld 2 w 0)) else accept true (.cvtMode (hdr w) (fld 6 w 15) (fld 6 w 9) (fld 2 w 6) (fld 3 w 3) (fld 1 w 2) (fld 2 w 0))
  | 1 => decodeQuad w
  | 2 => accept true (.shfl (hdr w) (fld 6 w 15) (fld 6 w 9) (fld 6 w 3) (fld 3 w 0))
  | 3 => decodeVote w
  | 4 => accept (zeroAt 7 w 0 && zeroAt 4 w 13) (.matchK (hdr w) (fld 4 w 17) (fld 6 w 7))
  | 5 => accept (zeroAt 1 w 2) (.redw (hdr w) (fld 6 w 15) (fld 6 w 9) (fld 6 w 3) (fld 2 w 0))
  | 6 => accept (zeroAt 1 w 2) (.scanw (hdr w) (fld 6 w 15) (fld 6 w 9) (fld 6 w 3) (fld 2 w 0))
  | 7 => decodeKop w
  | 8 => decodeKs w
  | 9 => decodeMsync w
  | 10 => decodeIun w
  | 11 => decodeFx w
  | 12 => accept (zeroAt 6 w 3) (.vrd (hdr w) (fld 6 w 15) (fld 6 w 9) (fld 3 w 0))
  | 13 => accept (zeroAt 6 w 15) (.vwr (hdr w) (fld 6 w 9) (fld 6 w 3) (fld 3 w 0))
  | _ => .error .reservedOp

/-- The words of OP 0x50 to 0x5F (R254), by OP modulo 16. -/
def decodeOp5 (w : Nat) : Except EncTrap Instr :=
  match w / 2 ^ 21 % 16 with
  | 0 => accept (zeroAt 2 w 0) (.lds (hdr w) (fld 6 w 15) (fld 6 w 9) (fld 4 w 5) (fld 3 w 2))
  | 1 => accept (zeroAt 2 w 0) (.sts (hdr w) (fld 6 w 15) (fld 6 w 9) (fld 4 w 5) (fld 3 w 2))
  | 2 => accept true (.ldc (hdr w) (fld 6 w 15) (fld 6 w 9) (fld 4 w 5) (fld 3 w 2) (fld 2 w 0))
  | 3 => accept true (.stc (hdr w) (fld 6 w 15) (fld 6 w 9) (fld 4 w 5) (fld 3 w 2) (fld 2 w 0))
  | 4 => accept true (.ldx (hdr w) (fld 6 w 15) (fld 6 w 9) (fld 4 w 5) (fld 3 w 2) (fld 2 w 0))
  | 5 => accept true (.stx (hdr w) (fld 6 w 15) (fld 6 w 9) (fld 4 w 5) (fld 3 w 2) (fld 2 w 0))
  | 6 => accept (zeroAt 2 w 0) (.ldio (hdr w) (fld 6 w 15) (fld 6 w 9) (fld 4 w 5) (fld 3 w 2))
  | 7 => accept (zeroAt 2 w 0) (.stio (hdr w) (fld 6 w 15) (fld 6 w 9) (fld 4 w 5) (fld 3 w 2))
  | 8 => accept true (.spill (hdr w) (fld 6 w 15) (fld 6 w 9) (fld 4 w 5) (fld 3 w 2) (fld 2 w 0))
  | 9 => accept true (.fill (hdr w) (fld 6 w 15) (fld 6 w 9) (fld 4 w 5) (fld 3 w 2) (fld 2 w 0))
  | _ => .error .reservedOp

/-- The words of OP 0x60 to 0x6F (R254), by OP modulo 16. -/
def decodeOp6 (w : Nat) : Except EncTrap Instr :=
  match w / 2 ^ 21 % 16 with
  | 0 => accept true (.atomAdd (hdr w) (fld 6 w 15) (fld 6 w 9) (fld 6 w 3) (fld 3 w 0))
  | 1 => accept true (.atomFadd (hdr w) (fld 6 w 15) (fld 6 w 9) (fld 6 w 3) (fld 3 w 0))
  | 2 => accept true (.atomMin (hdr w) (fld 6 w 15) (fld 6 w 9) (fld 6 w 3) (fld 3 w 0))
  | 3 => accept true (.atomMax (hdr w) (fld 6 w 15) (fld 6 w 9) (fld 6 w 3) (fld 3 w 0))
  | 4 => accept true (.atomAnd (hdr w) (fld 6 w 15) (fld 6 w 9) (fld 6 w 3) (fld 3 w 0))
  | 5 => accept true (.atomOr (hdr w) (fld 6 w 15) (fld 6 w 9) (fld 6 w 3) (fld 3 w 0))
  | 6 => accept true (.atomXor (hdr w) (fld 6 w 15) (fld 6 w 9) (fld 6 w 3) (fld 3 w 0))
  | 7 => accept true (.atomExch (hdr w) (fld 6 w 15) (fld 6 w 9) (fld 6 w 3) (fld 3 w 0))
  | 8 => accept true (.atomCas (hdr w) (fld 6 w 15) (fld 6 w 9) (fld 6 w 3) (fld 3 w 0))
  | 9 => accept true (.atomInc (hdr w) (fld 6 w 15) (fld 6 w 9) (fld 6 w 3) (fld 3 w 0))
  | 10 => accept true (.bra (hdr w) (fld 4 w 17) (fld 17 w 0))
  | 11 => if zeroAt 1 w 12 then accept true (.brasNz (hdr w) (fld 8 w 13) (fld 12 w 0)) else accept true (.brasZ (hdr w) (fld 8 w 13) (fld 12 w 0))
  | 12 => accept (zeroAt 6 w 3 && zeroAt 6 w 15) (.brx (hdr w) (fld 6 w 9) (fld 3 w 0))
  | 13 => accept true (.call (hdr w) (fld 6 w 15) (fld 15 w 0))
  | 14 => accept (zeroAt 6 w 3 && zeroAt 6 w 15) (.ret (hdr w) (fld 6 w 9) (fld 3 w 0))
  | _ => accept (zeroAt 18 w 3) (.exit (hdr w) (fld 3 w 0))

/-- The words of OP 0x70 to 0x7F (R254), by OP modulo 16. -/
def decodeOp7 (w : Nat) : Except EncTrap Instr :=
  match w / 2 ^ 21 % 16 with
  | 0 => accept (zeroAt 6 w 0) (.syscall (hdr w) (fld 9 w 12) (fld 6 w 6))
  | 1 => if zeroAt 6 w 15 then accept (zeroAt 4 w 3) (.trap (hdr w) (fld 8 w 7) (fld 3 w 0)) else .error .reservedOp
  | 2 => if zeroAt 6 w 15 then accept (zeroAt 15 w 0) (.tret (hdr w)) else .error .reservedOp
  | 3 => if zeroAt 6 w 15 then accept (zeroAt 12 w 3) (.bkpt (hdr w) (fld 3 w 0)) else .error .reservedOp
  | 4 => accept (zeroAt 5 w 0) (.srd (hdr w) (fld 8 w 13) (fld 8 w 5))
  | 5 => accept (zeroAt 5 w 0) (.swr (hdr w) (fld 8 w 13) (fld 8 w 5))
  | 6 => if zeroAt 6 w 15 then accept (zeroAt 7 w 3) (.fence (hdr w) (fld 3 w 12) (fld 2 w 10) (fld 3 w 0)) else .error .reservedOp
  | 7 => decodeBar w
  | 8 => decodeCopy w
  | 9 => decodeMm w
  | 10 => decodeQeng w
  | 11 => decodeTask w
  | 12 => accept (zeroAt 8 w 13) (.lease (hdr w) (fld 13 w 0))
  | 13 => if zeroAt 6 w 15 then accept (zeroAt 15 w 0) (.yield (hdr w)) else .error .reservedOp
  | _ => .error .reservedOp

/-- Decode a word (R254): total, every word an instruction or a trap by name. -/
def decode (w : Word) : Except EncTrap Instr :=
  match w.toNat / 2 ^ 25 % 8 with
  | 0 => decodeOp0 w.toNat
  | 1 => decodeOp1 w.toNat
  | 2 => decodeOp2 w.toNat
  | 3 => decodeOp3 w.toNat
  | 4 => decodeOp4 w.toNat
  | 5 => decodeOp5 w.toNat
  | 6 => decodeOp6 w.toNat
  | _ => decodeOp7 w.toNat

/-- The instruction word of an instruction, from the encoding tables of R251 to R256, as a number below 2^32; none for a
machine event, which has no word. -/
def encodeNat : Instr → Option Nat
  | .iadd h d a b g => some (h.c.toNat * 2147483648 + h.w.toNat * 268435456 + 0x00200000 + d.toNat * 32768 + a.toNat * 512 + b.toNat * 8 + g.toNat)
  | .isub h d a b g => some (h.c.toNat * 2147483648 + h.w.toNat * 268435456 + 0x00400000 + d.toNat * 32768 + a.toNat * 512 + b.toNat * 8 + g.toNat)
  | .imul h d a b g => some (h.c.toNat * 2147483648 + h.w.toNat * 268435456 + 0x00600000 + d.toNat * 32768 + a.toNat * 512 + b.toNat * 8 + g.toNat)
  | .imulh h d a b g => some (h.c.toNat * 2147483648 + h.w.toNat * 268435456 + 0x00800000 + d.toNat * 32768 + a.toNat * 512 + b.toNat * 8 + g.toNat)
  | .imulhu h d a b g => some (h.c.toNat * 2147483648 + h.w.toNat * 268435456 + 0x00A00000 + d.toNat * 32768 + a.toNat * 512 + b.toNat * 8 + g.toNat)
  | .imad h d a b g => some (h.c.toNat * 2147483648 + h.w.toNat * 268435456 + 0x00C00000 + d.toNat * 32768 + a.toNat * 512 + b.toNat * 8 + g.toNat)
  | .imin h d a b g => some (h.c.toNat * 2147483648 + h.w.toNat * 268435456 + 0x00E00000 + d.toNat * 32768 + a.toNat * 512 + b.toNat * 8 + g.toNat)
  | .imax h d a b g => some (h.c.toNat * 2147483648 + h.w.toNat * 268435456 + 0x01000000 + d.toNat * 32768 + a.toNat * 512 + b.toNat * 8 + g.toNat)
  | .iminu h d a b g => some (h.c.toNat * 2147483648 + h.w.toNat * 268435456 + 0x01200000 + d.toNat * 32768 + a.toNat * 512 + b.toNat * 8 + g.toNat)
  | .imaxu h d a b g => some (h.c.toNat * 2147483648 + h.w.toNat * 268435456 + 0x01400000 + d.toNat * 32768 + a.toNat * 512 + b.toNat * 8 + g.toNat)
  | .and h d a b g => some (h.c.toNat * 2147483648 + h.w.toNat * 268435456 + 0x01600000 + d.toNat * 32768 + a.toNat * 512 + b.toNat * 8 + g.toNat)
  | .or h d a b g => some (h.c.toNat * 2147483648 + h.w.toNat * 268435456 + 0x01800000 + d.toNat * 32768 + a.toNat * 512 + b.toNat * 8 + g.toNat)
  | .xor h d a b g => some (h.c.toNat * 2147483648 + h.w.toNat * 268435456 + 0x01A00000 + d.toNat * 32768 + a.toNat * 512 + b.toNat * 8 + g.toNat)
  | .andn h d a b g => some (h.c.toNat * 2147483648 + h.w.toNat * 268435456 + 0x01C00000 + d.toNat * 32768 + a.toNat * 512 + b.toNat * 8 + g.toNat)
  | .sel h d a b g => some (h.c.toNat * 2147483648 + h.w.toNat * 268435456 + 0x01E00000 + d.toNat * 32768 + a.toNat * 512 + b.toNat * 8 + g.toNat)
  | .shl h d a b g => some (h.c.toNat * 2147483648 + h.w.toNat * 268435456 + 0x02000000 + d.toNat * 32768 + a.toNat * 512 + b.toNat * 8 + g.toNat)
  | .shr h d a b g => some (h.c.toNat * 2147483648 + h.w.toNat * 268435456 + 0x02200000 + d.toNat * 32768 + a.toNat * 512 + b.toNat * 8 + g.toNat)
  | .sar h d a b g => some (h.c.toNat * 2147483648 + h.w.toNat * 268435456 + 0x02400000 + d.toNat * 32768 + a.toNat * 512 + b.toNat * 8 + g.toNat)
  | .rot h d a b g => some (h.c.toNat * 2147483648 + h.w.toNat * 268435456 + 0x02600000 + d.toNat * 32768 + a.toNat * 512 + b.toNat * 8 + g.toNat)
  | .iadd64 h d a b g => some (h.c.toNat * 2147483648 + h.w.toNat * 268435456 + 0x02800000 + d.toNat * 32768 + a.toNat * 512 + b.toNat * 8 + g.toNat)
  | .bytp h d a b g => some (h.c.toNat * 2147483648 + h.w.toNat * 268435456 + 0x02A00000 + d.toNat * 32768 + a.toNat * 512 + b.toNat * 8 + g.toNat)
  | .bfe h d a b g => some (h.c.toNat * 2147483648 + h.w.toNat * 268435456 + 0x02C00000 + d.toNat * 32768 + a.toNat * 512 + b.toNat * 8 + g.toNat)
  | .bfi h d a b g => some (h.c.toNat * 2147483648 + h.w.toNat * 268435456 + 0x02E00000 + d.toNat * 32768 + a.toNat * 512 + b.toNat * 8 + g.toNat)
  | .idot4 h d a b g => some (h.c.toNat * 2147483648 + h.w.toNat * 268435456 + 0x03000000 + d.toNat * 32768 + a.toNat * 512 + b.toNat * 8 + g.toNat)
  | .idot4u h d a b g => some (h.c.toNat * 2147483648 + h.w.toNat * 268435456 + 0x03200000 + d.toNat * 32768 + a.toNat * 512 + b.toNat * 8 + g.toNat)
  | .idot8 h d a b g => some (h.c.toNat * 2147483648 + h.w.toNat * 268435456 + 0x03400000 + d.toNat * 32768 + a.toNat * 512 + b.toNat * 8 + g.toNat)
  | .idiv h d a b g => some (h.c.toNat * 2147483648 + h.w.toNat * 268435456 + 0x03600000 + d.toNat * 32768 + a.toNat * 512 + b.toNat * 8 + g.toNat)
  | .irem h d a b g => some (h.c.toNat * 2147483648 + h.w.toNat * 268435456 + 0x03800000 + d.toNat * 32768 + a.toNat * 512 + b.toNat * 8 + g.toNat)
  | .icmp h k f a b n => some (h.c.toNat * 2147483648 + h.w.toNat * 268435456 + 0x03A00000 + k.toNat * 131072 + f.toNat * 8192 + a.toNat * 128 + b.toNat * 2 + n.toNat)
  | .fcmp h k f a b n => some (h.c.toNat * 2147483648 + h.w.toNat * 268435456 + 0x03C00000 + k.toNat * 131072 + f.toNat * 8192 + a.toNat * 128 + b.toNat * 2 + n.toNat)
  | .dcmp h k f a b n => some (h.c.toNat * 2147483648 + h.w.toNat * 268435456 + 0x03E00000 + k.toNat * 131072 + f.toNat * 8192 + a.toNat * 128 + b.toNat * 2 + n.toNat)
  | .iaddi h d a i => some (h.c.toNat * 2147483648 + h.w.toNat * 268435456 + 0x04000000 + d.toNat * 32768 + a.toNat * 512 + i.toNat)
  | .andi h d a i => some (h.c.toNat * 2147483648 + h.w.toNat * 268435456 + 0x04200000 + d.toNat * 32768 + a.toNat * 512 + i.toNat)
  | .ori h d a i => some (h.c.toNat * 2147483648 + h.w.toNat * 268435456 + 0x04400000 + d.toNat * 32768 + a.toNat * 512 + i.toNat)
  | .xori h d a i => some (h.c.toNat * 2147483648 + h.w.toNat * 268435456 + 0x04600000 + d.toNat * 32768 + a.toNat * 512 + i.toNat)
  | .shli h d a i => some (h.c.toNat * 2147483648 + h.w.toNat * 268435456 + 0x04800000 + d.toNat * 32768 + a.toNat * 512 + i.toNat)
  | .shri h d a i => some (h.c.toNat * 2147483648 + h.w.toNat * 268435456 + 0x04A00000 + d.toNat * 32768 + a.toNat * 512 + i.toNat)
  | .sari h d a i => some (h.c.toNat * 2147483648 + h.w.toNat * 268435456 + 0x04C00000 + d.toNat * 32768 + a.toNat * 512 + i.toNat)
  | .imuli h d a i => some (h.c.toNat * 2147483648 + h.w.toNat * 268435456 + 0x04E00000 + d.toNat * 32768 + a.toNat * 512 + i.toNat)
  | .movl h d i => some (h.c.toNat * 2147483648 + h.w.toNat * 268435456 + 0x05000000 + d.toNat * 65536 + i.toNat)
  | .movh h d i => some (h.c.toNat * 2147483648 + h.w.toNat * 268435456 + 0x05200000 + d.toNat * 65536 + i.toNat)
  | .smovl h d i => some (h.c.toNat * 2147483648 + h.w.toNat * 268435456 + 0x05400000 + d.toNat * 65536 + i.toNat)
  | .smovh h d i => some (h.c.toNat * 2147483648 + h.w.toNat * 268435456 + 0x05600000 + d.toNat * 65536 + i.toNat)
  | .movs h d s => some (h.c.toNat * 2147483648 + h.w.toNat * 268435456 + 0x05800000 + d.toNat * 32768 + s.toNat * 2)
  | .vtos h d a s => some (h.c.toNat * 2147483648 + h.w.toNat * 268435456 + 0x05A00000 + d.toNat * 32768 + a.toNat * 512 + s.toNat * 2)
  | .iadds h d a s => some (h.c.toNat * 2147483648 + h.w.toNat * 268435456 + 0x05C00000 + d.toNat * 32768 + a.toNat * 512 + s.toNat * 2)
  | .imads h d a s => some (h.c.toNat * 2147483648 + h.w.toNat * 268435456 + 0x05E00000 + d.toNat * 32768 + a.toNat * 512 + s.toNat * 2)
  | .sadd h d a => some (h.c.toNat * 2147483648 + h.w.toNat * 268435456 + 0x06000000 + d.toNat * 8192 + a.toNat * 32)
  | .ssub h d a => some (h.c.toNat * 2147483648 + h.w.toNat * 268435456 + 0x06000001 + d.toNat * 8192 + a.toNat * 32)
  | .smul h d a => some (h.c.toNat * 2147483648 + h.w.toNat * 268435456 + 0x06000002 + d.toNat * 8192 + a.toNat * 32)
  | .sand h d a => some (h.c.toNat * 2147483648 + h.w.toNat * 268435456 + 0x06000003 + d.toNat * 8192 + a.toNat * 32)
  | .sor h d a => some (h.c.toNat * 2147483648 + h.w.toNat * 268435456 + 0x06000004 + d.toNat * 8192 + a.toNat * 32)
  | .sxor h d a => some (h.c.toNat * 2147483648 + h.w.toNat * 268435456 + 0x06000005 + d.toNat * 8192 + a.toNat * 32)
  | .sshl h d a => some (h.c.toNat * 2147483648 + h.w.toNat * 268435456 + 0x06000006 + d.toNat * 8192 + a.toNat * 32)
  | .sshr h d a => some (h.c.toNat * 2147483648 + h.w.toNat * 268435456 + 0x06000007 + d.toNat * 8192 + a.toNat * 32)
  | .ssar h d a => some (h.c.toNat * 2147483648 + h.w.toNat * 268435456 + 0x06000008 + d.toNat * 8192 + a.toNat * 32)
  | .smin h d a => some (h.c.toNat * 2147483648 + h.w.toNat * 268435456 + 0x06000009 + d.toNat * 8192 + a.toNat * 32)
  | .smax h d a => some (h.c.toNat * 2147483648 + h.w.toNat * 268435456 + 0x0600000A + d.toNat * 8192 + a.toNat * 32)
  | .sminu h d a => some (h.c.toNat * 2147483648 + h.w.toNat * 268435456 + 0x0600000B + d.toNat * 8192 + a.toNat * 32)
  | .smaxu h d a => some (h.c.toNat * 2147483648 + h.w.toNat * 268435456 + 0x0600000C + d.toNat * 8192 + a.toNat * 32)
  | .smov h d a => some (h.c.toNat * 2147483648 + h.w.toNat * 268435456 + 0x0600000D + d.toNat * 8192 + a.toNat * 32)
  | .snot h d a => some (h.c.toNat * 2147483648 + h.w.toNat * 268435456 + 0x0600000E + d.toNat * 8192 + a.toNat * 32)
  | .sneg h d a => some (h.c.toNat * 2147483648 + h.w.toNat * 268435456 + 0x0600000F + d.toNat * 8192 + a.toNat * 32)
  | .seq h d a => some (h.c.toNat * 2147483648 + h.w.toNat * 268435456 + 0x06000010 + d.toNat * 8192 + a.toNat * 32)
  | .slt h d a => some (h.c.toNat * 2147483648 + h.w.toNat * 268435456 + 0x06000011 + d.toNat * 8192 + a.toNat * 32)
  | .sltu h d a => some (h.c.toNat * 2147483648 + h.w.toNat * 268435456 + 0x06000012 + d.toNat * 8192 + a.toNat * 32)
  | .saddi h d i => some (h.c.toNat * 2147483648 + h.w.toNat * 268435456 + 0x06200000 + d.toNat * 8192 + i.toNat)
  | .fadd h d a b q g => some (h.c.toNat * 2147483648 + h.w.toNat * 268435456 + 0x06400000 + d.toNat * 32768 + a.toNat * 512 + b.toNat * 8 + q.toNat * 4 + g.toNat)
  | .fsub h d a b q g => some (h.c.toNat * 2147483648 + h.w.toNat * 268435456 + 0x06600000 + d.toNat * 32768 + a.toNat * 512 + b.toNat * 8 + q.toNat * 4 + g.toNat)
  | .fmul h d a b q g => some (h.c.toNat * 2147483648 + h.w.toNat * 268435456 + 0x06800000 + d.toNat * 32768 + a.toNat * 512 + b.toNat * 8 + q.toNat * 4 + g.toNat)
  | .ffma h d a b q g => some (h.c.toNat * 2147483648 + h.w.toNat * 268435456 + 0x06A00000 + d.toNat * 32768 + a.toNat * 512 + b.toNat * 8 + q.toNat * 4 + g.toNat)
  | .fmin h d a b q g => some (h.c.toNat * 2147483648 + h.w.toNat * 268435456 + 0x06C00000 + d.toNat * 32768 + a.toNat * 512 + b.toNat * 8 + q.toNat * 4 + g.toNat)
  | .fmax h d a b q g => some (h.c.toNat * 2147483648 + h.w.toNat * 268435456 + 0x06E00000 + d.toNat * 32768 + a.toNat * 512 + b.toNat * 8 + q.toNat * 4 + g.toNat)
  | .dadd h d a b q g => some (h.c.toNat * 2147483648 + h.w.toNat * 268435456 + 0x07000000 + d.toNat * 32768 + a.toNat * 512 + b.toNat * 8 + q.toNat * 4 + g.toNat)
  | .dmul h d a b q g => some (h.c.toNat * 2147483648 + h.w.toNat * 268435456 + 0x07200000 + d.toNat * 32768 + a.toNat * 512 + b.toNat * 8 + q.toNat * 4 + g.toNat)
  | .dfma h d a b q g => some (h.c.toNat * 2147483648 + h.w.toNat * 268435456 + 0x07400000 + d.toNat * 32768 + a.toNat * 512 + b.toNat * 8 + q.toNat * 4 + g.toNat)
  | .hfma2 h d a b q g => some (h.c.toNat * 2147483648 + h.w.toNat * 268435456 + 0x07600000 + d.toNat * 32768 + a.toNat * 512 + b.toNat * 8 + q.toNat * 4 + g.toNat)
  | .bfma2 h d a b q g => some (h.c.toNat * 2147483648 + h.w.toNat * 268435456 + 0x07800000 + d.toNat * 32768 + a.toNat * 512 + b.toNat * 8 + q.toNat * 4 + g.toNat)
  | .fdot4 h d a b q g => some (h.c.toNat * 2147483648 + h.w.toNat * 268435456 + 0x07A00000 + d.toNat * 32768 + a.toNat * 512 + b.toNat * 8 + q.toNat * 4 + g.toNat)
  | .fdot8 h d a b q g => some (h.c.toNat * 2147483648 + h.w.toNat * 268435456 + 0x07C00000 + d.toNat * 32768 + a.toNat * 512 + b.toNat * 8 + q.toNat * 4 + g.toNat)
  | .fneg h d a q g => some (h.c.toNat * 2147483648 + h.w.toNat * 268435456 + 0x07E00000 + d.toNat * 32768 + a.toNat * 512 + q.toNat * 4 + g.toNat)
  | .fabs h d a q g => some (h.c.toNat * 2147483648 + h.w.toNat * 268435456 + 0x07E00008 + d.toNat * 32768 + a.toNat * 512 + q.toNat * 4 + g.toNat)
  | .frcp h d a q g => some (h.c.toNat * 2147483648 + h.w.toNat * 268435456 + 0x07E00010 + d.toNat * 32768 + a.toNat * 512 + q.toNat * 4 + g.toNat)
  | .frsq h d a q g => some (h.c.toNat * 2147483648 + h.w.toNat * 268435456 + 0x07E00018 + d.toNat * 32768 + a.toNat * 512 + q.toNat * 4 + g.toNat)
  | .fsqrt h d a q g => some (h.c.toNat * 2147483648 + h.w.toNat * 268435456 + 0x07E00020 + d.toNat * 32768 + a.toNat * 512 + q.toNat * 4 + g.toNat)
  | .fexp2 h d a q g => some (h.c.toNat * 2147483648 + h.w.toNat * 268435456 + 0x07E00028 + d.toNat * 32768 + a.toNat * 512 + q.toNat * 4 + g.toNat)
  | .flog2 h d a q g => some (h.c.toNat * 2147483648 + h.w.toNat * 268435456 + 0x07E00030 + d.toNat * 32768 + a.toNat * 512 + q.toNat * 4 + g.toNat)
  | .fsin h d a q g => some (h.c.toNat * 2147483648 + h.w.toNat * 268435456 + 0x07E00038 + d.toNat * 32768 + a.toNat * 512 + q.toNat * 4 + g.toNat)
  | .fcos h d a q g => some (h.c.toNat * 2147483648 + h.w.toNat * 268435456 + 0x07E00040 + d.toNat * 32768 + a.toNat * 512 + q.toNat * 4 + g.toNat)
  | .ftanh h d a q g => some (h.c.toNat * 2147483648 + h.w.toNat * 268435456 + 0x07E00048 + d.toNat * 32768 + a.toNat * 512 + q.toNat * 4 + g.toNat)
  | .ffloor h d a q g => some (h.c.toNat * 2147483648 + h.w.toNat * 268435456 + 0x07E00050 + d.toNat * 32768 + a.toNat * 512 + q.toNat * 4 + g.toNat)
  | .fceil h d a q g => some (h.c.toNat * 2147483648 + h.w.toNat * 268435456 + 0x07E00058 + d.toNat * 32768 + a.toNat * 512 + q.toNat * 4 + g.toNat)
  | .frnd h d a q g => some (h.c.toNat * 2147483648 + h.w.toNat * 268435456 + 0x07E00060 + d.toNat * 32768 + a.toNat * 512 + q.toNat * 4 + g.toNat)
  | .ftrunc h d a q g => some (h.c.toNat * 2147483648 + h.w.toNat * 268435456 + 0x07E00068 + d.toNat * 32768 + a.toNat * 512 + q.toNat * 4 + g.toNat)
  | .drcp h d a q g => some (h.c.toNat * 2147483648 + h.w.toNat * 268435456 + 0x07E00070 + d.toNat * 32768 + a.toNat * 512 + q.toNat * 4 + g.toNat)
  | .dsqrt h d a q g => some (h.c.toNat * 2147483648 + h.w.toNat * 268435456 + 0x07E00078 + d.toNat * 32768 + a.toNat * 512 + q.toNat * 4 + g.toNat)
  | .dneg h d a q g => some (h.c.toNat * 2147483648 + h.w.toNat * 268435456 + 0x07E00080 + d.toNat * 32768 + a.toNat * 512 + q.toNat * 4 + g.toNat)
  | .dabs h d a q g => some (h.c.toNat * 2147483648 + h.w.toNat * 268435456 + 0x07E00088 + d.toNat * 32768 + a.toNat * 512 + q.toNat * 4 + g.toNat)
  | .cvt h d a f q g => some (h.c.toNat * 2147483648 + h.w.toNat * 268435456 + 0x08000000 + d.toNat * 32768 + a.toNat * 512 + f.toNat * 8 + q.toNat * 4 + g.toNat)
  | .cvtMode h d a p m q g => some (h.c.toNat * 2147483648 + h.w.toNat * 268435456 + 0x08000100 + d.toNat * 32768 + a.toNat * 512 + p.toNat * 64 + m.toNat * 8 + q.toNat * 4 + g.toNat)
  | .qswz h d a m g => some (h.c.toNat * 2147483648 + h.w.toNat * 268435456 + 0x08200000 + d.toNat * 32768 + a.toNat * 512 + m.toNat * 8 + g.toNat)
  | .qbcast h d a j g => some (h.c.toNat * 2147483648 + h.w.toNat * 268435456 + 0x08200020 + d.toNat * 32768 + a.toNat * 512 + j.toNat * 8 + g.toNat)
  | .qdiffx h d a g => some (h.c.toNat * 2147483648 + h.w.toNat * 268435456 + 0x08200040 + d.toNat * 32768 + a.toNat * 512 + g.toNat)
  | .qdiffy h d a g => some (h.c.toNat * 2147483648 + h.w.toNat * 268435456 + 0x08200060 + d.toNat * 32768 + a.toNat * 512 + g.toNat)
  | .shfl h d a b g => some (h.c.toNat * 2147483648 + h.w.toNat * 268435456 + 0x08400000 + d.toNat * 32768 + a.toNat * 512 + b.toNat * 8 + g.toNat)
  | .voteNz h k a n => some (h.c.toNat * 2147483648 + h.w.toNat * 268435456 + 0x08600000 + k.toNat * 131072 + a.toNat * 128 + n.toNat)
  | .voteZ h k a n => some (h.c.toNat * 2147483648 + h.w.toNat * 268435456 + 0x08602000 + k.toNat * 131072 + a.toNat * 128 + n.toNat)
  | .matchK h k a => some (h.c.toNat * 2147483648 + h.w.toNat * 268435456 + 0x08800000 + k.toNat * 131072 + a.toNat * 128)
  | .redw h d a f g => some (h.c.toNat * 2147483648 + h.w.toNat * 268435456 + 0x08A00000 + d.toNat * 32768 + a.toNat * 512 + f.toNat * 8 + g.toNat)
  | .scanw h d a f g => some (h.c.toNat * 2147483648 + h.w.toNat * 268435456 + 0x08C00000 + d.toNat * 32768 + a.toNat * 512 + f.toNat * 8 + g.toNat)
  | .kand h k a b => some (h.c.toNat * 2147483648 + h.w.toNat * 268435456 + 0x08E00000 + k.toNat * 131072 + a.toNat * 128 + b.toNat * 2)
  | .kor h k a b => some (h.c.toNat * 2147483648 + h.w.toNat * 268435456 + 0x08E02000 + k.toNat * 131072 + a.toNat * 128 + b.toNat * 2)
  | .kxor h k a b => some (h.c.toNat * 2147483648 + h.w.toNat * 268435456 + 0x08E04000 + k.toNat * 131072 + a.toNat * 128 + b.toNat * 2)
  | .kandn h k a b => some (h.c.toNat * 2147483648 + h.w.toNat * 268435456 + 0x08E06000 + k.toNat * 131072 + a.toNat * 128 + b.toNat * 2)
  | .knot h k a => some (h.c.toNat * 2147483648 + h.w.toNat * 268435456 + 0x08E08000 + k.toNat * 131072 + a.toNat * 128)
  | .kmov h k a => some (h.c.toNat * 2147483648 + h.w.toNat * 268435456 + 0x08E0A000 + k.toNat * 131072 + a.toNat * 128)
  | .ktos h d a => some (h.c.toNat * 2147483648 + h.w.toNat * 268435456 + 0x09000000 + d.toNat * 8192 + a.toNat * 32)
  | .stok h d a => some (h.c.toNat * 2147483648 + h.w.toNat * 268435456 + 0x09000001 + d.toNat * 8192 + a.toNat * 32)
  | .kpop h d a => some (h.c.toNat * 2147483648 + h.w.toNat * 268435456 + 0x09000002 + d.toNat * 8192 + a.toNat * 32)
  | .join h k g => some (h.c.toNat * 2147483648 + h.w.toNat * 268435456 + 0x09200000 + k.toNat * 2048 + g.toNat * 4)
  | .leave h k g => some (h.c.toNat * 2147483648 + h.w.toNat * 268435456 + 0x09208000 + k.toNat * 2048 + g.toNat * 4)
  | .waitk h k g => some (h.c.toNat * 2147483648 + h.w.toNat * 268435456 + 0x09210000 + k.toNat * 2048 + g.toNat * 4)
  | .elect h k g => some (h.c.toNat * 2147483648 + h.w.toNat * 268435456 + 0x09218000 + k.toNat * 2048 + g.toNat * 4)
  | .ksync h k a g => some (h.c.toNat * 2147483648 + h.w.toNat * 268435456 + 0x09220000 + k.toNat * 2048 + a.toNat * 32 + g.toNat * 4)
  | .popc h d a g => some (h.c.toNat * 2147483648 + h.w.toNat * 268435456 + 0x09400000 + d.toNat * 32768 + a.toNat * 512 + g.toNat)
  | .clz h d a g => some (h.c.toNat * 2147483648 + h.w.toNat * 268435456 + 0x09400008 + d.toNat * 32768 + a.toNat * 512 + g.toNat)
  | .brev h d a g => some (h.c.toNat * 2147483648 + h.w.toNat * 268435456 + 0x09400010 + d.toNat * 32768 + a.toNat * 512 + g.toNat)
  | .not h d a g => some (h.c.toNat * 2147483648 + h.w.toNat * 268435456 + 0x09400018 + d.toNat * 32768 + a.toNat * 512 + g.toNat)
  | .ineg h d a g => some (h.c.toNat * 2147483648 + h.w.toNat * 268435456 + 0x09400020 + d.toNat * 32768 + a.toNat * 512 + g.toNat)
  | .iabs h d a g => some (h.c.toNat * 2147483648 + h.w.toNat * 268435456 + 0x09400028 + d.toNat * 32768 + a.toNat * 512 + g.toNat)
  | .lid h d g => some (h.c.toNat * 2147483648 + h.w.toNat * 268435456 + 0x09400030 + d.toNat * 32768 + g.toNat)
  | .fxrd h d g => some (h.c.toNat * 2147483648 + h.w.toNat * 268435456 + 0x09600000 + d.toNat * 32768 + g.toNat)
  | .fxclr h a g => some (h.c.toNat * 2147483648 + h.w.toNat * 268435456 + 0x09600008 + a.toNat * 512 + g.toNat)
  | .fxset h a g => some (h.c.toNat * 2147483648 + h.w.toNat * 268435456 + 0x09600010 + a.toNat * 512 + g.toNat)
  | .vrd h d a g => some (h.c.toNat * 2147483648 + h.w.toNat * 268435456 + 0x09800000 + d.toNat * 32768 + a.toNat * 512 + g.toNat)
  | .vwr h a b g => some (h.c.toNat * 2147483648 + h.w.toNat * 268435456 + 0x09A00000 + a.toNat * 512 + b.toNat * 8 + g.toNat)
  | .lds h t a o z => some (h.c.toNat * 2147483648 + h.w.toNat * 268435456 + 0x0A000000 + t.toNat * 32768 + a.toNat * 512 + o.toNat * 32 + z.toNat * 4)
  | .sts h t a o z => some (h.c.toNat * 2147483648 + h.w.toNat * 268435456 + 0x0A200000 + t.toNat * 32768 + a.toNat * 512 + o.toNat * 32 + z.toNat * 4)
  | .ldc h t a o z h1 => some (h.c.toNat * 2147483648 + h.w.toNat * 268435456 + 0x0A400000 + t.toNat * 32768 + a.toNat * 512 + o.toNat * 32 + z.toNat * 4 + h1.toNat)
  | .stc h t a o z h1 => some (h.c.toNat * 2147483648 + h.w.toNat * 268435456 + 0x0A600000 + t.toNat * 32768 + a.toNat * 512 + o.toNat * 32 + z.toNat * 4 + h1.toNat)
  | .ldx h t a o z h1 => some (h.c.toNat * 2147483648 + h.w.toNat * 268435456 + 0x0A800000 + t.toNat * 32768 + a.toNat * 512 + o.toNat * 32 + z.toNat * 4 + h1.toNat)
  | .stx h t a o z h1 => some (h.c.toNat * 2147483648 + h.w.toNat * 268435456 + 0x0AA00000 + t.toNat * 32768 + a.toNat * 512 + o.toNat * 32 + z.toNat * 4 + h1.toNat)
  | .ldio h t a o z => some (h.c.toNat * 2147483648 + h.w.toNat * 268435456 + 0x0AC00000 + t.toNat * 32768 + a.toNat * 512 + o.toNat * 32 + z.toNat * 4)
  | .stio h t a o z => some (h.c.toNat * 2147483648 + h.w.toNat * 268435456 + 0x0AE00000 + t.toNat * 32768 + a.toNat * 512 + o.toNat * 32 + z.toNat * 4)
  | .spill h t a o z h1 => some (h.c.toNat * 2147483648 + h.w.toNat * 268435456 + 0x0B000000 + t.toNat * 32768 + a.toNat * 512 + o.toNat * 32 + z.toNat * 4 + h1.toNat)
  | .fill h t a o z h1 => some (h.c.toNat * 2147483648 + h.w.toNat * 268435456 + 0x0B200000 + t.toNat * 32768 + a.toNat * 512 + o.toNat * 32 + z.toNat * 4 + h1.toNat)
  | .atomAdd h t a b s => some (h.c.toNat * 2147483648 + h.w.toNat * 268435456 + 0x0C000000 + t.toNat * 32768 + a.toNat * 512 + b.toNat * 8 + s.toNat)
  | .atomFadd h t a b s => some (h.c.toNat * 2147483648 + h.w.toNat * 268435456 + 0x0C200000 + t.toNat * 32768 + a.toNat * 512 + b.toNat * 8 + s.toNat)
  | .atomMin h t a b s => some (h.c.toNat * 2147483648 + h.w.toNat * 268435456 + 0x0C400000 + t.toNat * 32768 + a.toNat * 512 + b.toNat * 8 + s.toNat)
  | .atomMax h t a b s => some (h.c.toNat * 2147483648 + h.w.toNat * 268435456 + 0x0C600000 + t.toNat * 32768 + a.toNat * 512 + b.toNat * 8 + s.toNat)
  | .atomAnd h t a b s => some (h.c.toNat * 2147483648 + h.w.toNat * 268435456 + 0x0C800000 + t.toNat * 32768 + a.toNat * 512 + b.toNat * 8 + s.toNat)
  | .atomOr h t a b s => some (h.c.toNat * 2147483648 + h.w.toNat * 268435456 + 0x0CA00000 + t.toNat * 32768 + a.toNat * 512 + b.toNat * 8 + s.toNat)
  | .atomXor h t a b s => some (h.c.toNat * 2147483648 + h.w.toNat * 268435456 + 0x0CC00000 + t.toNat * 32768 + a.toNat * 512 + b.toNat * 8 + s.toNat)
  | .atomExch h t a b s => some (h.c.toNat * 2147483648 + h.w.toNat * 268435456 + 0x0CE00000 + t.toNat * 32768 + a.toNat * 512 + b.toNat * 8 + s.toNat)
  | .atomCas h t a b s => some (h.c.toNat * 2147483648 + h.w.toNat * 268435456 + 0x0D000000 + t.toNat * 32768 + a.toNat * 512 + b.toNat * 8 + s.toNat)
  | .atomInc h t a b s => some (h.c.toNat * 2147483648 + h.w.toNat * 268435456 + 0x0D200000 + t.toNat * 32768 + a.toNat * 512 + b.toNat * 8 + s.toNat)
  | .bra h k o => some (h.c.toNat * 2147483648 + h.w.toNat * 268435456 + 0x0D400000 + k.toNat * 131072 + o.toNat)
  | .brasZ h s o => some (h.c.toNat * 2147483648 + h.w.toNat * 268435456 + 0x0D601000 + s.toNat * 8192 + o.toNat)
  | .brasNz h s o => some (h.c.toNat * 2147483648 + h.w.toNat * 268435456 + 0x0D600000 + s.toNat * 8192 + o.toNat)
  | .brx h a g => some (h.c.toNat * 2147483648 + h.w.toNat * 268435456 + 0x0D800000 + a.toNat * 512 + g.toNat)
  | .call h d o => some (h.c.toNat * 2147483648 + h.w.toNat * 268435456 + 0x0DA00000 + d.toNat * 32768 + o.toNat)
  | .ret h a g => some (h.c.toNat * 2147483648 + h.w.toNat * 268435456 + 0x0DC00000 + a.toNat * 512 + g.toNat)
  | .exit h g => some (h.c.toNat * 2147483648 + h.w.toNat * 268435456 + 0x0DE00000 + g.toNat)
  | .syscall h n a => some (h.c.toNat * 2147483648 + h.w.toNat * 268435456 + 0x0E000000 + n.toNat * 4096 + a.toNat * 64)
  | .trap h i g => some (h.c.toNat * 2147483648 + h.w.toNat * 268435456 + 0x0E200000 + i.toNat * 128 + g.toNat)
  | .tret h => some (h.c.toNat * 2147483648 + h.w.toNat * 268435456 + 0x0E400000)
  | .bkpt h g => some (h.c.toNat * 2147483648 + h.w.toNat * 268435456 + 0x0E600000 + g.toNat)
  | .srd h d a => some (h.c.toNat * 2147483648 + h.w.toNat * 268435456 + 0x0E800000 + d.toNat * 8192 + a.toNat * 32)
  | .swr h d a => some (h.c.toNat * 2147483648 + h.w.toNat * 268435456 + 0x0EA00000 + d.toNat * 8192 + a.toNat * 32)
  | .fence h s k g => some (h.c.toNat * 2147483648 + h.w.toNat * 268435456 + 0x0EC00000 + s.toNat * 4096 + k.toNat * 1024 + g.toNat)
  | .binit h b s g => some (h.c.toNat * 2147483648 + h.w.toNat * 268435456 + 0x0EE00000 + b.toNat * 2048 + s.toNat * 8 + g.toNat)
  | .barr h b s g => some (h.c.toNat * 2147483648 + h.w.toNat * 268435456 + 0x0EE08000 + b.toNat * 2048 + s.toNat * 8 + g.toNat)
  | .barrd h b s g => some (h.c.toNat * 2147483648 + h.w.toNat * 268435456 + 0x0EE10000 + b.toNat * 2048 + s.toNat * 8 + g.toNat)
  | .barrj h b s g => some (h.c.toNat * 2147483648 + h.w.toNat * 268435456 + 0x0EE18000 + b.toNat * 2048 + s.toNat * 8 + g.toNat)
  | .bwait h b s g => some (h.c.toNat * 2147483648 + h.w.toNat * 268435456 + 0x0EE20000 + b.toNat * 2048 + s.toNat * 8 + g.toNat)
  | .bsync h b g => some (h.c.toNat * 2147483648 + h.w.toNat * 268435456 + 0x0EE28000 + b.toNat * 2048 + g.toNat)
  | .copy h h1 s n p z => some (h.c.toNat * 2147483648 + h.w.toNat * 268435456 + 0x0F000000 + h1.toNat * 32768 + s.toNat * 128 + n.toNat * 8 + p.toNat * 2 + z.toNat)
  | .copys h h1 s n p z => some (h.c.toNat * 2147483648 + h.w.toNat * 268435456 + 0x0F020000 + h1.toNat * 32768 + s.toNat * 128 + n.toNat * 8 + p.toNat * 2 + z.toNat)
  | .copym h h1 s n p z => some (h.c.toNat * 2147483648 + h.w.toNat * 268435456 + 0x0F040000 + h1.toNat * 32768 + s.toNat * 128 + n.toNat * 8 + p.toNat * 2 + z.toNat)
  | .gath h h1 s n p z => some (h.c.toNat * 2147483648 + h.w.toNat * 268435456 + 0x0F060000 + h1.toNat * 32768 + s.toNat * 128 + n.toNat * 8 + p.toNat * 2 + z.toNat)
  | .pref h h1 s n p z => some (h.c.toNat * 2147483648 + h.w.toNat * 268435456 + 0x0F080000 + h1.toNat * 32768 + s.toNat * 128 + n.toNat * 8 + p.toNat * 2 + z.toNat)
  | .amo h h1 s n p z => some (h.c.toNat * 2147483648 + h.w.toNat * 268435456 + 0x0F0A0000 + h1.toNat * 32768 + s.toNat * 128 + n.toNat * 8 + p.toNat * 2 + z.toNat)
  | .layset h s n z => some (h.c.toNat * 2147483648 + h.w.toNat * 268435456 + 0x0F0C0000 + s.toNat * 128 + n.toNat * 8 + z.toNat)
  | .cpwait h s p z => some (h.c.toNat * 2147483648 + h.w.toNat * 268435456 + 0x0F0E0000 + s.toNat * 128 + p.toNat * 2 + z.toNat)
  | .mmop h h1 s n z => some (h.c.toNat * 2147483648 + h.w.toNat * 268435456 + 0x0F200000 + h1.toNat * 32768 + s.toNat * 128 + n.toNat * 8 + z.toNat)
  | .mmsp h h1 s n z => some (h.c.toNat * 2147483648 + h.w.toNat * 268435456 + 0x0F220000 + h1.toNat * 32768 + s.toNat * 128 + n.toNat * 8 + z.toNat)
  | .mmdrain h h1 s n z => some (h.c.toNat * 2147483648 + h.w.toNat * 268435456 + 0x0F240000 + h1.toNat * 32768 + s.toNat * 128 + n.toNat * 8 + z.toNat)
  | .mmwait h s z => some (h.c.toNat * 2147483648 + h.w.toNat * 268435456 + 0x0F260000 + s.toNat * 128 + z.toNat)
  | .batonTake h z => some (h.c.toNat * 2147483648 + h.w.toNat * 268435456 + 0x0F280000 + z.toNat)
  | .batonPass h z => some (h.c.toNat * 2147483648 + h.w.toNat * 268435456 + 0x0F2A0000 + z.toNat)
  | .qenq h s n z => some (h.c.toNat * 2147483648 + h.w.toNat * 268435456 + 0x0F400000 + s.toNat * 128 + n.toNat * 8 + z.toNat)
  | .qwait h s z => some (h.c.toNat * 2147483648 + h.w.toNat * 268435456 + 0x0F420000 + s.toNat * 128 + z.toNat)
  | .taskget h s z => some (h.c.toNat * 2147483648 + h.w.toNat * 268435456 + 0x0F600000 + s.toNat * 128 + z.toNat)
  | .taskend h s z => some (h.c.toNat * 2147483648 + h.w.toNat * 268435456 + 0x0F620000 + s.toNat * 128 + z.toNat)
  | .enq h s z => some (h.c.toNat * 2147483648 + h.w.toNat * 268435456 + 0x0F640000 + s.toNat * 128 + z.toNat)
  | .lease h i => some (h.c.toNat * 2147483648 + h.w.toNat * 268435456 + 0x0F800000 + i.toNat)
  | .yield h => some (h.c.toNat * 2147483648 + h.w.toNat * 268435456 + 0x0FA00000)
  | .nop h => some (h.c.toNat * 2147483648 + h.w.toNat * 268435456 + 0x00000000)
  | .packageReset => none
  | .governorStep _ _ => none
  | .powerControlTick _ => none
  | .thermalHot _ _ => none
  | .freezeEnd => none
  | .flitEjection _ => none
  | .homeAccess _ => none
  | .peerForwardRequest _ => none
  | .remoteSharedRequest _ => none
  | .loadDataReturn _ => none
  | .vrdLanding _ _ _ => none
  | .vwrLanding _ _ _ => none
  | .activeSetJoin _ _ => none
  | .forcedJoin _ _ => none
  | .activeSetLeave _ _ => none
  | .leaseReestimate _ _ => none
  | .passedOverExpiry _ _ => none
  | .streakExpiry _ _ => none
  | .yieldExpiry _ _ => none
  | .clusterPlacement _ => none
  | .blockWarpsEligible _ _ => none
  | .blockEnd _ _ => none
  | .contextLeave _ _ => none
  | .laysetArrival _ _ => none
  | .commandStart _ _ => none
  | .commandChunk _ _ => none
  | .chunkAcknowledgement _ _ _ => none
  | .amoPerform _ _ => none
  | .fqreplyRetry _ _ => none
  | .fqreplyAbort _ _ => none
  | .clusterBarrierMessage _ => none
  | .clusterFlipMessage _ => none
  | .barrierAnswer _ => none
  | .qengComplete _ => none
  | .shadowLatchLoad _ => none
  | .parameterBlockArrival _ _ => none
  | .engineContextSwitch _ => none
  | .engineCommandStart _ => none
  | .mmopTile _ => none
  | .activationRowEntry _ => none
  | .engineCommandComplete _ => none
  | .drainStart _ => none
  | .drainReserve _ => none
  | .drainChunk _ => none
  | .mmspChunk _ => none
  | .fenceRelease _ _ => none
  | .orderedAtomRelease _ _ => none
  | .operandLogAccess _ _ _ => none
  | .pageWalkComplete _ _ => none
  | .fetchFault _ _ _ => none
  | .sfenceVma _ _ _ => none
  | .scstatFree _ _ => none
  | .resumecmd _ _ => none
  | .warpWindowWrite _ _ _ _ => none
  | .wctlClrh _ _ => none
  | .wctlStop _ _ _ => none
  | .wctlStep _ _ _ => none
  | .qdbRing _ => none
  | .qdbResume _ => none
  | .wdogKick _ => none
  | .watchdogRestart _ => none
  | .packetStart _ => none
  | .launch _ => none
  | .batch _ => none
  | .waitsem _ => none
  | .waitsemPoll _ => none
  | .signal _ => none
  | .muster _ => none
  | .musterReserveGrant _ _ => none
  | .musterStartToken _ _ => none
  | .musterRetry _ => none
  | .copyq _ => none
  | .fenceq _ => none
  | .qmark _ => none
  | .packetComplete _ => none
  | .taskDeal _ => none
  | .loadToken _ _ => none
  | .stealAck _ => none
  | .loadTokenReissue => none
  | .enqRequest _ => none
  | .prcmdSave _ => none
  | .prcmdRestore _ => none
  | .preemptStage2 => none
  | .preemptReset => none
  | .mailboxSend _ _ => none
  | .mailboxDeliver _ => none
  | .featureNegotiate _ => none
  | .functionReset _ => none
  | .hostDoorbell _ _ => none
  | .eventRingWrite _ => none
  | .partownWrite _ _ => none
  | .ccarveWrite _ _ => none
  | .clodorFlitReceive _ _ => none
  | .linkPortDown _ => none
  | .ethFrameReceive _ _ => none
  | .ethFrameTransmit _ _ => none
  | .nvmeDoorbell _ _ => none
  | .nvmeCommandComplete _ => none
  | .nvmeEnable _ => none
  | .nvmeReady => none
  | .registerWrite _ _ => none
  | .stackBelowRel _ _ => none
  | .linkPortUp _ => none
  | .fqctlHeadWrite _ _ => none
  | .handlerModeSaveWaitExpiry _ _ => none

/-- The encoder: the word of an instruction. -/
def encode (i : Instr) : Option Word := (encodeNat i).map (BitVec.ofNat 32)

/-- The instruction of a table word: `w` holds the bits of one 32-bit word, bit 0 the least significant, which is how the
hardware stores it (R9, R248). -/
def decodeTableWord (nbits w : Nat) : Option Instr :=
  if nbits ≤ 32 then
    match decode (BitVec.ofNat 32 w) with
    | .ok i => some i
    | .error _ => none
  else none

end Sys2Proof
end

