-- ==== Sys2Proof/Machine/Forms.lean ====
section
/-! DEFINITION. The operand forms of every instruction word: its pipe (R64, R254), its fixed latency (R27), its guard (R251),
and the registers it reads and writes, by which waits and stalls are judged (R62, R65 to R67). -/
namespace Sys2Proof.Machine

/-- The pipes of R64. -/
inductive Pipe where
  | none | i | f | m | x
  deriving DecidableEq, Repr, Inhabited

/-- What a word needs of its warp. Vector registers are read and written in the active lanes. -/
structure Form where
  pipe : Pipe
  /-- The latency of its fixed-latency results (R27, R254). -/
  lat : Nat := 4
  /-- The guard register, 0 for none (R251). -/
  guard : Nat := 0
  va : List Nat := []
  sa : List Nat := []
  ka : List Nat := []
  vd : List Nat := []
  sd : List Nat := []
  kd : List Nat := []
  /-- The destinations return at variable latency (R67). -/
  var : Bool := false
  /-- A word that reads FX (FXRD), and one that updates FX under R124 unless Q is 1. -/
  fxRead : Bool := false
  fxWrite : Bool := false
  flags : Bool := false
  /-- It occupies the F pipe for two cycles (R64). -/
  fp64 : Bool := false
  deriving DecidableEq, Repr, Inhabited

/-- A register and its successors, `n` in all. -/
def run (r n : Nat) : List Nat := (List.range n).map (r + ·)
/-- The registers of a memory operand: one to 32 bits, 2 for 64, 4 for 128 (R252). -/
def memRegs (z : BitVec 3) (t : BitVec 6) : List Nat := run t.toNat (if z = 3 then 2 else if z = 4 then 4 else 1)
/-- A guard register as a source. -/
def gk {n : Nat} (g : BitVec n) : List Nat := if g = 0 then [] else [g.toNat]
/-- FP32 three-operand words of format F. -/
def formF (acc : Bool) (d a b : BitVec 6) (q : BitVec 1) (g : BitVec 2) : Form :=
  { pipe := .f, lat := 6, guard := g.toNat, ka := gk g, va := [a.toNat, b.toNat] ++ (if acc then [d.toNat] else []),
    vd := [d.toNat], fxWrite := q = 0, flags := q = 0 }
/-- FP64 three-operand words of format F. -/
def formD (acc : Bool) (d a b : BitVec 6) (q : BitVec 1) (g : BitVec 2) : Form :=
  { pipe := .f, lat := 12, guard := g.toNat, ka := gk g, fp64 := true,
    va := run a.toNat 2 ++ run b.toNat 2 ++ (if acc then run d.toNat 2 else []), vd := run d.toNat 2,
    fxWrite := q = 0, flags := q = 0 }
/-- FUN words: `n` registers a side (R339). -/
def formFun (n : Nat) (d a : BitVec 6) (q : BitVec 1) (g : BitVec 2) : Form :=
  { pipe := .f, lat := 14, guard := g.toNat, ka := gk g, va := run a.toNat n, vd := run d.toNat n, fp64 := n = 2,
    fxWrite := q = 0, flags := q = 0 }
/-- Format A words of the I pipe (R295). -/
def formA (acc : Bool) (d a b : BitVec 6) (g : BitVec 3) : Form :=
  { pipe := .i, guard := g.toNat, ka := gk g, va := [a.toNat, b.toNat] ++ (if acc then [d.toNat] else []), vd := [d.toNat] }
/-- Format C words (R297). -/
def formC (d a : BitVec 6) : Form := { pipe := .i, va := [a.toNat], vd := [d.toNat] }
/-- Compares and votes: a destination mask, which is a source under `.AND` (R267). -/
def formK (pipe : Pipe) (lat : Nat) (k : BitVec 4) (va : List Nat) (n : BitVec 1) : Form :=
  { pipe, lat, va, kd := [k.toNat], ka := if n = 1 then [k.toNat] else [] }
/-- SOP words: two-address; unary functions read s[A] only (R254). -/
def formS (unary : Bool) (d a : BitVec 8) : Form :=
  { pipe := .i, sa := if unary then [a.toNat] else [d.toNat, a.toNat], sd := [d.toNat] }
/-- Unary format E words of the I pipe. -/
def formE (va vd : List Nat) (g : BitVec 2) : Form := { pipe := .i, guard := g.toNat, ka := gk g, va, vd }
/-- Loads, stores and atomics of the M pipe. -/
def formM (va vd : List Nat) : Form := { pipe := .m, va, vd, var := true }
/-- Engine words of format EN: `n` parameter words, guarded by k1 when Z = 1. -/
def formEN (s : BitVec 8) (n : Nat) (z : BitVec 1) : Form :=
  { pipe := .x, guard := z.toNat, ka := gk z, sa := run s.toNat n }
/-- Words of the X pipe with a guard. -/
def formX {n : Nat} (g : BitVec n) : Form := { pipe := .x, guard := g.toNat, ka := gk g }

/-- R254: the form of each instruction. A machine event has none. -/
def form : Instr → Form
  | .iadd _ d a b g | .isub _ d a b g | .imul _ d a b g | .imulh _ d a b g | .imulhu _ d a b g
  | .imin _ d a b g | .imax _ d a b g | .iminu _ d a b g | .imaxu _ d a b g | .and _ d a b g | .or _ d a b g
  | .xor _ d a b g | .andn _ d a b g | .shl _ d a b g | .shr _ d a b g | .sar _ d a b g | .rot _ d a b g
  | .bytp _ d a b g | .bfe _ d a b g | .shfl _ d a b g => formA false d a b g
  | .imad _ d a b g | .bfi _ d a b g | .idot4 _ d a b g | .idot4u _ d a b g | .idot8 _ d a b g => formA true d a b g
  | .sel _ d a b g => { pipe := .i, ka := [g.toNat], va := [a.toNat, b.toNat], vd := [d.toNat] }
  | .iadd64 _ d a b g =>
    { pipe := .i, guard := g.toNat, ka := gk g, va := run a.toNat 2 ++ run b.toNat 2, vd := run d.toNat 2 }
  | .idiv .. | .irem .. => { pipe := .none }
  | .icmp _ k _ a b n => formK .i 4 k [a.toNat, b.toNat] n
  | .fcmp _ k _ a b n => { formK .f 6 k [a.toNat, b.toNat] n with fxWrite := true, flags := true }
  | .dcmp _ k _ a b n => { formK .f 12 k (run a.toNat 2 ++ run b.toNat 2) n with fxWrite := true, flags := true, fp64 := true }
  | .iaddi _ d a _ | .andi _ d a _ | .ori _ d a _ | .xori _ d a _ | .imuli _ d a _ => formC d a
  | .shli _ d a _ | .shri _ d a _ | .sari _ d a _ => formC d a
  | .movl _ d _ => { pipe := .i, vd := [d.toNat] }
  | .movh _ d _ => { pipe := .i, va := [d.toNat], vd := [d.toNat] }
  | .smovl _ d _ => { pipe := .i, sd := [d.toNat] }
  | .smovh _ d _ => { pipe := .i, sa := [d.toNat], sd := [d.toNat] }
  | .movs _ d s => { pipe := .i, sa := [s.toNat], vd := [d.toNat] }
  | .vtos _ _ _ s => { pipe := .i, sd := [s.toNat] }
  | .iadds _ d a s => { pipe := .i, va := [a.toNat], sa := [s.toNat], vd := [d.toNat] }
  | .imads _ d a s => { pipe := .i, va := [a.toNat, d.toNat], sa := [s.toNat], vd := [d.toNat] }
  | .sadd _ d a | .ssub _ d a | .smul _ d a | .sand _ d a | .sor _ d a | .sxor _ d a | .sshl _ d a | .sshr _ d a
  | .ssar _ d a | .smin _ d a | .smax _ d a | .sminu _ d a | .smaxu _ d a | .seq _ d a | .slt _ d a | .sltu _ d a =>
    formS false d a
  | .smov _ d a | .snot _ d a | .sneg _ d a => formS true d a
  | .saddi _ d _ => { pipe := .i, sa := [d.toNat], sd := [d.toNat] }
  | .fadd _ d a b q g | .fsub _ d a b q g | .fmul _ d a b q g | .fmin _ d a b q g | .fmax _ d a b q g => formF false d a b q g
  | .ffma _ d a b q g | .hfma2 _ d a b q g | .bfma2 _ d a b q g | .fdot4 _ d a b q g | .fdot8 _ d a b q g =>
    formF true d a b q g
  | .dadd _ d a b q g | .dmul _ d a b q g => formD false d a b q g
  | .dfma _ d a b q g => formD true d a b q g
  | .fneg _ d a q g | .fabs _ d a q g | .frcp _ d a q g | .frsq _ d a q g | .fsqrt _ d a q g | .fexp2 _ d a q g
  | .flog2 _ d a q g | .fsin _ d a q g | .fcos _ d a q g | .ftanh _ d a q g | .ffloor _ d a q g | .fceil _ d a q g
  | .frnd _ d a q g | .ftrunc _ d a q g => formFun 1 d a q g
  | .drcp _ d a q g | .dsqrt _ d a q g | .dneg _ d a q g | .dabs _ d a q g => formFun 2 d a q g
  | .cvt _ d a f q g =>
    let src64 := f = 0x00 ∨ f = 0x10 ∨ f = 0x11
    let dst64 := f = 0x01 ∨ f = 0x12 ∨ f = 0x13
    { pipe := .f, lat := 6, guard := g.toNat, ka := gk g, va := run a.toNat (if src64 then 2 else 1),
      vd := run d.toNat (if dst64 then 2 else 1), fp64 := src64 ∨ dst64, fxWrite := q = 0, flags := q = 0 }
  | .cvtMode _ d a p _ q g =>
    { pipe := .f, lat := 6, guard := g.toNat, ka := gk g, va := run a.toNat (if p = 3 then 2 else 1), vd := [d.toNat],
      fp64 := p = 3, fxWrite := q = 0, flags := q = 0 }
  | .qswz _ d a _ g | .qbcast _ d a _ g => formE [a.toNat] [d.toNat] g
  | .qdiffx _ d a g | .qdiffy _ d a g => formE [a.toNat] [d.toNat] g
  | .voteNz _ k a n | .voteZ _ k a n => formK .i 4 k [a.toNat] n
  | .matchK _ k a => formK .i 4 k [a.toNat] 0
  | .redw _ d a _ g | .scanw _ d a _ g => formE [a.toNat] [d.toNat] g
  | .kand _ k a b | .kor _ k a b | .kxor _ k a b | .kandn _ k a b => { pipe := .i, ka := [a.toNat, b.toNat], kd := [k.toNat] }
  | .knot _ k a | .kmov _ k a => { pipe := .i, ka := [a.toNat], kd := [k.toNat] }
  | .ktos _ d a | .kpop _ d a => { pipe := .i, ka := [a.toNat], sd := [d.toNat] }
  | .stok _ d a => { pipe := .i, sa := [a.toNat], kd := [d.toNat] }
  | .join _ k g | .leave _ k g => { formX g with kd := [k.toNat] }
  | .waitk _ _ g => formX g
  | .elect _ k g => { formX g with kd := [k.toNat] }
  | .ksync _ k a g => { formX g with va := [a.toNat], kd := [k.toNat] }
  | .popc _ d a g | .clz _ d a g | .brev _ d a g | .not _ d a g | .ineg _ d a g | .iabs _ d a g => formE [a.toNat] [d.toNat] g
  | .lid _ d g => formE [] [d.toNat] g
  | .fxrd _ d g => { pipe := .f, lat := 6, guard := g.toNat, ka := gk g, vd := [d.toNat], fxRead := true }
  | .fxclr _ a g | .fxset _ a g => { pipe := .f, lat := 6, guard := g.toNat, ka := gk g, va := [a.toNat], fxWrite := true }
  | .vrd _ d a g => { formX g with va := [a.toNat], vd := [d.toNat], var := true }
  | .vwr _ a b g => { formX g with va := [a.toNat, b.toNat] }
  | .lds _ t a _ z | .ldio _ t a _ z => formM (a.toNat :: []) (memRegs z t)
  | .ldc _ t a _ z _ | .ldx _ t a _ z _ => formM [a.toNat] (memRegs z t)
  | .sts _ t a _ z => { formM (a.toNat :: memRegs z t) [] with var := false }
  | .stio _ t a _ z => { formM (a.toNat :: (a.toNat + 1) :: memRegs z t) [] with var := false }
  | .stc _ t a _ z _ | .stx _ t a _ z _ => { formM (a.toNat :: memRegs z t) [] with var := false }
  | .spill _ t a _ z _ => { formM (memRegs z t) [] with sa := [a.toNat], var := false }
  | .fill _ t a _ z _ => { formM [] (memRegs z t) with sa := [a.toNat] }
  | .atomAdd _ t a b _ | .atomFadd _ t a b _ | .atomMin _ t a b _ | .atomMax _ t a b _ | .atomAnd _ t a b _
  | .atomOr _ t a b _ | .atomXor _ t a b _ | .atomExch _ t a b _ | .atomInc _ t a b _ => formM [a.toNat, b.toNat] [t.toNat]
  | .atomCas _ t a b _ => formM [a.toNat, b.toNat, b.toNat + 1] [t.toNat]
  | .bra _ k _ => { pipe := .x, ka := if k = 15 then [] else [k.toNat] }
  | .brasZ _ s _ | .brasNz _ s _ => { pipe := .x, sa := [s.toNat] }
  | .brx _ a g | .ret _ a g => { formX g with va := [a.toNat] }
  | .call _ d _ => { pipe := .x, vd := [d.toNat] }
  | .exit _ g => formX g
  | .syscall _ _ a => { pipe := .x, va := run a.toNat 6 }
  | .trap _ _ g | .bkpt _ g => formX g
  | .tret _ => { pipe := .x }
  | .srd _ d _ => { pipe := .x, sd := [d.toNat], var := true }
  | .swr _ _ a => { pipe := .x, sa := [a.toNat] }
  | .fence _ _ _ g => formX g
  | .binit _ _ s g | .barrd _ _ s g | .barrj _ _ s g | .bwait _ _ s g => { formX g with sa := [s.toNat] }
  | .barr _ _ s g => { formX g with sd := [s.toNat], var := true }
  | .bsync _ _ g => formX g
  | .copy _ _ s _ _ z | .copys _ _ s _ _ z | .copym _ _ s _ _ z | .gath _ _ s _ _ z | .pref _ _ s _ _ z
  | .amo _ _ s _ _ z => formEN s 8 z
  | .layset _ s _ z => formEN s 1 z
  | .cpwait _ s _ z => formEN s 1 z
  | .mmop _ _ s _ z | .mmsp _ _ s _ z | .mmdrain _ _ s _ z => formEN s 1 z
  | .mmwait _ s z | .qwait _ s z | .taskend _ s z => formEN s 1 z
  | .batonTake _ z | .batonPass _ z => formEN 0 0 z
  | .qenq _ s _ z => formEN s 8 z
  | .taskget _ s z => { formEN 0 0 z with sd := run s.toNat 2, var := true }
  | .enq _ s z => { formEN s 2 z with sd := [s.toNat + 2], var := true }
  | .lease .. | .yield .. => { pipe := .x }
  | _ => { pipe := .none }

/-- The instruction of a word of a group, which has passed R62. -/
def instrOf (w : Word) : Instr := match decode w with | .ok i => i | .error _ => .nop ⟨0, 0⟩

end Sys2Proof.Machine
end

