-- ==== Sys2Proof/Machine/Maps.lean ====
section
/-! DEFINITION. The two containers that State is made of. `SMap`: a sparse table by number, with a default for an absent
key. `Memory`: the bytes of every space, a list of cells in one canonical form (addresses strictly rising, no cell equal to
what an unlisted address reads as). -/
namespace Sys2Proof.Machine

/-- A sparse table: at most one entry is ever found for a key, the first. -/
abbrev SMap (α : Type) := List (Nat × α)

/-- The entry of a key, or the default. -/
def SMap.get {α : Type} (d : α) : SMap α → Nat → α
  | [], _ => d
  | (k', x) :: r, k => if k = k' then x else SMap.get d r k
/-- The entry of a key, if any. -/
def SMap.get? {α : Type} : SMap α → Nat → Option α
  | [], _ => none
  | (k', x) :: r, k => if k = k' then some x else SMap.get? r k
/-- Replace or add the entry of a key; keys are kept in rising order when they were. -/
def SMap.set {α : Type} : SMap α → Nat → α → SMap α
  | [], k, x => [(k, x)]
  | (k', x') :: r, k, x =>
    if k = k' then (k, x) :: r else if k < k' then (k, x) :: (k', x') :: r else (k', x') :: SMap.set r k x
/-- Remove the entries of a key. -/
def SMap.erase {α : Type} (m : SMap α) (k : Nat) : SMap α := m.filter (fun e => e.1 ≠ k)

/-- The bytes of every space of the machine (R9): main memory, arrays, Commons, caches, host memory, media. -/
abbrev Memory := List Host.Cell

/-- What a byte that nothing has written reads as: 0 (DESIGN CHOICE, log 2; unsafe). -/
def emptyByte : Byte := 0
/-- The byte at an address. -/
def Memory.read : Memory → Nat → Byte
  | [], _ => emptyByte
  | (a', x) :: r, a => if a = a' then x else Memory.read r a
/-- Write one byte, keeping the canonical form. -/
def Memory.write : Memory → Nat → Byte → Memory
  | [], a, x => if x = emptyByte then [] else [(a, x)]
  | (a', x') :: r, a, x =>
    if a = a' then (if x = emptyByte then r else (a, x) :: r)
    else if a < a' then (if x = emptyByte then (a', x') :: r else (a, x) :: (a', x') :: r)
    else (a', x') :: Memory.write r a x
/-- Write the cells of one step, given newest first. -/
def Memory.commit (m : Memory) : List Host.Cell → Memory
  | [] => m
  | (a, x) :: older => (m.commit older).write a x
/-- The canonical form: addresses strictly rising and no cell equal to what an unlisted address reads as. -/
def Memory.wf : Memory → Bool
  | [] => true
  | [(_, x)] => x != emptyByte
  | (a, x) :: (b, y) :: r => x != emptyByte && a < b && Memory.wf ((b, y) :: r)

end Sys2Proof.Machine
end

