-- ==== Sys2Proof/Machine/State.lean ====
section
/-! DEFINITION. The state of the whole package, as plain data, and its value after reset. Every field's docstring names
the rule of spec/ that gives it; fields of the model's own (the agenda, the write buffer, the free-value counter and the
numbering of commands) say so. Sparse tables hold only what exists: a warp, block, queue or launch appears when the
rules create it. -/
namespace Sys2Proof.Machine

/-- The reasons a step can stop with a fault. There is none: every trap, fault and error of the spec is a next state, in
which the handler, the Reeve, the queue or the register that the spec names has been told. -/
inductive Fault where
  deriving DecidableEq, Repr

/-- The reasons a step can be refused. -/
inductive Refusal where
  /-- Raised by an arm of Dispatch whose instruction has no meaning in the model yet. Safe: nothing is claimed of it. -/
  | notModelled (mnemonic : String)
  deriving DecidableEq, Repr

/-- The moves that the machine makes of itself, with the arguments of the constructors of Instr that they are (spec/95): moves
whose cycle has come or whose condition holds. -/
inductive Event where
  | packageReset
  | freezeEnd
  | flitEjection (req : Nat)
  | homeAccess (req : Nat)
  | peerForwardRequest (req : Nat)
  | remoteSharedRequest (req : Nat)
  | loadDataReturn (req : Nat)
  | vrdLanding (ham : Nat) (warp : Nat) (pend : Nat)
  | vwrLanding (ham : Nat) (warp : Nat) (pend : Nat)
  | activeSetJoin (ham : Nat) (warp : Nat)
  | forcedJoin (ham : Nat) (warp : Nat)
  | activeSetLeave (ham : Nat) (warp : Nat)
  | leaseReestimate (ham : Nat) (warp : Nat)
  | passedOverExpiry (ham : Nat) (warp : Nat)
  | streakExpiry (ham : Nat) (warp : Nat)
  | yieldExpiry (ham : Nat) (warp : Nat)
  | clusterPlacement (launch : Nat)
  | blockWarpsEligible (ham : Nat) (block : Nat)
  | blockEnd (ham : Nat) (block : Nat)
  | contextLeave (ham : Nat) (slot : Nat)
  | laysetArrival (ham : Nat) (id : Nat)
  | commandStart (ham : Nat) (unit : Nat)
  | commandChunk (ham : Nat) (chan : Nat)
  | chunkAcknowledgement (ham : Nat) (chan : Nat) (cmd : Nat)
  | amoPerform (ham : Nat) (chan : Nat)
  | clusterBarrierMessage (msg : Nat)
  | clusterFlipMessage (msg : Nat)
  | barrierAnswer (msg : Nat)
  | qengComplete (ham : Nat)
  | shadowLatchLoad (ham : Nat)
  | parameterBlockArrival (ham : Nat) (id : Nat)
  | engineContextSwitch (ham : Nat)
  | engineCommandStart (ham : Nat)
  | mmopTile (ham : Nat)
  | activationRowEntry (ham : Nat)
  | engineCommandComplete (ham : Nat)
  | drainStart (ham : Nat)
  | drainReserve (ham : Nat)
  | drainChunk (ham : Nat)
  | mmspChunk (ham : Nat)
  | fenceRelease (ham : Nat) (warp : Nat)
  | orderedAtomRelease (ham : Nat) (warp : Nat)
  | operandLogAccess (ham : Nat) (warp : Nat) (entry : Nat)
  | pageWalkComplete (ham : Nat) (walk : Nat)
  | fetchFault (ham : Nat) (warp : Nat) (code : Nat)
  | watchdogRestart (core : Nat)
  | packetStart (queue : Nat)
  | launch (queue : Nat)
  | batch (queue : Nat)
  | waitsem (queue : Nat)
  | waitsemPoll (queue : Nat)
  | signal (queue : Nat)
  | muster (queue : Nat)
  | musterReserveGrant (queue : Nat) (part : Nat)
  | musterStartToken (queue : Nat) (part : Nat)
  | musterRetry (queue : Nat)
  | copyq (queue : Nat)
  | fenceq (queue : Nat)
  | qmark (queue : Nat)
  | packetComplete (queue : Nat)
  | taskDeal (id : Nat)
  | enqRequest (id : Nat)
  | loadTokenReissue
  | preemptStage2
  | preemptReset
  | prcmdRestore (ctx : Nat)
  | mailboxDeliver (id : Nat)
  | eventRingWrite (func : Nat)
  | nvmeDoorbell (off : Nat) (value : Word)
  | nvmeEnable (value : Word)
  | nvmeCommandComplete (qid : Nat)
  | nvmeReady
  | handlerModeSaveWaitExpiry (ham : Nat) (warp : Nat)
  | ethFrameTransmit (port : Nat) (ring : Nat)
  | ethFrameReceive (port : Nat) (frame : List Byte)
  | governorStep (parish : Nat) (depth : Nat)
  | powerControlTick (watts : Nat)
  deriving DecidableEq, Repr, Inhabited

/-- What a held lane waits for: the held causes 0x01 to 0x0C of R217. -/
inductive Hold where
  | quad | waitk | ksync | bwait | tret | fence | cpwait | qwait | mmwait | baton | hosted | atom
  deriving DecidableEq, Repr, Inhabited

/-- Why a lane is parked: the parked causes 0x01 to 0x07 of R217. -/
inductive Park where
  | syscall | trap | nonTrap | logged | fetch | stop | doubleTrap
  deriving DecidableEq, Repr, Inhabited

/-- The state of a lane position (R31, R34). -/
inductive LaneState where
  | absent | ready | held (h : Hold) | parked (p : Park) | exited
  deriving DecidableEq, Repr, Inhabited

/-- A quad instruction at which a lane has arrived and which has not executed (R38): its program counter, function value, destination
and source, and whether the lane is active. -/
structure QuadWait where
  pc : Word
  fn : Nat
  d : Nat
  a : Nat
  act : Bool
  deriving DecidableEq, Repr, Inhabited

/-- One entry of a warp's program-counter table (R34). -/
structure Lane where
  st : LaneState := .absent
  /-- The lane's program counter (R34); of a lane that waits at a quad instruction, the one at which it goes on. -/
  pc : Word := 0
  /-- The first cycle in which the lane may issue (R44, R110, R164, R180, R183, R197). -/
  after : Nat := 0
  /-- The slot, barrier, channel or count that a held lane waits on (R42, R105, R110, R133, R150). -/
  arg : Nat := 0
  /-- The CPWAIT target of a lane held in CPWAIT (R105), the count of a QWAIT or MMWAIT. -/
  val : Word := 0
  /-- The quad instruction that the lane waits at, alone or beside the wait of `st` (R38). -/
  quad : Option QuadWait := none
  deriving DecidableEq, Repr, Inhabited

/-- The register files that results land in (R66, R342, R350): vector, scalar, mask, and FX by OR or by AND NOT. -/
inductive RFile where
  | v | s | k | fxOr | fxAndn
  deriving DecidableEq, Repr, Inhabited

/-- What an outstanding write belongs to: a VRD reads its lanes later, a VWR lands after every earlier write (R287, R394). -/
inductive PRole where
  | plain | vrd | vwr
  deriving DecidableEq, Repr, Inhabited

/-- An outstanding register write (R66, R67): of fixed latency, or of variable latency (`var`). `land` is the landing
cycle where it is known. -/
structure Pend where
  id : Nat
  file : RFile
  /-- The registers that await the write. -/
  regs : List Nat
  /-- Lanes for v and FX, bits for a mask; unused for s. -/
  mask : Word
  /-- Values by key: 32 * register + lane for v, the register for s and k, the lane for FX. -/
  vals : SMap Word
  issue : Nat
  land : Option Nat
  var : Bool
  /-- A membership write of JOIN, LEAVE or KSYNC, which complete() counts from its issue (R44). -/
  sync : Bool := false
  /-- Lanes whose part lands on its own, with the cycle (R287, R300, R394). -/
  early : SMap Nat := []
  /-- VRD and VWR: the register that each waiting lane names (R287, R394). -/
  named : SMap Nat := []
  role : PRole := .plain
  /-- It lands no earlier than this cycle: that of the data that come by a way of known length, beside those of a reply (R358). -/
  least : Nat := 0
  /-- The value of a read or of a read-modify-write, which an acquire waits for (R164). -/
  read : Bool := false
  deriving DecidableEq, Repr, Inhabited

/-- A part of a journey over the network: whole network cycles at the clock of a parish, or a time in units of cycleUnits (R16, R28). -/
inductive Span where
  | net (parish n : Nat) | units (n : Nat)
  deriving DecidableEq, Repr, Inhabited

/-- A journey: the moment, in units, at which what is left of it begins, and its parts (R28, R398). -/
structure Trip where
  start : Nat := 0
  spans : List Span := []
  deriving DecidableEq, Repr, Inhabited

/-- An entry of a warp's operand log (R189, R190): a SPILL, FILL, LDIO or STIO in progress. Its parts are the lanes of an
LDIO or STIO, the lines of a SPILL or FILL. -/
structure LogEntry where
  id : Nat
  store : Bool
  io : Bool
  word : Word
  pc : Word
  /-- The active mask; the parts still to be accessed; those whose walk is in flight; those whose access has faulted, and
  the lanes of these (R190). -/
  mask : Word
  todo : Word
  walking : Word := 0
  fparts : Word := 0
  faulted : Word := 0
  /-- The lanes of a line that are still to be accessed, where some have completed (R190). -/
  left : SMap Word := []
  /-- Causes found by walks, by part: group * 256 + code. -/
  found : SMap Nat := []
  /-- First destination or source register, and the access size in bytes. -/
  reg : Nat
  size : Nat
  /-- The first spill slot of a SPILL or FILL (R83). -/
  slot : Nat := 0
  hint : Nat := 0
  /-- Virtual address by part, and store data: bytes by lane (LDIO, STIO), or by 32 * line + lane (SPILL). -/
  addrs : SMap Nat
  data : SMap (List Byte)
  /-- Its number, 0 to 3 (R186). -/
  num : Nat := 0
  /-- The outstanding write of an LDIO; those of a FILL, one for each line. -/
  pends : List Nat := []
  /-- Lanes parked by this entry (R190). -/
  parked : Word := 0
  /-- The issue cycle, the latest landing so far, and the cycle at which the entry is freed. -/
  issue : Nat
  due : Nat := 0
  land : Nat := 0
  freeAt : Option Nat := none
  /-- The journeys of its lines to their homes and back (R337, R382). -/
  trips : List Trip := []
  deriving DecidableEq, Repr, Inhabited

/-- The atomic operation of an ordered ATOM that waits before it is sent (R299): function, lanes with address and
operands, and the outstanding write. -/
structure AtomJob where
  op : Nat
  so : Nat
  lanes : List (Nat × Nat × Word × Word)
  addrs : SMap Word
  pc : Word
  word : Word
  pend : Nat
  sent : Bool
  deriving DecidableEq, Repr, Inhabited

/-- What the words of a group that take effect later have read in its issue cycle (R61, R99, R383, R389): the registers of the warp, the
layout slots of its block, and the register that an SRD of theirs samples; and what they have taken then: the record slot of their SYSCALL,
the engine command of their MMOP, MMSP or MMDRAIN (R282). -/
structure Snap where
  v : SMap Word
  s : SMap Word
  k : SMap Word
  fx : SMap Word
  slots : SMap (List Byte) := []
  sample : Option Word := none
  record : Option Nat := none
  mm : Option Nat := none
  deriving DecidableEq, Repr, Inhabited

/-- The word of a group that fails a check of R62, with its code and details: its trap follows the words before it. -/
structure EncAt where
  pc : Word
  word : Word
  code : Nat
  d1 : Word
  d2 : Word
  deriving DecidableEq, Repr, Inhabited

/-- Words of a group that take effect later, with their program counters: a group that may take an arithmetic trap (R326), the
later words of a group after a FENCE or an ordered ATOM (R299, R335). -/
structure Withheld where
  due : Nat
  /-- The cycle in which the group issued (R182, R185). -/
  issued : Nat
  bundle : Word
  /-- The whole bundle of the group, and whether fixed-latency results land at once (R326) or count from here (R335). -/
  all : Word
  atOnce : Bool
  words : List (Word × Word)
  succ : Word
  snap : Snap
  fpmode : Word
  head : Bool
  others : Bool
  enc : Option EncAt := none
  /-- The bundle's lanes have taken the group's successor (R35). -/
  begun : Bool := false
  /-- Writes numbered from here on were issued after the group (R67). -/
  before : Nat := 0
  deriving DecidableEq, Repr, Inhabited

/-- A FENCE or an ordered ATOM whose lanes are held (R164, R299, R335), with the later words of its group. -/
structure FenceHold where
  mask : Word
  /-- The whole bundle of the group. -/
  all : Word
  kind : Nat
  scope : Nat
  issue : Nat
  /-- Accesses numbered below this were issued before the fence. -/
  before : Nat
  /-- The later words of the group with their program counters (R335). -/
  rest : List (Word × Word)
  succ : Word
  snap : Snap
  fpmode : Word
  /-- The group was the head run, and another run existed (R37). -/
  head : Bool := true
  others : Bool := false
  atom : Option AtomJob := none
  enc : Option EncAt := none
  deriving DecidableEq, Repr, Inhabited

/-- A warp slot in use (R25, R47). -/
structure Warp where
  /-- The warp's block (a number within the hamlet) and its WARPID (R32). -/
  block : Nat
  idx : Nat
  /-- v0-v63, key 32 * register + lane (R25). -/
  v : SMap Word := []
  /-- s0-s159 (R25). -/
  s : SMap Word := []
  /-- k0-k11 (R40). -/
  k : SMap Word := []
  /-- The arrival masks of k8-k11 (R40, R42). -/
  arr : SMap Word := []
  /-- FX by lane (R124). -/
  fx : SMap Word := []
  lanes : SMap Lane := []
  /-- FPMODE (R121). -/
  fpmode : Word := 0
  /-- The trap special registers (R178). -/
  trapcause : Word := 0
  trapd0 : Word := 0
  trapd1 : Word := 0
  trapd2 : Word := 0
  trappc : Word := 0
  trapmask : Word := 0
  tvec : Word := 0
  /-- Handler mode and the saved live mask (R180). -/
  hmode : Bool := false
  saved : Word := 0
  /-- Resumes recorded by lane: the new PC if any (R184, R224). -/
  resumes : SMap (Option Word) := []
  /-- The streak counter and the lane set of the previous head-run issue (R37). -/
  streak : Nat := 0
  prevHead : Word := 0
  /-- The lease: declared, loss count, lines (R53, R70). -/
  decl : Bool := false
  loss : Nat := 0
  lease : Nat := 16
  /-- The line-touch filter and the count of active cycles (R54). -/
  filter : BitVec 256 := 0
  actCycles : Nat := 0
  /-- The victim tags, oldest first (R55). -/
  victims : List Nat := []
  /-- The base of the warp's spill stack, 48 bits (R83, R217). -/
  spillPtr : Nat := 0
  /-- The CLOCKHI latch, and whether CLOCKLO has been read (R257). -/
  clk : Word := 0
  clkRead : Bool := false
  /-- The first cycle in which the warp may issue (R65). -/
  nextIssue : Nat := 0
  /-- Placement order on the hamlet (R57) and the cycle from which the warp may join the active set (R78). -/
  placed : Nat := 0
  eligAt : Nat := 0
  /-- The active set: membership, activation cycle (R57, R58). -/
  active : Bool := false
  activated : Nat := 0
  /-- Wait counter (R58), passed-over counter (R59), cycles without a ready lane (R57), end of a YIELD (R397). -/
  waitCnt : Nat := 0
  passed : Nat := 0
  idle : Nat := 0
  yieldUntil : Option Nat := none
  /-- The last cycle in which another warp of its context in its quarter issued (R397). -/
  lastOther : Nat := 0
  /-- Preference given by an expired passed-over counter (R59); the second run issues next (R37). -/
  prefer : Bool := false
  second : Bool := false
  pends : List Pend := []
  /-- Registers whose parity fails, key 256 * file + register with file 0 v, 1 s, 2 k, 3 FX: the lanes of it that fail (R176). -/
  parity : SMap Word := []
  /-- The operand log, oldest first, at most 4 (R189). -/
  log : List LogEntry := []
  fences : List FenceHold := []
  withheld : List Withheld := []
  /-- A save waits for the TRET release since this cycle (R184). -/
  saveWait : Option Nat := none
  /-- A save has stopped its issue (R216). -/
  stopped : Bool := false
  /-- Held lanes that an arrival-time fault parks at their release; those that it has parked and that have not been resumed
  (R356). -/
  parkAt : Word := 0
  lateFault : Word := 0
  /-- Lanes that an aborted logged access keeps parked until R197 resumes them (R190). -/
  aborted : Word := 0
  /-- A fetch that has faulted: its lanes and virtual address (R186, R249). -/
  fetchBad : Option (Word × Nat) := none
  /-- The warp has ended (R43). -/
  ended : Bool := false
  deriving DecidableEq, Repr, Inhabited

/-- A barrier register (R108). -/
structure Bar where
  exp : Nat
  cnt : Nat := 0
  dlt : Int := 0
  ph : Bool := false
  cl : Bool := false
  deriving DecidableEq, Repr, Inhabited

/-- A resident block (R30 to R33). -/
structure Block where
  launch : Nat
  /-- The context slot (R51). -/
  ctx : Nat
  /-- The cluster's blocks by rank: hamlet and block number there (R33). -/
  peers : List (Nat × Nat)
  rank : Nat
  bx : Nat
  by' : Nat
  bz : Nat
  clusterId : Nat
  /-- Lanes, shared carve in bytes, pair map (R31, R77). -/
  lanes : Nat
  carve : Nat
  pairs : List Nat
  /-- Spill slots per lane (R83). -/
  spill : Nat
  bars : SMap Bar := []
  /-- The cluster barriers that the block of rank 0 hosts (R108, R111). -/
  hosts : SMap Bar := []
  /-- The layout slots: 64-byte records (R99). -/
  slots : SMap (List Byte) := []
  /-- CWP0-CWP3 (R104). -/
  cwp : SMap Word := []
  /-- Active for its job card (R211). -/
  dealing : Bool := false
  /-- The cycle of R78 and whether it has come. -/
  eligAt : Nat := 0
  eligible : Bool := false
  ended : Bool := false
  deriving DecidableEq, Repr, Inhabited

/-- A context slot in use (R51). -/
structure Ctx where
  num : Nat
  tenant : Nat
  occ : Nat
  queue : Nat
  /-- The partition's number as the hamlet's parish had it at load (R22). -/
  part : Nat
  /-- The generator of the context on the hamlet (R132). -/
  gen : Word := 1
  /-- Under a save: issue is stopped (R216). -/
  stopped : Bool := false
  deriving DecidableEq, Repr, Inhabited

/-- A first-level line (R53, R54, R81). Its 128 bytes stand in the array at granule `gran`, set of `tag`. Lists of lines
are kept most recently used first. -/
structure L1Line where
  /-- 0 spill, 1 own-die Commons, 2 cross-die Commons. -/
  kind : Nat
  die : Nat := 0
  /-- The tag address divided by 128: virtual for spill, die Commons offset for Commons. -/
  tag : Nat
  /-- The context of a spill line, by its number (R83); 0 for Commons. -/
  ctx : Nat
  gran : Nat
  dirty : Bool := false
  /-- The warp whose access filled the line, by its placement number (R55). -/
  filler : Nat
  /-- The retention hint of a spill line's access, for its write-back (R382). -/
  hint : Nat := 0
  /-- The physical address of a spill line, and the occupancy class of the accesses that use it (R93). -/
  pa : Nat := 0
  occ : Nat := 0
  /-- The cycle in which the home served the line of a Commons load (R160). -/
  since : Nat := 0
  deriving DecidableEq, Repr, Inhabited

/-- A translation-buffer entry (R192): `pages` is log2 of the pages it maps. -/
structure TlbEntry where
  asid : Nat
  vpn : Nat
  ppn : Nat
  pages : Nat
  glob : Bool
  flags : Nat
  deriving DecidableEq, Repr, Inhabited

/-- What waits on a page walk (R192). -/
inductive Waiter where
  | fetch (warp : Nat) (lanes : Word) (va : Nat)
  | log (warp entry part : Nat)
  | chan (c cmd va : Nat)
  deriving DecidableEq, Repr, Inhabited

/-- The kind of a translated access (R191). -/
inductive Access where
  | load | store | fetch | amo
  deriving DecidableEq, Repr, Inhabited

/-- A page walk in flight (R192). -/
structure Walk where
  id : Nat
  ctx : Nat
  asid : Nat
  vpn : Nat
  due : Nat
  waiters : List (Waiter × Access)
  deriving DecidableEq, Repr, Inhabited

/-- An interval of bytes [lo, hi) in the hamlet's array (space 0) or in the die's Commons (space 1) (R112). -/
structure Itv where
  space : Nat
  lo : Nat
  hi : Nat
  deriving DecidableEq, Repr, Inhabited

/-- A range-scoreboard entry (R112): `id` is its command's number. -/
structure SbEntry where
  id : Nat
  block : Nat
  rd : Option Itv
  wr : Option Itv
  deriving DecidableEq, Repr, Inhabited

/-- A command of a copy channel (R101 to R107, R289 to R293): its function, the copied record, its parameter words. -/
structure Cmd where
  id : Nat
  fn : Nat
  warp : Nat
  block : Nat
  ctx : Nat
  lane : Nat
  chan : Nat
  hint : Nat
  bar : Nat
  arv : Bool
  rcd : List Byte
  words : List Word
  issue : Nat
  start : Option Nat := none
  /-- Destination bytes written, and the total (R104). -/
  prog : Nat := 0
  total : Nat
  paused : Bool := false
  /-- A walk is in flight for it; a cause found by a walk, or for a write at its home or target, with its address: group * 256 + code,
  and whether it was such a write (R106, R186, R192). -/
  walking : Bool := false
  found : Option (Nat × Nat × Bool) := none
  /-- Acknowledgements outstanding, and the cycle of the last one (R106). -/
  acks : Nat := 0
  lastAck : Nat := 0
  /-- AMO: performed, old value (R291). -/
  performed : Bool := false
  old : Nat := 0
  /-- A drain of an engine command through this channel (R147): the command's number. -/
  drain : Option Nat := none
  /-- Bytes of a drain to be written; the DTYPE of an add-on-store (R148). -/
  src : List Byte := []
  addTo : Option Nat := none
  /-- The first accumulator row of a drain under ZAFTER and the bytes of a row (R147). -/
  zrows : Option (Nat × Nat) := none
  /-- Discarded because its engine owner left (R141). -/
  discard : Bool := false
  /-- The indices of a GATH, once read (R344); the lines that a PREF has requested (R320); the cycle of the last chunk. -/
  idx : Option (List Nat) := none
  lines : List Nat := []
  last : Nat := 0
  due : Nat := 0
  deriving DecidableEq, Repr, Inhabited

/-- A complete weight tile in the shadow latch (R136). -/
structure Tile where
  bytes : List Byte
  /-- A header that gives no tile length was taken alone (R136). -/
  bad : Bool
  /-- The first cycle in which it is complete in the latch (R136, R146). -/
  ready : Nat
  /-- Its 64-bit words that fail their check, from 0 (R194). -/
  fails : List Nat := []
  deriving DecidableEq, Repr, Inhabited

/-- The active weight latch (R144): format, scaled or not, tile bytes after the header. -/
structure Latch where
  fmt : Nat
  kb : Bool
  data : List Byte
  deriving DecidableEq, Repr, Inhabited

/-- A matrix FIFO (R136): its bytes, oldest first; those of its 64-bit words that fail their check, from the oldest (R194); the cycle of
the last push and its bytes, which may be taken in the next cycle. -/
structure Fifo where
  data : List Byte := []
  fails : List Nat := []
  last : Nat × Nat := (0, 0)
  deriving DecidableEq, Repr, Inhabited

/-- A row of results on its way through the array (R146): the cycle in which its activation row entered, its accumulator row and type,
its columns, those that have been written, its 64 words. -/
structure Flow where
  entry : Nat
  row : Nat
  typ : Nat
  cols : Nat
  done : Nat := 0
  words : List Word
  deriving DecidableEq, Repr, Inhabited

/-- The phase of an engine command (R143, R144, R147). -/
inductive EPhase where
  | awaiting | queued | running | rows | draining
  deriving DecidableEq, Repr, Inhabited

/-- A command of the matrix engine (R142, R143): function 0 MMOP, 1 MMSP, 2 MMDRAIN. -/
structure ECmd where
  id : Nat
  fn : Nat
  warp : Nat
  block : Nat
  ctx : Nat
  hint : Nat
  bar : Nat
  arv : Bool := false
  lanes : Word
  pc : Word
  word : Word
  /-- The 64 bytes of its parameter block once read (R142). -/
  par : List Byte
  phase : EPhase
  /-- It holds a queue entry (R143 step 6). -/
  entry : Bool
  /-- Claims not yet consumed, in bytes, on the weight and on the activation FIFO (R143). -/
  claimW : Nat := 0
  claimA : Nat := 0
  /-- Of these, the bytes that can no longer come: an abort or a switch of owner has taken them away (R141, R151, R281). -/
  lackW : Nat := 0
  lackA : Nat := 0
  /-- The tile and row reached, the sparse chunk, drained bytes. -/
  tile : Nat := 0
  row : Nat := 0
  pos : Nat := 0
  scales : List Byte := []
  /-- Cycle before which the next move does not come (R146, R147). -/
  due : Nat := 0
  /-- Drain in progress: reserved; the record copied for code 4. -/
  reserved : Bool := false
  rcd : List Byte := []
  /-- Its drain through a channel has completed, or was aborted (R147). -/
  chanDone : Option Bool := none
  /-- The scoreboard entry of its drain, the issuing lane (R153), and the acknowledgements outstanding (R106). -/
  did : Nat := 0
  lane : Nat := 0
  acks : Nat := 0
  /-- Its warp did not hold the baton at issue (R282); an abort has left its claims uncovered (R151). -/
  misuse : Bool := false
  starved : Bool := false
  /-- Its drain has started (R147); a row that it is to drain through a channel fails its check (R194). -/
  started : Bool := false
  short : Bool := false
  /-- The cause of a fault that a write of its drain met at its home (R151, R194). -/
  fault : Option Nat := none
  /-- The phase that a restore has brought it back in, from which it goes on at the head of the queue (R152). -/
  resume : Option EPhase := none
  deriving DecidableEq, Repr, Inhabited

/-- The matrix engine (R134 to R152). -/
structure Engine where
  owner : Option Nat := none
  fifoW : Fifo := {}
  fifoA : Fifo := {}
  shadow : Option Tile := none
  active : Option Latch := none
  /-- 512 rows of 64 words, key 64 * row + word (R135). -/
  acc : SMap Word := []
  /-- Row tags: 0 empty, 1 FP32, 2 INT32, 3 FP64 (R135). -/
  tag : SMap Nat := []
  /-- The 64-bit words of the accumulator memory that fail their check, 32 * row + word (R194). -/
  accFails : List Nat := []
  /-- Results on their way to the accumulator memory, oldest first (R146). -/
  flow : List Flow := []
  q : List ECmd := []
  /-- The baton's holder and queue, warp slots (R140). -/
  baton : Option Nat := none
  bq : List Nat := []
  /-- A context switch waits for the old owner's pushes; it ends at this cycle (R135, R141). -/
  switching : Bool := false
  switchEnd : Nat := 0
  /-- The weight tile on its way into the shadow: its bytes so far, its length, the cycle of the next move (R136, R146). -/
  stage : Fifo := {}
  stageLen : Nat := 0
  stageDue : Nat := 0
  /-- Bytes still to be discarded for stopped commands (R151). -/
  dropW : Nat := 0
  dropA : Nat := 0
  deriving DecidableEq, Repr, Inhabited

/-- A command of the quantisation engine (R130). -/
structure QCmd where
  id : Nat
  warp : Nat
  block : Nat
  ctx : Nat
  bar : Nat
  arv : Bool
  words : List Word
  issue : Nat
  start : Option Nat := none
  /-- Blocks written, the cycle of the next one (R131), and acknowledgements of those in Commons that are outstanding (R81, R106). -/
  pos : Nat := 0
  due : Nat := 0
  acks : Nat := 0
  /-- The cause of a fault that one of its writes met at its home (R151, R194). -/
  fault : Option Nat := none
  deriving DecidableEq, Repr, Inhabited

/-- What a fault-queue entry reports, and so what a reply to it acts on (R186, R188). -/
inductive Report where
  | log (warp entry : Nat)
  | fetch (warp : Nat) (lanes : Word)
  | chan (c cmd : Nat)
  | noReply
  deriving DecidableEq, Repr, Inhabited

/-- A fault-queue entry: its four words and what it reports (R186). -/
structure FqRec where
  w0 : Word
  w1 : Word
  w2 : Word
  w3 : Word
  rep : Report
  deriving DecidableEq, Repr, Inhabited

/-- A LAYSET or parameter-block read in flight (R99, R142, R356). -/
structure LayRead where
  id : Nat
  warp : Nat
  block : Nat
  /-- The layout slot of a LAYSET; the engine command of a parameter block. -/
  slot : Option Nat
  ecmd : Option Nat
  lanes : Word
  pc : Word
  word : Word
  /-- The 64 bytes, once read. -/
  bytes : Option (List Byte)
  due : Nat
  deriving DecidableEq, Repr, Inhabited

/-- One hamlet (R25). -/
structure Hamlet where
  warps : SMap Warp := []
  blocks : SMap Block := []
  ctxs : SMap Ctx := []
  /-- Deficit counters, key 4 * quarter + slot (R50). -/
  dfc : SMap Nat := []
  /-- Pairs that belong to a block: pair to block number (R76, R77). -/
  pairs : SMap Nat := []
  l1 : List L1Line := []
  /-- Peer predictor: valid entries (R88). -/
  pred : SMap Nat := []
  tlb : List TlbEntry := []
  walks : List Walk := []
  /-- Queues of the four copy channels (R97). -/
  chans : SMap (List Cmd) := []
  sb : List SbEntry := []
  /-- Local bytes that commands which have completed wrote in this cycle: threads see them in the next (R104). -/
  late : List Itv := []
  eng : Engine := {}
  /-- Engine states of restored contexts, by context number, until the engine becomes theirs (R152). -/
  engSaved : SMap Engine := []
  qeng : List QCmd := []
  /-- Fault-queue entries to be written, with their cycle (R185); what each written entry reports, and whether it has
  been answered (R188). -/
  fqWait : List (Nat × FqRec) := []
  fqMeta : SMap (Report × Bool) := []
  /-- Reserved SYSCALL record slots and records on their way (slot, cycle, words) (R196), and the record count. -/
  scRes : List Nat := []
  scWait : List (Nat × Nat × List Word) := []
  scSeq : Nat := 0
  lays : List LayRead := []
  /-- The cycle until which each quarter's F pipe refuses (R64). -/
  fbusy : SMap Nat := []
  placeCnt : Nat := 0
  nextBlock : Nat := 0
  /-- The cycle of the last join of the active set (R57), and of the last displacement (R58). -/
  joined : Option Nat := none
  deriving DecidableEq, Repr, Inhabited

/-- The kinds of request that travel to a home (R28, R158, R300). -/
inductive ReqKind where
  /-- A first-level miss of LDC or LDX, a LAYSET record or an ENQ packet read. -/
  | load
  /-- A store of STC, STX, a command chunk or a first-level ATOM, leaving the store path. -/
  | store
  /-- An ATOM at the home slice. -/
  | rmw
  /-- A shared-memory access to another rank. -/
  | sload | sstore | srmw
  deriving DecidableEq, Repr, Inhabited

/-- A request in flight, its place and cycle (R28). -/
structure Req where
  id : Nat
  kind : ReqKind
  /-- Requesting hamlet, warp slot, outstanding write. -/
  ham : Nat
  warp : Nat := 0
  pend : Nat := 0
  /-- The partition tag its flits carry (R22). -/
  tag : Nat
  /-- Home slice, or the target hamlet and block of a shared access. -/
  home : Nat
  block : Nat := 0
  /-- Die and line address (die Commons offset divided by 128), or the shared offset base. -/
  die : Nat := 0
  line : Nat := 0
  /-- Function of an RMW (R273). -/
  op : Nat := 0
  /-- Lanes: lane, byte address, operand bytes. -/
  lanes : List (Nat × Nat × List Byte) := []
  size : Nat := 4
  reg : Nat := 0
  /-- 0 towards the home's router, 1 accepted by the home, 2 at a peer, 3 reply. -/
  stage : Nat := 0
  due : Nat
  /-- The same moment in units of cycleUnits, and the journey that leads there (R28). -/
  at' : Nat := 0
  trip : Trip := {}
  /-- By lane, the address that a trap reports (R177). -/
  addrs : SMap Word := []
  /-- Bytes of the line that stores of the hamlet have written since the request (R158). -/
  patch : SMap Byte := []
  /-- Bytes of the lanes' accesses that the store path served at issue, key 16 * lane + byte (R158). -/
  onPath : SMap Byte := []
  /-- The cycle in which the home served it. -/
  since : Nat := 0
  /-- Bytes of the line, and values by lane, that the reply carries. -/
  data : List Byte := []
  vals : SMap Word := []
  /-- The line is not to be kept when it arrives (R82, R170). -/
  drop : Bool := false
  ro : Bool := false
  /-- The cycle in which the launch of a read-only load began (R160). -/
  began : Nat := 0
  peer : Option Nat := none
  lastReader : Option Nat := none
  hint : Nat := 0
  ctx : Nat := 0
  /-- The channel command whose chunk this is (R106). -/
  ack : Option (Nat × Nat) := none
  /-- The LAYSET read, engine drain or ENQ that it serves. -/
  lay : Option Nat := none
  pc : Word := 0
  word : Word := 0
  deriving DecidableEq, Repr, Inhabited

/-- What a cluster-barrier message carries (R111). -/
inductive BarItem where
  | arrive (n : Nat) (sync : Bool)
  | barrd (e : Nat)
  | barrj (e : Nat)
  | binit (e : Nat) (cl : Bool)
  | flip (ph : Bool)
  /-- The host's answer: the check passed, PH before the item and whether the item flipped it, the item was a BSYNC, and what a BINIT names:
  expectation and CL. -/
  | answer (ok : Bool) (ph : Bool) (flip : Bool) (sync : Bool) (init : Option (Nat × Bool))
  deriving DecidableEq, Repr, Inhabited

/-- A cluster-barrier message in flight (R111). -/
structure Msg where
  id : Nat
  src : Nat
  sblock : Nat
  dst : Nat
  dblock : Nat
  bar : Nat
  item : BarItem
  warp : Nat := 0
  /-- The sender's bundle, and its active lanes. -/
  lanes : Word := 0
  act : Word := 0
  pc : Word := 0
  word : Word := 0
  /-- The scalar that BARR writes, through this outstanding write. -/
  pend : Nat := 0
  /-- An arrival at a barrier of the block's own with CL = 0 that waits for its release (R165). -/
  own : Bool := false
  due : Nat
  /-- The same moment in units of cycleUnits, and the journey that leads there (R398). -/
  at' : Nat := 0
  trip : Trip := {}
  /-- An arrival that waits for its release at CLU (R165): the warp's or command's accesses numbered below it are performed first. -/
  waits : Option Nat := none
  deriving DecidableEq, Repr, Inhabited

/-- A second-level or last-level line's directory entry (R91, R92, R93); its bytes stand in Memory at the line's own
place. Lists are kept most recently used first. -/
structure CLine where
  set : Nat
  way : Nat
  /-- Physical address divided by 128. -/
  tag : Nat
  dirty : Bool := false
  hint : Nat := 0
  occ : Nat := 0
  deriving DecidableEq, Repr, Inhabited

/-- A second-level slice: its cached lines and the last reader of each read-only line (R88, R91). -/
structure Slice where
  lines : List CLine := []
  readers : SMap Nat := []
  deriving DecidableEq, Repr, Inhabited

/-- The packet operations in progress after a packet has started (R206, R208). -/
structure Packet where
  /-- Ring index (packets started before it), SEQ and opcode (R204, R206). -/
  idx : Nat
  seq : Nat
  op : Nat
  body : List Byte
  /-- Its own move (LAUNCH, SIGNAL ...) has run. -/
  begun : Bool := false
  done : Bool := false
  /-- It has halted its queue, and waits for RESUME; then it is read again from the ring (R205, R207). -/
  halted : Bool := false
  again : Bool := false
  /-- The shadowed fields it started with (R202). -/
  tenant : Nat
  weight : Nat
  occ : Nat
  partmask : Nat
  ctx : Nat
  /-- WAITSEM: false polls, cycle of the next poll (R210). COPYQ: bytes copied, cycle of the next. -/
  polls : Nat := 0
  next : Nat := 0
  /-- The launches of the packet; the job card. -/
  launches : List Nat := []
  card : Option Nat := none
  /-- MUSTER: parts (partition, LAUNCH VA), failures, retry cycle (R219). -/
  parts : List (Nat × Nat) := []
  fails : Nat := 0
  retry : Option Nat := none
  deriving DecidableEq, Repr, Inhabited

/-- The privileged QCB fields (R201, R202). -/
structure Shadow where
  tenant : Nat := 0
  weight : Nat := 1
  occ : Nat := 0
  partmask : Nat := 0
  muster : Bool := false
  ctx : Nat := 0
  deriving DecidableEq, Repr, Inhabited

/-- A command queue and its state (R200 to R204). -/
structure Queue where
  /-- The virtual address of its QCB, and the physical address to which it last translated (R200, R202). -/
  qcb : Nat
  qcbPa : Option Nat := none
  /-- The steward's copy, and the front-end's. -/
  steward : Shadow
  shadow : Shadow
  /-- Fields read at the last doorbell, and whether one has read them (R202). -/
  known : Bool := false
  base : Nat := 0
  l : Nat := 4
  widx : Nat := 0
  qsb : Nat := 0
  ridx : Nat := 0
  cidx : Nat := 0
  seq : Nat := 0
  halt : Bool := false
  err : Nat := 0
  errIdx : Nat := 0
  errSeq : Nat := 0
  stateSeq : Nat := 0
  mustate : Nat := 0
  packets : List Packet := []
  /-- The first cycle in which its front-end acts for it again; a doorbell waits to be served; the next packet waits for every
  earlier one (R206). -/
  due : Nat := 0
  rung : Bool := false
  barred : Bool := false
  /-- Its front-end core has restarted, and has still to rebuild the queue's tables (R220). -/
  rebuild : Bool := false
  deriving DecidableEq, Repr, Inhabited

/-- A start token in flight: queue and partition, the launch of the part, and the cycle of its arrival (R219). -/
structure StartToken where
  queue : Nat
  part : Nat
  launch : Nat
  due : Nat
  deriving DecidableEq, Repr, Inhabited

/-- A launch in progress (R209). -/
structure Launch where
  queue : Nat
  ctx : Nat
  tenant : Nat
  weight : Nat
  occ : Nat
  entry : Nat
  args : List Word
  spillBase : Nat
  gx : Nat
  gy : Nat
  gz : Nat
  clb : Nat
  lanes : Nat
  carve : Nat
  spill : Nat
  lease : Nat
  decl : Bool
  fpmode : Word
  part : Nat
  /-- The cycle in which it began (R160). -/
  began : Nat := 0
  /-- Clusters placed and blocks ended so far. -/
  placed : Nat := 0
  endedBlocks : Nat := 0
  card : Option Nat := none
  /-- A muster part placed but not started (R219). -/
  heldStart : Bool := false
  deriving DecidableEq, Repr, Inhabited

/-- A chunk of records dealt to a block (R211). -/
structure Chunk where
  ham : Nat
  block : Nat
  first : Nat
  count : Nat
  ended : Bool := false
  deriving DecidableEq, Repr, Inhabited

/-- A job card (R211, R212). -/
structure Card where
  queue : Nat
  launch : Nat
  records : Nat
  recBytes : Nat
  minchunk : Nat
  /-- Undealt records: [next, stop). -/
  next : Nat
  stop : Nat
  chunks : List Chunk := []
  endedRecords : Nat := 0
  /-- The VA of the record array, and the packet whose card this is (R208). -/
  array : Nat := 0
  packet : Nat := 0
  /-- Records shipped to another package: the first and their number (R212). -/
  shipped : Option (Nat × Nat) := none
  /-- The template and its argument block, of a card whose records another package has shipped here (R212). -/
  brought : Option (List Byte × List Byte) := none
  deriving DecidableEq, Repr, Inhabited

/-- What a donor ships to the steal queue of a requester (R212): the two packages, the donor's card, the shadowed fields of its queue, the
template, and the stolen records with their bytes. -/
structure Shipment where
  donor : Nat
  dest : Nat
  card : Nat
  shadow : Shadow
  template : List Byte
  args : List Byte
  array : Nat
  recBytes : Nat
  minchunk : Nat
  first : Nat
  count : Nat
  bytes : List Byte
  deriving DecidableEq, Repr, Inhabited

/-- A descriptor of a context (R199, R284): a file by its path, with what it is open for; or a socket by what names it, with the bytes that
have come and not been taken, whether the stream has ended, and the bytes sent. -/
inductive Desc where
  | file (path : List Byte) (rd wr : Bool)
  | socket (kind port addr rport : Word) (inb : List Byte) (ended : Bool) (out : List Byte)
  deriving DecidableEq, Repr, Inhabited

/-- What the kernel shard keeps for a context (R284): its live allocations and file mappings, address and length, and its descriptors. -/
structure Proc where
  allocs : List (Nat × Nat) := []
  maps : List (Nat × Nat) := []
  descs : SMap Desc := []
  deriving DecidableEq, Repr, Inhabited

/-- An operation of the kernel shard (R198): one group of lanes of a record. -/
structure ShardOp where
  id : Nat
  ham : Nat
  warp : Nat
  /-- The context's number. -/
  ctx : Nat
  lanes : Word
  /-- Call number, register A, argument words. -/
  call : Nat
  reg : Nat
  args : List Word
  begun : Bool := false
  /-- The words for v[A] and v[A+1], once the operation has them. -/
  result : Option (List Word) := none
  deriving DecidableEq, Repr, Inhabited

/-- What an agent outside the model does that is no row of the opcode table (log 1, log 20): the steward creates a queue or loads its copy
of the shadowed fields (R200, R202); a shipment of stolen records comes over a Clodor link (R212); the kernel shard of a hamlet takes its
next action (R198), or executes an SFENCE.VMA that another has asked for (R193); the shards are given pages of memory; bytes, or the end of
the stream, come for a socket (R199, R284; log 26). What befalls the hardware comes the same way. -/
inductive Deed where
  | createQueue (q qcb : Nat) (fields : Shadow)
  | loadShadow (q : Nat) (fields : Shadow)
  | steal (x : Shipment)
  | shard (ham : Nat)
  | sfence (ham : Nat) (va asid : Option Nat)
  | pages (l : List Nat)
  | netData (ctx desc : Nat) (b : List Byte)
  /-- The monitor of a core whose image has failed its check reports it to the boot Reeve (R228). -/
  | report (core : Nat)
  /-- The other end of a Clodor link acknowledges flits, or has met a flit that fails its CRC (R241). -/
  | linkAck (port count : Nat)
  | linkNak (port : Nat)
  /-- The load token has come over a link (R212, R241). -/
  | token (seq : Nat) (loads requests : List Nat)
  /-- A port goes on with the requests that it has received (R241). -/
  | linkServe (port : Nat)
  /-- Another package has written memory of its own (R241). -/
  | podWrite (pa : Nat) (b : List Byte)
  /-- A single-bit error in a word of Memory, or an error that cannot be corrected (R96, R194); erroneous symbols of a burst in its stack
  (R235); the parity of a register fails in some lanes (R176). -/
  | flip (word : Nat)
  | spoil (word : Nat)
  /-- A 64-bit word of a matrix engine's arrays cannot be corrected: of the accumulator memory (unit 0), of the weight FIFO (1), of the
  activation FIFO (2), of the tile in the shadow latch (3) (R194). -/
  | spoilEngine (ham unit word : Nat)
  | symbols (burst : Nat) (l : List (Nat × Byte))
  | parity (ham warp key : Nat) (lanes : Word)
  /-- The NVMe controller has processed a shutdown (R245). -/
  | nvmeShut
  /-- A device error is to be reported to a function (R232). -/
  | deviceError (func : Nat) (w2 w3 : Word)
  deriving DecidableEq, Repr, Inhabited

/-- A TASKGET or ENQ request at a front-end (R211, R331). -/
structure Task where
  id : Nat
  ham : Nat
  warp : Nat
  block : Nat
  pend : Nat
  /-- ENQ: the word s[S+1] that names the destination queue, and the packet; TASKGET: none. -/
  enq : Option (Word × List Byte)
  s : Nat
  due : Nat
  /-- ENQ: the issuing lane, whose accesses numbered below `before` are performed first (R330). -/
  lane : Word := 0
  before : Nat := 0
  /-- ENQ: the tenant of the issuing context (R213). -/
  tenant : Nat := 0
  deriving DecidableEq, Repr, Inhabited

/-- A save region's contents (R217), kept whole beside the bytes written to the arena (log 15). -/
structure Region where
  ham : Nat
  slot : Nat
  ctx : Ctx
  warps : SMap Warp
  blocks : SMap Block
  shared : SMap (List Byte)
  chans : SMap (List Cmd)
  sb : List SbEntry
  eng : Engine
  engineOwned : Bool
  /-- The baton's holder and queue, of this context's warps (R152). -/
  bq : List Nat
  qeng : List QCmd
  scRecords : List (List Word)
  /-- Reports to the fault queue that have not been answered. -/
  fq : List FqRec
  /-- The save sequence number. -/
  num : Nat := 0
  deriving DecidableEq, Repr, Inhabited

/-- A pre-emption request in progress (R215, R216). -/
structure Preempt where
  op : Nat
  ctx : Nat
  arena : Nat
  pages : Nat
  since : Nat
  /-- Of a save: 1 drain, 2 save. Of a restore: 0 before its arena has been read, 1 after. -/
  stage : Nat
  /-- By hamlet, the cycle in which its stage 2 began: each has deadlines of its own (R214, R215). -/
  stops : SMap Nat := []
  /-- Hamlets still to save, with their context slot; the regions still to be restored, once the arena has been read (stage 1). -/
  todo : List (Nat × Nat)
  regions : List Region := []
  deriving DecidableEq, Repr, Inhabited

/-- A torus mailbox message in flight (R229). -/
structure Mail where
  id : Nat
  src : Nat
  dst : Nat
  words : List Word
  due : Nat
  trip : Trip := {}
  /-- The partition tag of its flits; a core of no partition sends none (R22). -/
  tag : Option Nat := none
  deriving DecidableEq, Repr, Inhabited

/-- A firmware image or key command in a flash copy (R225, R226): header and body bytes. -/
structure Image where
  bytes : List Byte
  deriving DecidableEq, Repr, Inhabited

/-- A submission queue of the NVMe controller, and the completion queue that it posts to (R245). -/
structure NvmeSq where
  base : Nat
  size : Nat
  cq : Nat
  head : Nat := 0
  tail : Nat := 0
  deriving DecidableEq, Repr, Inhabited

/-- A completion queue, with the phase of its next entry (R245, R285). -/
structure NvmeCq where
  base : Nat
  size : Nat
  head : Nat := 0
  tail : Nat := 0
  phase : Bool := true
  deriving DecidableEq, Repr, Inhabited

/-- The NVMe controller (R245). -/
structure Nvme where
  cc : Word := 0
  rdy : Bool := false
  /-- CSTS.SHST: 0 normal operation, 1 a shutdown is processed, 2 it is complete; the interrupt mask of INTMS and INTMC. -/
  shst : Nat := 0
  intm : Word := 0
  aqa : Word := 0
  asq : Nat := 0
  acq : Nat := 0
  /-- Submission and completion queues by identifier; 0 is the admin queue. -/
  sqs : SMap NvmeSq := []
  cqs : SMap NvmeCq := []
  /-- Feature values that have been set or read, by feature identifier. -/
  features : SMap Word := []
  /-- Error Information entries: queue and value of each invalid doorbell (R245). -/
  errlog : List (Nat × Nat) := []
  deriving DecidableEq, Repr, Inhabited

/-- A Clodor port (R241). -/
structure Port where
  up : Bool := false
  /-- Sequence number expected next, 12 bits. -/
  rxSeq : Nat := 0
  txSeq : Nat := 0
  /-- Unacknowledged flits with the package that each goes to, oldest first, at most 256. -/
  replay : List (Nat × List Byte) := []
  /-- Flits sent on the wire. -/
  sent : List (List Byte) := []
  /-- Payloads received in order, by virtual channel. -/
  rx : List (Nat × List Byte) := []
  /-- Requests received and not yet performed. -/
  todo : List (List Byte) := []
  /-- Flits acknowledged. -/
  acked : Nat := 0
  deriving DecidableEq, Repr, Inhabited

/-- A line of another package's memory that an agent reads (R241): whether the request has left, whether its response has come, and whether the
agent has taken the data. -/
structure RemoteRead where
  agent : Nat
  line : Nat
  asked : Bool := false
  come : Bool := false
  used : Bool := false
  deriving DecidableEq, Repr, Inhabited

/-- A host-link function (R230 to R232, R239). -/
structure Func where
  drv : List Word := [0, 0, 0, 0]
  ok : Bool := false
  refused : Bool := false
  lasth : Word := 0xFFFFFFFF
  dbrej : Word := 0
  evbase : Nat := 0
  evcfg : Nat := 0
  evhead : Word := 0
  nextd : Word := 0
  /-- Events held until the ring has room: kind, word 2, word 3. -/
  events : List (Nat × Word × Word) := []
  /-- Firings of MSI-X vector 0. -/
  msix : Nat := 0
  deriving DecidableEq, Repr, Inhabited

/-- A control core, an RV64GC hart (R26, R221): integer and floating-point registers, program counter, mode (0 U, 1 S, 3 M), the CSRs that
hold a value of their own, the reservation of LR (the number of 8 bytes), a wait for an interrupt, the cycle of its next instruction, and the
address at which it was released, where it begins again when its watchdog restarts it (R220). -/
structure Cpu where
  x : SMap Dword := []
  f : SMap Dword := []
  pc : Dword := 0
  mode : Nat := 3
  csr : SMap Dword := []
  resv : Option Nat := none
  idle : Bool := false
  due : Nat := 0
  start : Dword := 0
  deriving DecidableEq, Repr, Inhabited

/-- A request in the controller queue of a HOT stack (R237, R238): its line and its agent, or a write-back's hint and class; it has been let go. -/
structure HotWait where
  line : Nat
  agent : Nat
  back : Option (Nat × Nat) := none
  released : Bool := false
  deriving DecidableEq, Repr, Inhabited

/-- An acknowledgement on its way to a unit of a hamlet: channels 0 to 3, the quantisation engine, the matrix engine (R106). -/
structure Ack where
  ham : Nat
  chan : Nat
  cmd : Nat
  due : Nat
  trip : Trip := {}
  deriving DecidableEq, Repr, Inhabited

/-- The word being executed: the issuing warp, its bundle and program counters (R35, R61). The model's own. -/
structure Issue where
  ham : Nat := 0
  warp : Nat := 0
  bundle : Word := 0
  /-- The whole bundle of the group, of which `bundle` is a part in the later words of a group after a FENCE (R335). -/
  all : Word := 0
  pc : Word := 0
  /-- The program counter after the group's last word (R61). -/
  succ : Word := 0
  word : Word := 0
  /-- The later words of the group with their program counters, for a FENCE (R335). -/
  rest : List (Word × Word) := []
  /-- The bundle is the head run and another run exists (R37). -/
  head : Bool := true
  others : Bool := false
  /-- A trap or an ordering hold has ended the group (R63, R335). -/
  stop : Bool := false
  /-- A trap has ended the group. -/
  trapped : Bool := false
  /-- FPMODE as the group reads it (R121). -/
  fpmode : Word := 0
  /-- The cycle in which the group issued (R182, R185). -/
  issued : Nat := 0
  /-- The registers as the group read them at issue, when it takes effect later (R326, R335). -/
  snap : Option Snap := none
  /-- Its fixed-latency results land in this cycle (R326). -/
  atOnce : Bool := false
  /-- The word after the group's last that fails a check of R62. -/
  enc : Option EncAt := none
  /-- A word could not issue in this cycle (R49). -/
  stalled : Bool := false
  deriving DecidableEq, Repr, Inhabited

/-- Everything but the bytes of Memory. -/
structure Mach where
  now : Nat := 0
  /-- The cycle of the last PACKAGE_RESET (R257). -/
  clock0 : Nat := 0
  booted : Bool := false
  cur : Issue := {}
  wr : List Host.Cell := []
  free : Nat := 0
  /-- Moves of agents outside the model, each from a cycle on, in the order in which they come. -/
  agenda : List (Nat × Instr) := []
  /-- What outside agents do beside the rows of the opcode table, likewise. -/
  deeds : List (Nat × Deed) := []
  timers : List (Nat × Event) := []
  issued : List Nat := []
  nextId : Nat := 1
  regs : SMap Word := []
  hams : SMap Hamlet := []
  slices : SMap Slice := []
  llc : SMap (List CLine) := []
  sliceErr : SMap Nat := []
  routerErr : SMap Nat := []
  reqs : List Req := []
  msgs : List Msg := []
  acks : List Ack := []
  /-- The cycle of each parish governor's last step, in units of cycleUnits (R20, R246). -/
  govLast : SMap Nat := []
  /-- The cycle of the power controller's last step (R247). -/
  powLast : Nat := 0
  /-- By how much the power controller has lowered each parish's ceiling below FMAX (R246, R247). -/
  ceilLow : SMap Nat := []
  /-- Reserved granules and held lines: owner, home slice, address (R148, R292). -/
  resv : List (Nat × Nat × Nat) := []
  frozen : Bool := false
  freezeEnd : Option Nat := none
  /-- The controller queues of the stacks (R237, R238): what waits, in the order in which it came. -/
  hotQueue : List HotWait := []
  /-- The stacks in self-refresh (R237). -/
  refresh : List Nat := []
  /-- The agent of the move that acts (R237), and that a device has met a stack that holds it back. The model's own. -/
  agent : Nat := 0
  stuck : Bool := false
  throttle : Bool := false
  queues : SMap Queue := []
  /-- The steward's shadow log: queue, offset and value of each guest write to a shadowed field (R202). -/
  shadowLog : List (Nat × Nat × Nat) := []
  /-- The completion queue of the launch hardware: queue and packet index (R220). -/
  cqueue : List (Nat × Nat) := []
  launches : SMap Launch := []
  cards : SMap Card := []
  tasks : List Task := []
  /-- Muster reservations: partition to queue (R219). -/
  reservations : SMap Nat := []
  /-- Start tokens in flight (R219). -/
  tokens : List StartToken := []
  pre : Option Preempt := none
  /-- What a save has kept of each region beside the bytes of the arena, by save number: the model's own (log 15). -/
  saved : SMap (List Region) := []
  /-- Saves done (R217). -/
  saves : Nat := 0
  suspended : List Nat := []
  /-- The kernel shards (R198, R199, R284): contexts, operations in order of their records, files by path, pages to give out, what PRINT has
  printed. -/
  procs : SMap Proc := []
  ops : List ShardOp := []
  files : List (List Byte × List Byte) := []
  pool : List Nat := []
  console : List Byte := []
  kicks : SMap Nat := []
  mails : List Mail := []
  sends : SMap Nat := []
  /-- The load token (R212): the last sequence number seen, the loads and the steal requests that it carried on, and the cycle in which it
  last passed; the tokens sent on; the shipments sent; the acknowledgements sent, donor and card. -/
  podSeq : Nat := 0
  podLoads : List Nat := []
  podRequests : List Nat := []
  podLast : Nat := 0
  podForwarded : List (Nat × List Nat × List Nat) := []
  podShipped : List Shipment := []
  podAcked : List (Nat × Nat) := []
  flashA : List Image := []
  flashB : List Image := []
  /-- The flash cannot be read; main memory cannot be initialised (R227). -/
  flashDead : Bool := false
  memDead : Bool := false
  /-- Cores released from reset (R228); the boot Reeve is core 0. -/
  cores : List Nat := [0]
  /-- The control cores that run, by number (R221). -/
  cpus : SMap Cpu := []
  nvme : Nvme := {}
  /-- Frames sent by each Ethernet port (R243), and PAUSE frames among them (R237). -/
  ethOut : SMap (List (List Byte)) := []
  /-- Frames in each port's receive buffer behind the one that waits (R237); by ring, before which cycle the port does not try it again; by
  8 * port + priority, until which cycle priority flow control holds back its transmission (R243). -/
  ethIn : SMap (List (List Byte)) := []
  txWait : SMap Nat := []
  ethPause : SMap Nat := []
  ports : SMap Port := []
  /-- Lines of other packages that agents of this one read, over the links (R241). -/
  remote : List RemoteRead := []
  funcs : SMap Func := []
  /-- Aligned 8-byte words of Memory that fail their check (R96, R194), by address divided by 8. -/
  poison : List Nat := []
  /-- Those that have a single-bit error, and how many reads have corrected one (R96): one count for the package, which no register shows
  (DESIGN CHOICE, log 23). -/
  flips : List Nat := []
  corrected : Nat := 0
  /-- Erroneous symbols of main-memory bursts and their error values, by burst address divided by 64 (R235). -/
  eccErr : SMap (List (Nat × Byte)) := []
  /-- The words of `poison` that fail only because a read of their burst found it uncorrectable (R194, R235). -/
  spoiled : List Nat := []
  deriving DecidableEq, Repr, Inhabited

/-- The state of the machine: its bytes, and everything else. -/
structure State where
  m : Mach
  mem : Memory
  deriving DecidableEq, Repr, Inhabited

/-- The machine right after reset (R228): no warp, no queue, every register at its reset value, the boot still to run. -/
def State.reset : State := { m := {}, mem := [] }

end Sys2Proof.Machine
end

