-- ==== Sys2Proof/Machine/Regs.lean ====
section
/-! DEFINITION. The register space (R7, R10 to R12): where each block lies, and for each register its reset value, its
writable and write-1-to-clear bits and the values a write is changed to. A register's access codes are R10's; RES bits and
reserved addresses read zero and ignore writes (R11). -/
namespace Sys2Proof.Machine

/-- Die aperture base (R12). -/
def dieAperture : Nat := 0x820000000000
/-- Package aperture base (R12). -/
def pkgAperture : Nat := 0x830000000000

/-- The die of a hamlet, and its base address (R12, R24). -/
def hamDie (h : Nat) : Nat := h / 160
/-- Column of a hamlet within its die (R24). -/
def hamX (h : Nat) : Nat := h % 160 / 16
/-- Row of a hamlet within its die (R24). -/
def hamY (h : Nat) : Nat := h % 16 / 2
/-- The parish of a hamlet (R24). -/
def hamParish (h : Nat) : Nat := 10 * hamDie h + hamX h
/-- Address of a HAM register (R12). -/
def hamReg (h off : Nat) : Nat := dieAperture + hamDie h * 0x40000000 + h % 160 * 0x200000 + off
/-- Address of an SLC register (R12). -/
def slcReg (s off : Nat) : Nat := dieAperture + s / 80 * 0x40000000 + 0x20000000 + s % 80 * 0x1000 + off
/-- Address of a NET register (R12). -/
def netReg (d off : Nat) : Nat := dieAperture + d * 0x40000000 + 0x21000000 + off
/-- Address of a CPQ register (R12). -/
def cpqReg (d off : Nat) : Nat := dieAperture + d * 0x40000000 + 0x21002000 + off
/-- Address of an HBM register of stack `m` (R12). -/
def hbmReg (m off : Nat) : Nat := dieAperture + m / 4 * 0x40000000 + 0x21004000 + m % 4 * 0x1000 + off
/-- Address of an LLC register of stack `m` (R12). -/
def llcReg (m off : Nat) : Nat := dieAperture + m / 4 * 0x40000000 + 0x21008000 + m % 4 * 0x1000 + off
/-- Address of a STW register (R12). -/
def stwReg (off : Nat) : Nat := pkgAperture + off
/-- Address of a LNK register (R12). -/
def lnkReg (off : Nat) : Nat := pkgAperture + 0x4000 + off
/-- Address of a PCI register (R12). -/
def pciReg (off : Nat) : Nat := pkgAperture + 0x5000 + off
/-- Address of a BOOT register (R12). -/
def bootReg (off : Nat) : Nat := pkgAperture + 0x7000 + off
/-- Address of an ETX register (R12). -/
def etxReg (off : Nat) : Nat := pkgAperture + 0x8000 + off
/-- Address of HAM.WCTLw (R223). -/
def wctlReg (h w : Nat) : Nat := hamReg h (0x10000 + 0x4000 * w + 0x3000)
/-- Base of a core's mailbox registers, so that register `o` of R229 (0x0800 to 0x084C) lies at base + o: a Reeve, a
command-processor core or the steward (R221, R229). -/
def mailBase (core : Nat) : Nat :=
  if core < 640 then hamReg core 0
  else if core < 656 then cpqReg ((core - 640) / 4) (0x100 * ((core - 640) % 4))
  else stwReg 0

/-- The block that an address of the register space lies in, with the offset (R12). -/
inductive RegPlace where
  | ham (h off : Nat) | slc (s off : Nat) | net (d off : Nat) | cpq (d off : Nat) | hbm (m off : Nat) | llc (m off : Nat)
  | stw (off : Nat) | lnk (off : Nat) | pci (off : Nat) | boot (off : Nat) | etx (off : Nat) | reserved
  deriving DecidableEq, Repr

/-- The address lies in a register aperture (R12). -/
def inRegApertures (a : Nat) : Bool :=
  (dieAperture ≤ a && a < dieAperture + 4 * 0x40000000) || (pkgAperture ≤ a && a < pkgAperture + 0x10000)

/-- R12: the block of an address. -/
def regPlace (a : Nat) : RegPlace :=
  if dieAperture ≤ a ∧ a < dieAperture + 4 * 0x40000000 then
    let d := (a - dieAperture) / 0x40000000
    let o := (a - dieAperture) % 0x40000000
    if o < 160 * 0x200000 then .ham (160 * d + o / 0x200000) (o % 0x200000)
    else if 0x20000000 ≤ o ∧ o < 0x20000000 + 80 * 0x1000 then .slc (80 * d + (o - 0x20000000) / 0x1000) (o % 0x1000)
    else if 0x21000000 ≤ o ∧ o < 0x21001000 then .net d (o - 0x21000000)
    else if 0x21002000 ≤ o ∧ o < 0x21004000 then .cpq d (o - 0x21002000)
    else if 0x21004000 ≤ o ∧ o < 0x21008000 then .hbm (4 * d + (o - 0x21004000) / 0x1000) (o % 0x1000)
    else if 0x21008000 ≤ o ∧ o < 0x2100C000 then .llc (4 * d + (o - 0x21008000) / 0x1000) (o % 0x1000)
    else .reserved
  else if pkgAperture ≤ a ∧ a < pkgAperture + 0x10000 then
    let o := a - pkgAperture
    if o < 0x4000 then .stw o
    else if o < 0x5000 then .lnk (o - 0x4000)
    else if o < 0x6000 then .pci (o - 0x5000)
    else if o < 0x7000 then .reserved
    else if o < 0x8000 then .boot (o - 0x7000)
    else .etx (o - 0x8000)
  else .reserved

/-- How a register behaves under a write (R10): reset value, RW bits, W1C bits. -/
structure RegSpec where
  reset : Word
  rw : Word
  w1c : Word
  deriving DecidableEq, Repr

/-- A reserved address (R11). -/
def resReg : RegSpec := ⟨0, 0, 0⟩

/-- The torus mailbox registers, by R229 offset 0x0800 to 0x084F. -/
def mailSpec (o : Nat) : RegSpec :=
  if o < 0x808 then resReg
  else if o < 0x840 then ⟨0, 0xFFFFFFFF, 0⟩
  else if o = 0x844 then ⟨0, 0, 2⟩
  else if o = 0x848 then ⟨0, 0xFFFFFFFF, 0⟩
  else if o = 0x84C then ⟨0, 0x7F, 0⟩
  else resReg

/-- The HAM registers (R68, R69, R86, R89, R179, R187, R191, R214, R224, R229). -/
def hamSpec (o : Nat) : RegSpec :=
  if o = 0x300 then ⟨0x01000801, 0x03F0FF01, 0⟩
  else if 0x310 ≤ o ∧ o < 0x320 then ⟨1, 0x000100FF, 0⟩
  else if 0x320 ≤ o ∧ o < 0x340 then ⟨0, 0x07FF07FF, 0⟩
  else if 0x400 ≤ o ∧ o < 0x500 then
    ⟨0, if o % 16 = 0 then 0xFFFFF000 else if o % 16 = 4 then 0x0000FFFF else if o % 16 = 8 then 0x000FFFFF else 7, 0⟩
  else if 0x600 ≤ o ∧ o < 0x610 then ⟨0, 0x1BE, 0⟩
  else if 0x610 ≤ o ∧ o < 0x630 then ⟨0, 0xFFFFFFFF, 0⟩
  else if o = 0x630 then ⟨0, 0x1FF, 0⟩
  else if o = 0x638 then ⟨0, 0, 0x1F⟩
  else if o = 0x640 then ⟨0, 0xFFFFFFFF, 0⟩
  else if o = 0x644 then ⟨0, 0xFFFFFFFC, 0⟩
  else if 0x700 ≤ o ∧ o < 0x710 then ⟨0x00400010, 0xFFFFFFFF, 0⟩
  else if 0x800 ≤ o ∧ o < 0x850 then mailSpec o
  else if 0x10000 ≤ o ∧ o < 0x110000 ∧ o % 0x4000 = 0x3000 then ⟨0, 3, 4⟩
  else resReg

/-- The occupancy registers of a slice or an LLC (R94). -/
def occSpec (o : Nat) : RegSpec :=
  if 0x100 ≤ o ∧ o < 0x180 ∧ o % 8 = 0 then ⟨0xFFFFFF, 0xFFFFFF, 0⟩ else resReg

/-- The STW registers (R23, R203, R213, R215, R229). -/
def stwSpec (o : Nat) : RegSpec :=
  if 0x800 ≤ o ∧ o < 0x850 then mailSpec o
  else if 0x2000 ≤ o ∧ o < 0x2800 then (if o % 8 = 0 then ⟨0, 0x800FF3FF, 0⟩ else if o % 8 = 4 then ⟨0, 0xFF, 0⟩ else resReg)
  else if 0x3000 ≤ o ∧ o < 0x30A0 then ⟨0x80000000, 0x8000003F, 0⟩
  else if o = 0x30A0 then ⟨0, 0, 1⟩
  else if o = 0x3100 then ⟨0, 0xFFFC0000, 0⟩
  else if o = 0x3104 then ⟨0, 0xFFFF, 0⟩
  else if o = 0x3200 then ⟨0, 0xFFFFF000, 0⟩
  else if o = 0x3204 then ⟨0, 0xFFFF, 0⟩
  else if o = 0x3208 then ⟨0, 0xFFFFF, 0⟩
  else if o = 0x3210 then ⟨0, 0, 0xE⟩
  else resReg

/-- The Ethernet port and ring registers (R243, R244). -/
def etxSpec (o : Nat) : RegSpec :=
  if o < 0x1000 then
    let q := o % 0x400
    if q = 0 then ⟨0, 0xFFFFFFFF, 0⟩
    else if q = 4 then ⟨0, 0xFFFF, 0⟩
    else if q = 8 then ⟨0, 0x003F0F1F, 0⟩
    else if q = 0xC then ⟨0, 1, 0⟩
    else if 0x40 ≤ q ∧ q < 0x68 then ⟨0, 0xFFFFFFFF, 0⟩
    else if 0x100 ≤ q ∧ q < 0x300 then ⟨0, 0x3F, 0⟩
    else resReg
  else if o < 0x5000 then
    let q := o % 0x20
    if q = 0 ∨ q = 0xC then ⟨0, 0xFFFFFFFF, 0⟩
    else if q = 4 then ⟨0, 0xFFFF, 0⟩
    else if q = 8 then ⟨0, 0x1F, 0⟩
    else resReg
  else resReg

/-- Reset value and writable bits of the register at an address; a reserved address has none (R11). -/
def regSpec (a : Nat) : RegSpec :=
  if a % 4 ≠ 0 then resReg else
  match regPlace a with
  | .ham _ o => hamSpec o
  | .slc _ o => if o = 0x10 then ⟨0, 7, 0⟩ else occSpec o
  | .llc _ o => occSpec o
  | .net d o =>
    if o = 0x80 ∧ d = 0 then ⟨1, 1, 0⟩
    else if o = 0x90 ∧ d = 0 then ⟨3600, 0xFFF, 0⟩
    else if 0x100 ≤ o ∧ o < 0x128 then ⟨0x02081800, 0x9F1F1F1F, 0⟩
    else if 0x140 ≤ o ∧ o < 0x168 then ⟨0x00001818, 0, 0⟩
    else resReg
  | .cpq _ o => if 0x800 ≤ o ∧ o < 0xC00 then mailSpec (0x800 + o % 0x100) else resReg
  | .hbm _ o =>
    if o = 0 then ⟨0x5F69, 0xFFFF, 0⟩
    else if 0x100 ≤ o ∧ o < 0x200 then ⟨0, 0x1F, 0⟩
    else resReg
  | .stw o => stwSpec o
  | .lnk o =>
    if o = 0 then ⟨0, 0x3F, 0⟩
    else if 0x100 ≤ o ∧ o < 0x200 then ⟨0, 0x80009F1F, 0⟩
    else resReg
  | .pci o => if o < 0x404 then ⟨0, 0x1FF, 0⟩ else resReg
  | .boot o => if o = 0x100 then ⟨1, 0, 0⟩ else resReg
  | .etx o => etxSpec o
  | .reserved => resReg

/-- The value that a write stores in place of one that the register's effect column changes (R68, R69, R94, R213, R23,
R236, R241, R246). -/
def regLegal (a : Nat) (v : Word) : Word :=
  match regPlace a with
  | .ham _ o =>
    if o = 0x300 then
      let x := wbits v 20 6
      let y := if x < 16 then 16 else if x > 32 then 32 else x
      (v &&& 0xFC0FFFFF) ||| word (y * 2 ^ 20)
    else if 0x310 ≤ o ∧ o < 0x320 then (if wbits v 0 8 = 0 then v ||| 1 else v)
    else v
  | .slc _ o => if o = 0x10 ∧ wbits v 0 3 = 7 then 6 else v
  | .net _ o =>
    if o = 0x90 then (if wbits v 0 12 > 3600 then 3600 else v)
    else if 0x100 ≤ o ∧ o < 0x128 then
      let fmax := min (wbits v 8 5) 24
      let fmin := min (wbits v 0 5) fmax
      let dn := wbits v 24 5
      let up := if wbits v 16 5 ≤ dn then (dn + 1) % 32 else wbits v 16 5
      (v &&& 0x80000000) ||| word (dn * 2 ^ 24 + up * 2 ^ 16 + fmax * 2 ^ 8 + fmin)
    else v
  | .hbm _ o =>
    if o = 0 then
      let crit := min (wbits v 0 8) 105
      let rel := min (wbits v 8 8) (crit - 5)
      word (rel * 256 + crit)
    else if 0x100 ≤ o ∧ o < 0x200 ∧ wbits v 0 4 ≥ 10 then v &&& 0xFFFFFFEF
    else v
  | .stw o => if 0x3000 ≤ o ∧ o < 0x30A0 ∧ wbits v 0 6 ≥ 40 then v &&& 0x7FFFFFFF else v
  | .lnk o => if 0x100 ≤ o ∧ o < 0x200 ∧ (wbits v 0 5 ≥ 18 ∨ wbits v 8 5 ≥ 18) then v &&& 0x7FFFFFFF else v
  | _ => v

/-- The stored value of a register (R10). -/
def Mach.reg (m : Mach) (a : Nat) : Word := m.regs.get (regSpec a).reset a
/-- Set a register's stored value; a register at its reset value is not listed. -/
def Mach.setReg (m : Mach) (a : Nat) (v : Word) : Mach :=
  { m with regs := if v = (regSpec a).reset then m.regs.erase a else m.regs.set a v }
/-- A write by a control core under the access codes of R10, for a register with no behaviour of its own. -/
def Mach.writeReg (m : Mach) (a : Nat) (v : Word) : Mach :=
  let sp := regSpec a
  let old := m.reg a
  let new := (old &&& ~~~sp.rw &&& ~~~(sp.w1c &&& v)) ||| (v &&& sp.rw)
  if sp.rw = 0 ∧ sp.w1c = 0 then m else m.setReg a (regLegal a new)
/-- Set the field [lo + n - 1 : lo] of a register. -/
def Mach.setField (m : Mach) (a lo n x : Nat) : Mach :=
  let old := (m.reg a).toNat
  m.setReg a (word (old - bits old lo n * 2 ^ lo + x % 2 ^ n * 2 ^ lo))
/-- The field [lo + n - 1 : lo] of a register. -/
def Mach.regField (m : Mach) (a lo n : Nat) : Nat := wbits (m.reg a) lo n

/-- The partition that owns a parish: none when V = 0 (R23). -/
def Mach.partOf (m : Mach) (p : Nat) : Option Nat :=
  let v := m.reg (stwReg (0x3000 + 4 * p))
  if wbit v 31 then some (wbits v 0 6) else none
/-- The parishes of a partition, in ascending order (R23). -/
def Mach.parishesOf (m : Mach) (q : Nat) : List Nat := (List.range 40).filter (fun p => m.partOf p = some q)
/-- The partition's slices on a die, in ascending number (R24, R85). -/
def Mach.slicesOn (m : Mach) (q d : Nat) : List Nat :=
  ((m.parishesOf q).filter (fun p => p / 10 = d)).flatMap (fun p => (List.range 8).map (fun y => 80 * d + 8 * (p % 10) + y))
/-- The partition's slices (R91). -/
def Mach.slicesOf (m : Mach) (q : Nat) : List Nat :=
  (List.range 4).flatMap (fun d => m.slicesOn q d)
/-- The carve C of a slice (R94). -/
def Mach.carveOf (m : Mach) (s : Nat) : Nat := m.regField (slcReg s 0x10) 0 3
/-- The size of a partition's Commons on a die: n * C * 256 KiB, 0 while the carves differ (R85). -/
def Mach.commonsSize (m : Mach) (q d : Nat) : Nat :=
  match m.slicesOn q d with
  | [] => 0
  | s :: r => let c := m.carveOf s
    if r.all (fun s' => m.carveOf s' = c) then (r.length + 1) * c * 0x40000 else 0
/-- Where a die Commons offset lies: slice and byte (R85). -/
def Mach.commonsAt (m : Mach) (q d x : Nat) : Nat × Nat :=
  let ss := m.slicesOn q d
  let g := x / 256
  (ss.getD (g % ss.length) 0, g / ss.length * 256 + x % 256)
/-- The home slice of a physical address within a partition (R91). -/
def Mach.homeSlice (m : Mach) (q pa : Nat) : Nat :=
  let ss := m.slicesOf q
  ss.getD (pa % 2 ^ 40 / 256 % ss.length) 0

end Sys2Proof.Machine
end

