-- ==== Sys2Proof/Machine/Ops.lean ====
section
/-! DEFINITION. The named operations that every meaning is made of: reading and writing bytes of Memory, hamlets, warps
and registers; the fault queue; taking an exception and returning from one (R176 to R185); and `lift`, through which a
meaning acts on State. A meaning reads Memory, changes everything else, and leaves the bytes it writes in the buffer `wr`,
which `lift` commits: so no meaning can break Memory's canonical form. -/
namespace Sys2Proof.Machine

/-- What a meaning does: from the bytes and the rest of the state to the rest of the state, with the bytes it writes in
the buffer. -/
abbrev Act := Memory → Mach → Mach

/-- The state with an empty buffer. -/
def Mach.clear (m : Mach) : Mach := { m with wr := [] }
/-- The state after a step: the bytes that it has written are committed to Memory, in the order in which it wrote them. -/
def State.settle (s : State) (m : Mach) : State := { m := m.clear, mem := s.mem.commit m.wr }
/-- Run a meaning as one step. -/
def lift (f : Act) (s : State) : Host.Outcome State Fault Refusal := .next (s.settle (f s.mem s.m.clear))

/-- One meaning after another within a step. -/
def Act.then (f g : Act) : Act := fun mem m => g mem (f mem m)
/-- A meaning done for each element of a list in turn. -/
def forEach {α : Type} (l : List α) (f : α → Act) : Act :=
  fun mem m => l.foldl (fun m x => f x mem m) m

/-! ## Bytes -/

/-- The array byte of a hamlet (R76). -/
def keyArray (h off : Nat) : Nat := 2 ^ 49 + h * 2 ^ 19 + off
/-- A byte of a slice's Commons (R85, R91). -/
def keyCommons (s b : Nat) : Nat := 2 ^ 48 + s * 2 ^ 21 + b
/-- The first byte of a slice's cached line (R91). -/
def keyL2 (s set way : Nat) : Nat := 2 ^ 51 + ((s * 2048 + set) * 16 + way) * 128
/-- A byte of the host's memory (R153). -/
def keyHost (a : Nat) : Nat := 2 ^ 65 + a
/-- A byte of the NVMe module's media (R245). -/
def keyNvm (a : Nat) : Nat := 2 ^ 66 + a

/-- The byte at an address, as the step has left it so far. -/
def Mach.rd (mem : Memory) (m : Mach) (a : Nat) : Byte :=
  match SMap.get? m.wr a with
  | some b => b
  | none => mem.read a
/-- `n` bytes from an address. -/
def Mach.rdN (mem : Memory) (m : Mach) (a n : Nat) : List Byte := (List.range n).map (fun i => m.rd mem (a + i))
/-- The little-endian number of `n` bytes (R9). -/
def Mach.rdNat (mem : Memory) (m : Mach) (a n : Nat) : Nat := leNat (m.rdN mem a n)
/-- Write one byte. -/
def Mach.st (m : Mach) (a : Nat) (b : Byte) : Mach := { m with wr := (a, b) :: m.wr }
/-- Write bytes at rising addresses. -/
def Mach.stN (m : Mach) (a : Nat) : List Byte → Mach
  | [] => m
  | b :: r => (m.st a b).stN (a + 1) r

/-! ## Hamlets, blocks and warps -/

/-- Hamlet `h`. -/
def Mach.ham (m : Mach) (h : Nat) : Hamlet := m.hams.get {} h
/-- Replace hamlet `h`. -/
def Mach.setHam (m : Mach) (h : Nat) (x : Hamlet) : Mach := { m with hams := m.hams.set h x }
/-- Change hamlet `h`. -/
def Mach.modHam (m : Mach) (h : Nat) (f : Hamlet → Hamlet) : Mach := m.setHam h (f (m.ham h))
/-- Warp slot `w` of hamlet `h`. -/
def Mach.warp (m : Mach) (h w : Nat) : Warp := (m.ham h).warps.get default w
/-- Replace warp slot `w`. -/
def Mach.setWarp (m : Mach) (h w : Nat) (x : Warp) : Mach :=
  m.modHam h (fun y => { y with warps := y.warps.set w x })
/-- Change warp slot `w`. -/
def Mach.modWarp (m : Mach) (h w : Nat) (f : Warp → Warp) : Mach := m.setWarp h w (f (m.warp h w))
/-- Block `b` of hamlet `h`. -/
def Mach.block (m : Mach) (h b : Nat) : Block := (m.ham h).blocks.get default b
/-- Replace block `b`. -/
def Mach.setBlock (m : Mach) (h b : Nat) (x : Block) : Mach :=
  m.modHam h (fun y => { y with blocks := y.blocks.set b x })
/-- Change block `b`. -/
def Mach.modBlock (m : Mach) (h b : Nat) (f : Block → Block) : Mach := m.setBlock h b (f (m.block h b))
/-- Context slot `c` of hamlet `h`. -/
def Mach.ctx (m : Mach) (h c : Nat) : Ctx := (m.ham h).ctxs.get default c
/-- A fresh number for a command or an outstanding access. -/
def Mach.fresh (m : Mach) : Nat × Mach := (m.nextId, { m with nextId := m.nextId + 1 })
/-- The next free word and the state after it is drawn (log 6). -/
def Mach.freeWord (m : Mach) : Word × Mach := (Config.freeWord m.free, { m with free := m.free + 1 })
/-- The next free count below `n` and the state after it is drawn (log 4, log 6). -/
def Mach.freeBelow (m : Mach) (n : Nat) : Nat × Mach :=
  if n ≤ 1 then (0, m) else (Config.freeNat m.free % n, { m with free := m.free + 1 })
/-- A cycle that the spec leaves open, at or after `t` (R192, R245, R292; log 4, log 11), and the state after it is drawn. -/
def Mach.someTime (m : Mach) (t : Nat) : Nat × Mach := (t + Config.freeNat m.free, { m with free := m.free + 1 })

/-- The value of v[r] in a lane; an absent lane's registers were never written, so it supplies 0 (R39, R268). -/
def Warp.vr (x : Warp) (r l : Nat) : Word := x.v.get 0 (32 * r + l)
/-- The value of s[r]. -/
def Warp.sr (x : Warp) (r : Nat) : Word := x.s.get 0 r
/-- The value of k[r]. -/
def Warp.kr (x : Warp) (r : Nat) : Word := x.k.get 0 r
/-- FX of a lane (R124). -/
def Warp.fxr (x : Warp) (l : Nat) : Word := x.fx.get 0 l
/-- The lane position `l`. -/
def Warp.lane (x : Warp) (l : Nat) : Lane := x.lanes.get {} l
/-- Change a lane. -/
def Warp.modLane (x : Warp) (l : Nat) (f : Lane → Lane) : Warp := { x with lanes := x.lanes.set l (f (x.lane l)) }
/-- Change every lane of a mask. -/
def Warp.modLanes (x : Warp) (mask : Word) (f : Lane → Lane) : Warp :=
  (lanesOf mask).foldl (fun x l => x.modLane l f) x
/-- The lanes in a state. -/
def Warp.lanesIn (x : Warp) (p : LaneState → Bool) : Word := maskOf (fun l => p (x.lane l).st)
/-- The ready lanes (R34). -/
def Warp.readyMask (x : Warp) : Word := x.lanesIn (· == .ready)
/-- Membership and liveness: k0, or in handler mode the saved live mask (R181). -/
def Warp.liveMask (x : Warp) : Word := if x.hmode then x.saved else x.kr 0

/-- The warp of the word being executed. -/
def Mach.cw (m : Mach) : Warp := m.warp m.cur.ham m.cur.warp
/-- Change the warp of the word being executed. -/
def Mach.modCw (m : Mach) (f : Warp → Warp) : Mach := m.modWarp m.cur.ham m.cur.warp f
/-- The block of the word being executed. -/
def Mach.cb (m : Mach) : Block := m.block m.cur.ham m.cw.block
/-- The count of a hamlet's cycles since its reset, in a cycle (R257). The hamlets' clocks are not synchronised (R15): how long after the
package's reset a hamlet's count begins is open (log 4). -/
def Mach.clockAt (m : Mach) (h t : Nat) : Nat := t - (m.clock0 + Config.resetDelay h)
/-- v[r] of a lane as the word reads it: at issue (R61). -/
def Mach.v (m : Mach) (r l : Nat) : Word :=
  match m.cur.snap with | some x => x.v.get 0 (32 * r + l) | none => m.cw.vr r l
/-- s[r] as the word reads it. -/
def Mach.s (m : Mach) (r : Nat) : Word := match m.cur.snap with | some x => x.s.get 0 r | none => m.cw.sr r
/-- k[r] as the word reads it. -/
def Mach.k (m : Mach) (r : Nat) : Word := match m.cur.snap with | some x => x.k.get 0 r | none => m.cw.kr r
/-- FX of a lane as the word reads it. -/
def Mach.fxv (m : Mach) (l : Nat) : Word := match m.cur.snap with | some x => x.fx.get 0 l | none => m.cw.fxr l
/-- The pair v[r]:v[r+1] of a lane, low word in the even register (R252). -/
def Mach.v2 (m : Mach) (r l : Nat) : BitVec 64 := m.v (r + 1) l ++ m.v r l
/-- The active lanes of a word with guard number `g`, 0 for none (R36, R251). -/
def Mach.active (m : Mach) (g : Nat) : Word :=
  m.cur.bundle &&& m.k 0 &&& (if g = 0 then 0xFFFFFFFF else m.k g)
/-- The active lanes of the whole group, for a word that combines lanes (R335). -/
def Mach.activeAll (m : Mach) (g : Nat) : Word :=
  (m.cur.all ||| m.cur.bundle) &&& m.k 0 &&& (if g = 0 then 0xFFFFFFFF else m.k g)
/-- Bits [47:32] of the fetch addresses of a warp's launch (R249). -/
def Mach.codeHi (m : Mach) (h w : Nat) : Nat :=
  (m.launches.get default (m.block h (m.warp h w).block).launch).entry / 2 ^ 32 % 2 ^ 16
/-- The fetch address of a program counter (R249). -/
def Mach.fetchVa (m : Mach) (h w : Nat) (pc : Word) : Nat := m.codeHi h w * 2 ^ 32 + pc.toNat
/-- The slot of its packet that a program counter stands at: a packet lies at a byte address that is a multiple of 12 (R249). -/
def Mach.slotOf (m : Mach) (h w : Nat) (pc : Word) : Nat := m.fetchVa h w pc % 12 / 4
/-- The address of the current word's packet (R249). -/
def Mach.packetAddr (m : Mach) : Word := m.cur.pc - word (4 * m.slotOf m.cur.ham m.cur.warp m.cur.pc)
/-- The current word cannot issue now: nothing more of the group happens, and its bundle stays at the word (R64), unless the group has
issued and only its effects come later. -/
def Mach.notIssued (m : Mach) : Mach :=
  let m := if m.cur.snap.isSome then m else m.modCw (fun x => x.modLanes m.cur.bundle (fun y => { y with pc := m.cur.pc }))
  { m with cur := { m.cur with stop := true, stalled := true } }

/-! ## Outstanding register writes (R66, R67) -/

/-- Add an outstanding write to a warp. -/
def Mach.addPend (m : Mach) (h w : Nat) (p : Pend) : Mach :=
  m.modWarp h w (fun x => { x with pends := x.pends ++ [p] })
/-- The registers whose parity fails once a write has landed: what it writes anew is right again (R176). -/
def Warp.rewritten (x : Warp) (p : Pend) : SMap Word :=
  let clear (key : Nat) (lanes : Word) (a : SMap Word) : SMap Word := a.map (fun (e : Nat × Word) => if e.1 = key then (e.1, e.2 &&& ~~~lanes) else e)
  let all : Word := 0xFFFFFFFF
  let a : SMap Word := match p.file with
    | .v => p.vals.foldl (fun a (e : Nat × Word) => clear (e.1 / 32) (laneBit (e.1 % 32)) a) x.parity
    | .s => p.vals.foldl (fun a (e : Nat × Word) => clear (256 + e.1) all a) x.parity
    | .k => if p.mask = all then p.vals.foldl (fun a (e : Nat × Word) => clear (512 + e.1) all a) x.parity else x.parity
    | _ => x.parity
  a.filter (fun (e : Nat × Word) => e.2 ≠ 0)
/-- Land values in a register file: v and FX by lane, s, and k bit by bit (R66, R342, R350). -/
def Warp.land (x : Warp) (p : Pend) : Warp :=
  let x := { x with parity := x.rewritten p }
  match p.file with
  | .v => { x with v := p.vals.foldl (fun a e => a.set e.1 e.2) x.v }
  | .s => { x with s := p.vals.foldl (fun a e => a.set e.1 e.2) x.s }
  | .k => { x with k := p.vals.foldl (fun a e => a.set e.1 ((a.get 0 e.1 &&& ~~~p.mask) ||| (e.2 &&& p.mask))) x.k }
  | .fxOr => { x with fx := p.vals.foldl (fun a e => a.set e.1 (a.get 0 e.1 ||| e.2)) x.fx }
  | .fxAndn => { x with fx := p.vals.foldl (fun a e => a.set e.1 (a.get 0 e.1 &&& ~~~e.2)) x.fx }
/-- The part of a write that belongs to the lanes of a mask. -/
def Pend.only (p : Pend) (mask : Word) : Pend :=
  { p with mask, vals := p.vals.filter (fun e => wbit mask (e.1 % 32)) }
/-- Two writes touch a register of a common lane. -/
def Pend.meets (p q : Pend) (lanes : Word) : Bool :=
  p.file == q.file && p.regs.any q.regs.contains && (p.file == .s || p.file == .k || (q.mask &&& lanes) != 0)
/-- The fixed-latency writes to a register of a variable-latency write, in some of its lanes, that were issued before it and have not
landed. A VWR waits for those that it names in another way (R275). -/
def Warp.older (x : Warp) (p : Pend) (lanes : Word) : List Pend :=
  if !p.var || p.role == .vwr then [] else x.pends.filter (fun q => q.id < p.id && !q.var && p.meets q lanes)
/-- The words of groups that issued before a write and whose effects are still held back, with their lanes (R299, R335). -/
def Warp.owedBefore (x : Warp) (id : Nat) : List (Word × Word) :=
  (x.fences.filter (fun f => f.before ≤ id)).flatMap (fun f => f.rest.map (fun e => (f.mask, e.2))) ++
  (x.withheld.filter (fun g => g.before ≤ id)).flatMap (fun g => g.words.map (fun e => (g.bundle, e.2)))
/-- A word that a hold keeps back is to write, at a fixed latency, a register that a variable-latency write issued after it writes. -/
def Warp.heldOlder (x : Warp) (p : Pend) (lanes : Word) : Bool :=
  p.var && p.role != .vwr && (x.owedBefore p.id).any (fun e =>
    let f := form (instrOf e.2)
    !f.var && match p.file with
      | .v => f.vd.any p.regs.contains && (e.1 &&& lanes) != 0
      | .s => f.sd.any p.regs.contains
      | .k => f.kd.any p.regs.contains
      | _ => false)
/-- The cycle in which some lanes of a write whose data are there in cycle `t` land: a variable-latency write follows every earlier write
to its registers, for writes to one register of one lane land in issue order where such a write is among them (R67). -/
def Warp.landsAt (x : Warp) (p : Pend) (lanes : Word) (t : Nat) : Option Nat :=
  if x.heldOlder p lanes then none else some (maxOf (t :: (x.older p lanes).map (fun q => q.land.getD 0)))
/-- A write lands by a cycle. -/
def Warp.comes (x : Warp) (p : Pend) (now : Nat) : Bool :=
  match p.land.bind (x.landsAt p p.mask) with | some t => t ≤ now | none => false
/-- The lanes whose own part has come. -/
def Warp.earlyMask (x : Warp) (p : Pend) (now : Nat) : Word :=
  maskOf (fun l => match (p.early.get? l).bind (x.landsAt p (laneBit l)) with | some t => t ≤ now | none => false)
/-- Land the lanes of a write whose own part has come; a write with no lane left is done. -/
def Warp.landEarly (x : Warp) (p : Pend) (now : Nat) : Warp :=
  let m := x.earlyMask p now
  let rest := p.mask &&& ~~~m
  let x := if m = 0 then x else x.land (p.only m)
  if m ≠ 0 && rest = 0 then { x with pends := x.pends.filter (fun y => y.id ≠ p.id) }
  else
    let f : Pend → Pend := fun y => 
      { y with mask := rest, early := y.early.filter (fun e => wbit rest e.1), vals := y.vals.filter (fun e => wbit rest (e.1 % 32)) }
    if m = 0 then x else { x with pends := updateFirst (fun y => y.id = p.id) f x.pends }
/-- Land every write whose cycle has come, in order of landing cycle, then of issue. VRD and VWR land by events of their own. -/
def Warp.landDue (x : Warp) (now : Nat) : Warp :=
  let due := x.pends.filter (fun p => x.comes p now)
  let rest := x.pends.filter (fun p => !x.comes p now)
  let x := (sortBy (fun p => (p.land.bind (x.landsAt p p.mask)).getD 0) due).foldl Warp.land { x with pends := rest }
  (x.pends.filter (fun p => p.role == .plain && p.early != [])).foldl (fun x p => x.landEarly p now) x
/-- No write issued before number `id` to v[r] of a lane is outstanding. -/
def Warp.settled (x : Warp) (id r l : Nat) : Bool :=
  !x.pends.any (fun p => p.id < id && (p.file == .v) && p.regs.contains r && wbit p.mask l)
/-- VRD and VWR: each waiting lane whose named register has no earlier write outstanding reads it, or is set to write it, and its part
comes at a cycle (R287, R394). -/
def Warp.captureOne (x : Warp) (at' : Nat) (p : Pend) : Pend :=
  let ready := p.named.filter (fun e => x.settled p.id e.2 e.1)
  if p.role == .plain then p
  else { p with
    named := p.named.filter (fun e => !x.settled p.id e.2 e.1)
    early := p.early ++ ready.map (fun e => (e.1, at'))
    vals := if p.role == .vrd then p.vals ++ ready.map (fun e => (32 * p.regs.headD 0 + e.1, x.vr e.2 e.1)) else p.vals }
/-- Every VRD and VWR of a warp goes on as far as it can, to land 4 cycles later. -/
def Warp.capture (x : Warp) (now : Nat) : Warp := { x with pends := x.pends.map (x.captureOne (now + 4)) }
/-- The cycle in which a result of the current word lands, `lat` cycles after issue (R66), or at once in a group that was withheld (R29,
R326). -/
def Mach.landIn (m : Mach) (lat : Nat) : Nat := m.now + if m.cur.atOnce then 0 else lat
/-- The cycle from which the times of a word count that no result of a register ends (R196): its issue, also where its group was withheld
(R326), or the release of the hold that it follows (R335). -/
def Mach.issueCycle (m : Mach) : Nat := if m.cur.atOnce then m.cur.issued else m.now
/-- A fixed-latency write by the current word (R66). -/
def Mach.fixed (m : Mach) (file : RFile) (lat : Nat) (regs : List Nat) (mask : Word) (vals : SMap Word) : Mach :=
  let (id, m) := m.fresh
  m.addPend m.cur.ham m.cur.warp
    { id, file, regs, mask, vals, issue := m.now, land := some (m.landIn lat), var := false }
/-- Write v[d] in the lanes of a mask, with a value for each lane. -/
def Mach.writeV (m : Mach) (lat d : Nat) (mask : Word) (f : Nat → Word) : Mach :=
  m.fixed .v lat [d] mask ((lanesOf mask).map (fun l => (32 * d + l, f l)))
/-- Write the pair v[d]:v[d+1] in the lanes of a mask (R252). -/
def Mach.writeV2 (m : Mach) (lat d : Nat) (mask : Word) (f : Nat → BitVec 64) : Mach :=
  m.fixed .v lat [d, d + 1] mask ((lanesOf mask).flatMap (fun l =>
    [(32 * d + l, (f l).setWidth 32), (32 * (d + 1) + l, (f l >>> 32).setWidth 32)]))
/-- Write s[d]. -/
def Mach.writeS (m : Mach) (lat d : Nat) (x : Word) : Mach := m.fixed .s lat [d] 0 [(d, x)]
/-- Write the bits of k[d] that a mask names (R262, R350). -/
def Mach.writeK (m : Mach) (lat d : Nat) (mask : Word) (x : Word) : Mach := m.fixed .k lat [d] mask [(d, x)]
/-- OR flags into FX of the lanes of a mask (R124). -/
def Mach.orFx (m : Mach) (lat : Nat) (mask : Word) (f : Nat → Word) : Mach :=
  m.fixed .fxOr lat [0] mask ((lanesOf mask).map (fun l => (l, f l)))
/-- A variable-latency write of the current word (R67), landing at a known cycle or when its data come; it answers the
number of the write. -/
def Mach.varPend (m : Mach) (file : RFile) (regs : List Nat) (mask : Word) (vals : SMap Word) (land : Option Nat) :
    Nat × Mach :=
  let (id, m) := m.fresh
  (id, m.addPend m.cur.ham m.cur.warp { id, file, regs, mask, vals, issue := m.now, land, var := true })
/-- Give an outstanding write its values and its landing cycle. -/
def Mach.resolve (m : Mach) (h w id : Nat) (vals : SMap Word) (at' : Nat) : Mach :=
  let f : Pend → Pend := fun p => { p with vals := p.vals ++ vals, land := some at' }
  m.modWarp h w (fun x => { x with pends := updateFirst (fun p => p.id = id) f x.pends })

/-- Give one lane of an outstanding write its values and its landing cycle (R300). -/
def Mach.resolveLane (m : Mach) (h w id l : Nat) (vals : SMap Word) (at' : Nat) : Mach :=
  let f : Pend → Pend := fun p => { p with vals := p.vals ++ vals, early := p.early.set l at' }
  m.modWarp h w (fun x => { x with pends := updateFirst (fun p => p.id = id) f x.pends })

/-! ## Holding and releasing lanes -/

/-- The program counter of a lane (R34, R38): a lane that waits at a quad instruction stands at it. -/
def Lane.at' (y : Lane) : Word := match y.quad with | some q => q.pc | none => y.pc
/-- The lane leaves what it waits for and stands at its program counter: a quad instruction that it waits at is to be issued again. -/
def Lane.stand (y : Lane) : Lane := { y with pc := y.at', quad := none }
/-- Hold the lanes of a mask at a program counter (R34). -/
def Warp.hold (x : Warp) (mask : Word) (why : Hold) (pc : Word) (arg : Nat := 0) (val : Word := 0) : Warp :=
  x.modLanes mask (fun y => { y with st := .held why, pc, arg, val })
/-- Hold the lanes of a mask where they go on (R299). -/
def Warp.holdHere (x : Warp) (mask : Word) (why : Hold) : Warp := x.modLanes mask (fun y => { y with st := .held why })
/-- What a released lane becomes. Where an arrival-time fault names it (R356), or a faulted logged access that found it ready or held (R190),
it is parked. In
handler mode a lane outside the handler's set is parked until the TRET release, as the lanes of R180 step 3 are: only handler lanes
issue there (R34, R181; DEDUCED, log 23). Every other lane is ready. -/
def Warp.released (x : Warp) (l : Nat) : LaneState :=
  if wbit x.parkAt l then .parked (if x.hmode then .doubleTrap else .trap)
  else if x.log.any (fun e => wbit (e.faulted &&& e.parked) l) then .parked .logged
  else if x.hmode && !wbit (x.kr 0) l then .parked .nonTrap
  else .ready
/-- Release one lane. -/
def Warp.releaseLane (after : Nat) (x : Warp) (l : Nat) : Warp := x.modLane l (fun y => { y with st := x.released l, after })
/-- End a wait of the lanes of a mask, to issue no earlier than a cycle: a lane that still waits at a quad instruction stays held there
(R34, R38), any other is released. -/
def Warp.release (x : Warp) (mask : Word) (after : Nat) : Warp :=
  let quad := maskOf (fun l => (x.lane l).quad.isSome)
  let x := x.modLanes (mask &&& quad) (fun y => { y with st := .held .quad })
  let go := mask &&& ~~~quad
  let x := (lanesOf go).foldl (Warp.releaseLane after) x
  { x with parkAt := x.parkAt &&& ~~~go }
/-- Park the lanes of a mask where they stand. -/
def Warp.park (x : Warp) (mask : Word) (why : Park) : Warp := x.modLanes mask (fun y => { y with st := .parked why })

/-! ## The fault queue (R186, R187) -/

/-- The queue's count of unconsumed entries (R187). -/
def Mach.fqCount (m : Mach) (h : Nat) : Nat :=
  let v := m.reg (hamReg h 0x630)
  (wbits v 16 9 + 512 - wbits v 0 9) % 512
/-- Write one entry at TAIL (R186). -/
def Mach.fqWrite (m : Mach) (h : Nat) (r : FqRec) : Mach :=
  let tail := m.regField (hamReg h 0x630) 16 9
  let e := tail % 256
  let m := m.stN (keyArray h (39 * 8192 + 16 * e)) (wordsBytes [r.w0, r.w1, r.w2, r.w3])
  let m := m.setField (hamReg h 0x630) 16 9 (tail + 1)
  m.modHam h (fun x => { x with fqMeta := x.fqMeta.set e (r.rep, false) })
/-- Write the waiting entries whose cycle has come, oldest first, while the queue has room (R186). -/
def Mach.fqFlush (m : Mach) (h : Nat) : Nat → Mach
  | 0 => m
  | n + 1 =>
    match (m.ham h).fqWait with
    | (t, r) :: rest =>
      if t ≤ m.now ∧ m.fqCount h < 256 then
        ((m.modHam h (fun x => { x with fqWait := rest })).fqWrite h r).fqFlush h n
      else m
    | [] => m
/-- Report to the fault queue at a cycle (R185, R186). -/
def Mach.fqPush (m : Mach) (h : Nat) (at' : Nat) (r : FqRec) : Mach :=
  let m := m.modHam h (fun x => { x with fqWait := insertBy (·.1) (at', r) x.fqWait })
  m.fqFlush h ((m.ham h).fqWait.length)
/-- Word 0 of an entry (R186). -/
def fqWord0 (group code warp ctx src : Nat) (wr : Bool) : Word :=
  word (group % 32 + code % 256 * 2 ^ 8 + warp % 64 * 2 ^ 16 + ctx % 4 * 2 ^ 22 + src % 16 * 2 ^ 24 + (if wr then 2 ^ 28 else 0))

/-! ## Exceptions -/

/-- The trap special registers take a cause (R177, R178, R180 step 1). -/
def Warp.setCause (x : Warp) (group code : Nat) (d0 d1 d2 pc mask : Word) : Warp :=
  { x with trapcause := word (code % 256 * 256 + group % 32), trapd0 := d0, trapd1 := d1, trapd2 := d2,
           trappc := pc, trapmask := mask }

/-- A trap sent to the in-warp handler (R180). Where the trapping group was withheld (R326), `now` is the cycle in which it takes effect, and
the 8 cycles to the handler's first group count from there (DESIGN CHOICE, log 23). Lanes of the bundle that an earlier word of the group has
just held are taken too (DESIGN CHOICE, log 23; see Mach.trap). -/
def Warp.toHandler (x : Warp) (now group code : Nat) (d0 d1 d2 pc mask : Word) : Warp :=
  let x := { x with parkAt := x.parkAt &&& ~~~mask, lateFault := x.lateFault &&& ~~~(x.parkAt &&& mask) }
  let x := x.setCause group code d0 d1 d2 pc mask
  let x := { x with saved := x.kr 0, k := x.k.set 0 mask, hmode := true }
  let x := x.park (x.readyMask &&& ~~~mask) .nonTrap
  x.modLanes mask (fun y => { y with st := .ready, pc := x.tvec, after := now + 8, quad := none })

/-- A trap sent to the Reeve: the lanes' part (R185). -/
def Warp.toReeve (x : Warp) (group code : Nat) (d0 d1 d2 pc mask : Word) : Warp :=
  let x := { x with parkAt := x.parkAt &&& ~~~mask }
  let x := x.setCause group code d0 d1 d2 pc mask
  let x := x.park (x.readyMask &&& ~~~mask) .trap
  x.modLanes mask (fun y => { y with st := .parked .trap, pc, quad := none })

/-- A double trap: the lanes' part (R182). Only handler lanes change; those that SYSCALL or a fault has parked stay as they are, unless they
are of the trapping bundle. -/
def Warp.doubleTrap (x : Warp) (pc mask : Word) : Warp :=
  let mask := mask &&& x.kr 0
  let x := { x with parkAt := x.parkAt &&& ~~~x.kr 0 }.modLanes mask (fun y => { y with pc, quad := none })
  let mine := (x.kr 0 &&& x.lanesIn (fun s => match s with | .ready => true | .held _ => true | _ => false)) ||| mask
  x.modLanes mine (fun y => { y.stand with st := .parked .doubleTrap })

/-- The context slot of a warp. -/
def Mach.warpCtx (m : Mach) (h w : Nat) : Nat := (m.block h (m.warp h w).block).ctx

/-- Taking a trap (R179): in handler mode it is a double trap (R182); a group that HAM.TRAPDISPc sends to the handler goes
there when TVEC is nonzero (R180); every other trap goes to the Reeve (R185). `at'` is the cycle of the fault-queue entry. -/
def Mach.takeTrapAt (m : Mach) (h w at' group code : Nat) (d0 d1 d2 pc mask : Word) (toReeve : Bool) : Mach :=
  let x := m.warp h w
  let c := m.warpCtx h w
  let r : FqRec := { w0 := fqWord0 group code w c (if x.hmode then 3 else 2) false, w1 := mask, w2 := pc, w3 := 0, rep := .noReply }
  if x.hmode then (m.setWarp h w (x.doubleTrap pc mask)).fqPush h at' r
  else if wbit (m.reg (hamReg h (0x600 + 4 * c))) group && x.tvec ≠ 0 && !toReeve then
    m.setWarp h w (x.toHandler m.now group code d0 d1 d2 pc mask)
  else (m.setWarp h w (x.toReeve group code d0 d1 d2 pc mask)).fqPush h at' r

/-- The current word traps its bundle (R63, R179): the trap registers, lanes and fault queue as R180, R182 or R185 say, and
nothing more of the group happens. Where an earlier word of the group, a WAITK or a KSYNC, has committed and held lanes of the bundle, the
trap takes those lanes as well and leaves their bits in the slot's arrival mask: R45 lets held lanes survive a trap, R180 and R185 move every
bundle lane, and no rule says which of them governs (DESIGN CHOICE, log 23). -/
def Mach.trap (m : Mach) (group code : Nat) (d0 d1 d2 : Word) : Mach :=
  { m.takeTrapAt m.cur.ham m.cur.warp (m.cur.issued + 12) group code d0 d1 d2 m.cur.pc m.cur.bundle false
    with cur := { m.cur with stop := true, trapped := true } }
/-- A hardware-error trap of the current word, which always goes to the Reeve (R179, R185, R194). -/
def Mach.trapHard (m : Mach) (code : Nat) (d0 d1 d2 : Word) : Mach :=
  { m.takeTrapAt m.cur.ham m.cur.warp (m.cur.issued + 12) 9 code d0 d1 d2 m.cur.pc m.cur.bundle true
    with cur := { m.cur with stop := true, trapped := true } }
/-- A trap whose detail is the trapping word alone (R177). -/
def Mach.trapWord (m : Mach) (group code : Nat) (d1 : Word := 0) (d2 : Word := 0) : Mach :=
  m.trap group code m.cur.word d1 d2

/-- WCTL.STOP of a warp is 1 (R224). -/
def Mach.stopOn (m : Mach) (h w : Nat) : Bool := wbit (m.reg (wctlReg h w)) 1
/-- What a resumed lane becomes: a faulted logged access that has parked it beside an arrival-time fault keeps it parked (R190, R356). -/
def Warp.resumed (x : Warp) (l : Nat) : LaneState :=
  if wbit x.lateFault l && x.log.any (fun e => wbit e.parked l) then .parked .logged else .ready
/-- Resume a lane (R197). -/
def Warp.resumeLane (x : Warp) (l : Nat) (pc : Option Word) (after : Nat) : Warp :=
  let keep := ~~~laneBit l
  { x.modLane l (fun y => { y with st := x.resumed l, pc := pc.getD y.pc, after }) with
    lateFault := x.lateFault &&& keep, parkAt := x.parkAt &&& keep, aborted := x.aborted &&& keep }
/-- The recorded resumes of parked lanes take effect (R184, R224). -/
def Warp.applyResumes (x : Warp) (after : Nat) (l : SMap (Option Word)) : Warp :=
  l.foldl (fun x e => match (x.lane e.1).st with
    | .parked _ => x.resumeLane e.1 e.2 (max (x.lane e.1).after after)
    | _ => x) x
/-- The word from which TRET returns: R183's release. The handler lanes not exited take `pc` when given, k0 takes the saved
live mask without exited lanes, the lanes parked at entry become ready, and recorded resumes apply (R184), but not while STOP is 1 (R224). -/
def Warp.leaveHandler (x : Warp) (now : Nat) (pc : Option Word) (stop : Bool) : Warp :=
  let handlers := x.kr 0
  let x := match pc with
    | some p => (x.modLanes handlers (fun y => { y with pc := p })).release handlers (now + 4)
    | none => x
  let nonTrap := x.lanesIn (· == .parked .nonTrap)
  let x := { x with k := x.k.set 0 x.saved, hmode := false, saveWait := none, stopped := x.stopped || x.saveWait.isSome }
  let x := x.modLanes nonTrap (fun y => { y with st := .ready, after := now + 4 })
  let x := if stop then x else x.applyResumes (now + 4) x.resumes
  { x with resumes := if stop then x.resumes else [] }

/-- A resume under R197: the named lanes that SYSCALL, a trap, an aborted logged access or a fetch fault has parked become
ready, or are recorded for the TRET release or the end of STOP (R184, R224). -/
def Warp.resume (x : Warp) (now : Nat) (stop : Bool) (mask : Word) (pc : Option Word) : Warp :=
  (lanesOf mask).foldl (fun x l =>
    let y := x.lane l
    let faulted := x.log.any (fun e => wbit e.parked l)
    let can := match y.st with
      | .parked .syscall => true | .parked .trap => true | .parked .fetch => true | .parked .doubleTrap => true
      | .parked .logged => wbit x.aborted l || !faulted
      | _ => false
    if !can then x
    else if (x.hmode && !wbit (x.kr 0) l) || stop then { x with resumes := x.resumes.set l pc }
    else x.resumeLane l pc (now + 40)) x

/-! ## Time on the network (R15, R16 to R21, R28, R398) -/

/-- Units of a hamlet cycle in which every network period is whole: the least common multiple of 16 to 40. -/
def cycleUnits : Nat := 5342931457063200
/-- The network period of a parish, in units: 30 / (16 + SET) hamlet cycles (R20, R246). -/
def Mach.netPeriod (m : Mach) (p : Nat) : Nat :=
  30 * cycleUnits / (16 + m.regField (netReg (p / 10) (0x140 + 4 * (p % 10))) 0 5)
/-- One leg of a route: a hop into a parish's router, or a bridge crossing into a parish. -/
inductive Leg where
  | hop (parish : Nat) | bridge (parish : Nat)
  deriving DecidableEq, Repr
/-- The positions visited on a ring of `n` from `a` to `b`: the shorter way, on a tie towards increasing index (R18). -/
def ringPath (n a b : Nat) : List Nat :=
  let up := (b + n - a) % n
  if 2 * up ≤ n then (List.range up).map (fun i => (a + i + 1) % n)
  else (List.range (n - up)).map (fun i => (a + n - i - 1) % n)
/-- The hops of a route within a die: X ring, then Y ring (R18). -/
def dieRoute (d : Nat) (p q : Nat × Nat) : List Leg :=
  (ringPath 10 p.1 q.1).map (fun x => .hop (10 * d + x)) ++ (ringPath 8 p.2 q.2).map (fun _ => .hop (10 * d + q.1))
/-- The attachment router of bridge `i` of an edge, on die `d`: horizontal edges join d and d xor 1, vertical ones d and
d xor 2 (R19). -/
def bridgeAt (d i : Nat) (horizontal : Bool) : Nat × Nat :=
  if horizontal then (if d % 2 = 0 then 9 else 0, 2 * i)
  else ([1, 3, 6, 8].getD i 1, if d < 2 then 7 else 0)
/-- A route between routers, across dies where needed: the horizontal edge first (R17). -/
def route : Nat → Nat → Nat × Nat × Nat → Nat × Nat × Nat → List Leg
  | 0, _, _, _ => []
  | n + 1, i, (d, p), (d', p') =>
    if d = d' then dieRoute d p p'
    else
      let horizontal := d % 2 ≠ d' % 2
      let e := if horizontal then (if d % 2 = 0 then d + 1 else d - 1) else (if d < 2 then d + 2 else d - 2)
      dieRoute d p (bridgeAt d i horizontal) ++ [.bridge (10 * e + (bridgeAt e i horizontal).1)] ++
        route n i (e, bridgeAt e i horizontal) (d', p')
/-- The router of a hamlet (R24). -/
def hamRouter (h : Nat) : Nat × Nat × Nat := (hamDie h, hamX h, hamY h)
/-- The router of a slice (R24). -/
def sliceRouter (s : Nat) : Nat × Nat × Nat := (s / 80, s % 80 / 8, s % 8)
/-- The parish of a slice (R24). -/
def sliceParish (s : Nat) : Nat := 10 * (s / 80) + s % 80 / 8
/-- The parts of a route, from a router of a parish: two network cycles a hop at the clock of the parish entered, 32 hamlet cycles a
bridge crossing, and a wait of 0 or 1 cycle of the receiving parish on entry into another parish (R16, R21, R28). -/
def Mach.spans (m : Mach) (parish : Nat) (r : List Leg) : List Span × Mach :=
  let a := r.foldl (fun (a : Nat × List Span × Mach) g =>
    let (cur, l, m) := a
    match g with
    | .hop p =>
      let (n, m) := if p = cur then (0, m) else m.freeBelow 2
      (p, l ++ [.net p (2 + n)], m)
    | .bridge p =>
      let (n, m) := m.freeBelow 2
      (p, l ++ [.units (32 * cycleUnits), .net p n], m)) (parish, [], m)
  (a.2.1, a.2.2)
/-- The first clock edge of a parish at or after a moment: up to one of its network cycles later (R28, R398; log 4). -/
def Mach.entry (m : Mach) (parish : Nat) : Span × Mach :=
  let (n, m) := m.freeBelow (m.netPeriod parish)
  (.units n, m)
/-- A journey begins now, with network cycles of injection in its parish and a route from there (R28, R398). -/
def Mach.setOut (m : Mach) (parish cycles : Nat) (r : List Leg) : Trip × Mach :=
  let (e, m) := m.entry parish
  let (l, m) := m.spans parish r
  ({ start := m.now * cycleUnits, spans := [e, .net parish cycles] ++ l }, m)
/-- The time that a part takes at the settings in force. -/
def Mach.spanTime (m : Mach) : Span → Nat
  | .net p n => n * m.netPeriod p
  | .units n => n
/-- The moment at which a journey ends, in units, at the settings in force. -/
def Mach.tripEnd (m : Mach) (t : Trip) : Nat := t.spans.foldl (fun a x => a + m.spanTime x) t.start
/-- The first cycle at or after the end of a journey. -/
def Mach.tripDue (m : Mach) (t : Trip) : Nat := ceilDiv (m.tripEnd t) cycleUnits
/-- What is left of a journey at a moment: every network cycle that has begun by then runs at its clock, and the others at the settings
that are in force when they run (R20, R28). -/
def Mach.tripLeft (m : Mach) (now start : Nat) : List Span → Trip
  | [] => { start }
  | x :: r =>
    if start + m.spanTime x ≤ now then m.tripLeft now (start + m.spanTime x) r
    else match x with
      | .units _ => { start, spans := x :: r }
      | .net p n =>
        let k := ceilDiv (now - start) (m.netPeriod p)
        { start := start + k * m.netPeriod p, spans := .net p (n - k) :: r }
/-- Cycles of a front-end count: the command processors run at 1.0 GHz, so 3 hamlet cycles are 2 of theirs (R15). -/
def feCycles (n : Nat) : Nat := ceilDiv (3 * n) 2

/-- An acknowledgement sets out for a unit of a hamlet (R106). -/
def Mach.ackAfter (m : Mach) (ham chan cmd : Nat) (trip : Trip) : Mach :=
  { m with acks := m.acks ++ [{ ham, chan, cmd, trip, due := m.tripDue trip }] }
/-- An acknowledgement reaches a unit in this cycle. -/
def Mach.ackNow (m : Mach) (ham chan cmd : Nat) : Mach := m.ackAfter ham chan cmd { start := m.now * cycleUnits }
/-- Schedule a move for a cycle. -/
def Mach.schedule (m : Mach) (at' : Nat) (i : Event) : Mach := { m with timers := insertBy (·.1) (at', i) m.timers }

end Sys2Proof.Machine
end

