-- ==== Sys2Proof/Machine/Operands.lean ====
section
/-! DEFINITION. The sources of a word beside its form's (R61, R66), the special registers (R257), and what the later words of a group keep
from its issue (R61, R196, R383). -/
namespace Sys2Proof.Machine

/-- The registers that a word reads in lanes other than the reader's: source register, and source lanes (R371). A quad
instruction reads the four lanes of each of its bundle's quads (R370). -/
def crossSources (i : Instr) (x : Warp) (bundle act : Word) : List (Nat × Word) :=
  let quads := maskOf (fun j => (lanesOf bundle).any (fun l => l / 4 = j / 4))
  match i with
  | .shfl _ _ a b _ => [(a.toNat, maskOf (fun j => (lanesOf act).any (fun l => wbits (x.vr b.toNat l) 0 5 = j)))]
  | .vtos _ d a _ => [(a.toNat, laneBit d.toNat)]
  | .qswz _ _ a _ _ | .qbcast _ _ a _ _ | .qdiffx _ _ a _ | .qdiffy _ _ a _ => [(a.toNat, quads)]
  | _ => []

/-- C and W of a word. -/
def hdrOf (w : Word) : Bool × Nat := (wbit w 31, wbits w 28 3)

/-- SYSCALL, EXIT and TRET end their group: C = 1 traps (R62). -/
def endsGroup : Instr → Bool
  | .syscall .. | .exit .. | .tret .. => true
  | _ => false
/-- LDIO's address is a register pair (R357). -/
def extraVa : Instr → List Nat
  | .ldio _ _ a _ _ => [a.toNat + 1]
  | _ => []
/-- The registers that a word reads in its own active lanes. SHFL reads vB there, and vA in other lanes (R371, R380); VTOS and the quad
instructions read vA in other lanes only. -/
def ownSources (i : Instr) : List Nat :=
  match i with
  | .shfl _ _ _ b _ => [b.toNat]
  | .qswz .. | .qbcast .. | .qdiffx .. | .qdiffy .. => []
  | _ => (form i).va ++ extraVa i

/-! ## What a group samples in its issue cycle (R99, R257, R326, R383, R389) -/

/-- LEASEV (R70). -/
def Warp.leasev (x : Warp) : Word :=
  word ((if x.decl then 2 ^ 31 else 0) + x.loss % 256 * 2 ^ 16 + x.lease % 4096)
/-- The value of a special register in this cycle (R257, R383). -/
def Mach.special (m : Mach) (n : Nat) : Word :=
  let x := m.cw
  let b := m.cb
  let l := m.launches.get default b.launch
  match n with
  | 0x00 => word x.idx
  | 0x01 => word b.bx
  | 0x02 => word b.by'
  | 0x03 => word b.bz
  | 0x04 => word b.clusterId
  | 0x05 => word b.rank
  | 0x06 => word m.cur.ham
  | 0x07 => word (l.gx * l.clb)
  | 0x08 => word l.gy
  | 0x09 => word l.gz
  | 0x10 => x.fpmode
  | 0x20 => x.trapcause
  | 0x21 => x.trapd0
  | 0x22 => x.trapd1
  | 0x23 => x.trapd2
  | 0x24 => x.trappc
  | 0x25 => x.trapmask
  | 0x26 => x.tvec
  | 0x30 => word (m.clockAt m.cur.ham m.now)
  | 0x31 => if x.clkRead then x.clk else word (m.clockAt m.cur.ham m.now / 2 ^ 32)
  | 0x40 => b.cwp.get 0 0
  | 0x41 => b.cwp.get 0 1
  | 0x42 => b.cwp.get 0 2
  | 0x43 => b.cwp.get 0 3
  | _ => x.leasev
/-- What the SRD among some words samples: a group has at most one (R64). -/
def Mach.sampleOf (m : Mach) (ws : List (Word × Word)) : Option Word :=
  ws.findSome? (fun e => match instrOf e.2 with | .srd _ _ a => some (m.special a.toNat) | _ => none)
/-- The lowest record slot that is neither FULL nor reserved (R196). -/
def Mach.freeRecord (m : Mach) (h : Nat) : Option Nat :=
  let full := m.reg (hamReg h 0x638)
  ((List.range 5).filter (fun j => !wbit full j && !(m.ham h).scRes.contains j)).head?
/-- The record slot that the SYSCALL among some words reserves (R196). -/
def Mach.recordOf (m : Mach) (ws : List (Word × Word)) : Option Nat :=
  if ws.any (fun e => match instrOf e.2 with | .syscall .. => true | _ => false) then m.freeRecord m.cur.ham else none
/-- Reserve a record slot of the current hamlet. -/
def Mach.reserveRecord (m : Mach) : Option Nat → Mach
  | some j => m.modHam m.cur.ham (fun x => { x with scRes := x.scRes ++ [j] })
  | none => m
/-- Give up the reservation of a SYSCALL that a trap of its group has kept from taking effect (R63). -/
def Mach.unreserve (m : Mach) : Option Nat → Mach
  | some j => if m.cur.trapped then m.modHam m.cur.ham (fun x => { x with scRes := x.scRes.filter (· ≠ j) }) else m
  | none => m
/-- The function and guard of a word that gives the engine a command. -/
def mmOf : Instr → Option (Nat × Nat)
  | .mmop _ _ _ _ z => some (0, z.toNat)
  | .mmsp _ _ _ _ z => some (1, z.toNat)
  | .mmdrain _ _ _ _ z => some (2, z.toNat)
  | _ => none
/-- Entries of the engine's queue (R143 step 6). -/
def Engine.held (e : Engine) : List ECmd := e.q.filter (·.entry)
/-- A new command of the engine takes its place and its entry, and the hamlet's baton is judged (R140, R143, R282). -/
def Mach.mmPlace (m : Mach) (fn hint bar : Nat) (pc w : Word) : ECmd × Mach :=
  let e := (m.ham m.cur.ham).eng
  let (id, m) := m.fresh
  let (did, m) := m.fresh
  let (lid, m) := m.fresh
  let lanes := m.cur.all ||| m.cur.bundle
  let c : ECmd :=
    { id, fn, warp := m.cur.warp, block := m.cw.block, ctx := m.cb.ctx, hint, bar, lanes, pc, word := w, par := [], phase := .awaiting,
      entry := e.held.length < 8, did, misuse := e.baton ≠ some m.cur.warp }
  let y : LayRead :=
    { id := lid, warp := m.cur.warp, block := m.cw.block, slot := none, ecmd := some id, lanes, pc, word := w, bytes := none, due := 0 }
  (c, m.modHam m.cur.ham (fun x => { x with lays := x.lays ++ [y], eng := { x.eng with q := x.eng.q ++ [c] } }))
/-- The command of an MMOP, MMSP or MMDRAIN among words that take effect later, if an active lane runs it: it keeps the place of its issue,
and reads its block when the words take effect (R282, R335). -/
def Mach.mmReserve (m : Mach) (ws : List (Word × Word)) : Option Nat × Mach :=
  match ws.findSome? (fun e => (mmOf (instrOf e.2)).map (fun f => (e, f))) with
  | some ((pc, w), fn, z) =>
    if m.activeAll z = 0 then (none, m)
    else let (c, m) := m.mmPlace fn 0 0 pc w; (some c.id, m)
  | none => (none, m)
/-- The engine command keeps its place while its block is still to be read. -/
def Hamlet.mmUnread (x : Hamlet) (id : Nat) : Bool := x.lays.any (fun y => y.ecmd = some id && y.bytes.isNone)
/-- Give up the place of a command that a trap of its group has kept from taking effect (R63). -/
def Mach.mmGiveUp (m : Mach) : Option Nat → Mach
  | some id =>
    if m.cur.trapped && (m.ham m.cur.ham).mmUnread id then
      m.modHam m.cur.ham (fun x => { x with
        lays := x.lays.filter (fun y => y.ecmd ≠ some id), eng := { x.eng with q := x.eng.q.filter (fun c => c.id ≠ id) } })
    else m
  | none => m
/-- What words of the current warp that take effect later read now. -/
def Mach.snapshot (m : Mach) (ws : List (Word × Word)) : Snap :=
  m.cur.snap.getD
    { v := m.cw.v, s := m.cw.s, k := m.cw.k, fx := m.cw.fx, slots := m.cb.slots, sample := m.sampleOf ws, record := m.recordOf ws }

end Sys2Proof.Machine
end

