-- ==== Sys2Proof/Machine/Flags.lean ====
section
/-! DEFINITION. FPMODE and FX as F-pipe words use them (R121, R124, R125). -/
namespace Sys2Proof.Machine

/-- The rounding mode FPMODE.RM of the group (R121). -/
def Mach.rm (m : Mach) : Rnd := rndOf (wbits m.cur.fpmode 0 3)
/-- The trap enables FPMODE.TE of the group (R121). -/
def Mach.te (m : Mach) : Nat := wbits m.cur.fpmode 8 5
/-- FPMODE.F8: FDOT4 reads E5M2 elements (R121). -/
def Mach.f8 (m : Mach) : Bool := wbit m.cur.fpmode 16
/-- The OR of the flags that lanes raise. -/
def orFlags (mask : Word) (fl : Nat → Nat) : Nat := (lanesOf mask).foldl (fun a l => a ||| fl l) 0
/-- The code of an arithmetic trap: the raised and enabled flag of the lowest code, IV 1 to IX 5 (R125). -/
def arithCode (enabled : Nat) : Nat := 5 - Nat.log2 enabled

/-- R124 and R125: with Q = 0, the bundle traps when an active lane raises an enabled flag, and no lane writes; otherwise the
results are written and the flags OR into FX with the same latency. With Q = 1 only the results are written. -/
def Mach.flagged (m : Mach) (q : BitVec 1) (lat : Nat) (mask : Word) (fl : Nat → Nat) (write : Mach → Mach) : Mach :=
  if q = 1 then write m
  else
    let enabled := orFlags mask fl &&& m.te
    if enabled = 0 then (write m).orFx lat mask (fun l => word (fl l))
    else
      let lanes := maskOf (fun l => wbit mask l && fl l &&& m.te ≠ 0)
      m.trap 2 (arithCode enabled) m.cur.word lanes (word (enabled + orFlags mask fl * 256))

/-- A per-lane word of the F pipe with a 32-bit result. -/
def fpV (d : BitVec 6) (q : BitVec 1) (g lat : Nat) (f : Mach → Nat → Nat × Nat) : Act := fun _ m =>
  let act := m.active g
  m.flagged q lat act (fun l => (f m l).2) (fun m' => m'.writeV lat d.toNat act (fun l => word (f m l).1))
/-- A per-lane word of the F pipe with a 64-bit result. -/
def fpV2 (d : BitVec 6) (q : BitVec 1) (g lat : Nat) (f : Mach → Nat → Nat × Nat) : Act := fun _ m =>
  let act := m.active g
  m.flagged q lat act (fun l => (f m l).2) (fun m' => m'.writeV2 lat d.toNat act (fun l => BitVec.ofNat 64 (f m l).1))
/-- v[r] of a lane as a number. -/
def Mach.vn (m : Mach) (r : BitVec 6) (l : Nat) : Nat := (m.v r.toNat l).toNat
/-- v[r]:v[r+1] of a lane as a number. -/
def Mach.v2n (m : Mach) (r : BitVec 6) (l : Nat) : Nat := (m.v2 r.toNat l).toNat

end Sys2Proof.Machine
end

