-- ==== Sys2Proof/Machine/Lanes.lean ====
section
/-! DEFINITION. Compares, votes, masks, exchanges across lanes, quads, and the MSYNC family (R38 to R45, R267, R268, R329,
R349, R350, R352 to R354, R361, R369 to R374, R380, R388, R393, R396). -/
namespace Sys2Proof.Machine

/-- A mask producer without a guard: each active lane writes its bit of kK, ANDed with the old bit when `n` is 1 (R349,
R350, R393). -/
def maskWord (k : BitVec 4) (n : BitVec 1) (c : Mach → Nat → Bool) : Act := fun _ m =>
  m.writeK 4 k.toNat (m.active 0) (maskOf (fun l => c m l && (n = 0 || wbit (m.k k.toNat) l)))
/-- The conditions of ICMP (R349). -/
def icond (c : Nat) (a b : Word) : Bool :=
  match c with
  | 0 => a == b
  | 1 => a != b
  | 2 => BitVec.slt a b
  | 3 => BitVec.sle a b
  | 4 => BitVec.slt b a
  | 5 => BitVec.sle b a
  | 6 => BitVec.ult a b
  | 7 => BitVec.ule a b
  | 8 => BitVec.ult b a
  | _ => BitVec.ule b a
/-- ICMP (R349). -/
def execIcmp (_ : Hdr) (k f : BitVec 4) (a b : BitVec 6) (n : BitVec 1) (s : State) :=
  lift (maskWord k n (fun m l => icond f.toNat (m.v a.toNat l) (m.v b.toNat l))) s
/-- VOTE.NZ (R393). -/
def execVoteNz (_ : Hdr) (k : BitVec 4) (a : BitVec 6) (n : BitVec 1) (s : State) :=
  lift (maskWord k n (fun m l => m.v a.toNat l != 0)) s
/-- VOTE.Z (R393). -/
def execVoteZ (_ : Hdr) (k : BitVec 4) (a : BitVec 6) (n : BitVec 1) (s : State) :=
  lift (maskWord k n (fun m l => m.v a.toNat l == 0)) s
/-- MATCH (R361): equality with the lowest active lane. -/
def execMatchK (_ : Hdr) (k : BitVec 4) (a : BitVec 6) (s : State) :=
  lift (maskWord k 0 (fun m l => m.v a.toNat l == m.v a.toNat ((lowestLane (m.activeAll 0)).getD 0))) s

/-- A KOP word: all 32 bits of kK, once per issue (R353). -/
def kop (k : BitVec 4) (f : Mach → Word) : Act := fun _ m => m.writeK 4 k.toNat 0xFFFFFFFF (f m)
/-- KAND (R353). -/
def execKand (_ : Hdr) (k : BitVec 4) (a b : BitVec 6) (s : State) := lift (kop k (fun m => m.k a.toNat &&& m.k b.toNat)) s
/-- KOR (R353). -/
def execKor (_ : Hdr) (k : BitVec 4) (a b : BitVec 6) (s : State) := lift (kop k (fun m => m.k a.toNat ||| m.k b.toNat)) s
/-- KXOR (R353). -/
def execKxor (_ : Hdr) (k : BitVec 4) (a b : BitVec 6) (s : State) := lift (kop k (fun m => m.k a.toNat ^^^ m.k b.toNat)) s
/-- KANDN (R353). -/
def execKandn (_ : Hdr) (k : BitVec 4) (a b : BitVec 6) (s : State) :=
  lift (kop k (fun m => m.k a.toNat &&& ~~~m.k b.toNat)) s
/-- KNOT (R353). -/
def execKnot (_ : Hdr) (k : BitVec 4) (a : BitVec 6) (s : State) := lift (kop k (fun m => ~~~m.k a.toNat)) s
/-- KMOV (R353). -/
def execKmov (_ : Hdr) (k : BitVec 4) (a : BitVec 6) (s : State) := lift (kop k (fun m => m.k a.toNat)) s
/-- KTOS (R354). -/
def execKtos (_ : Hdr) (d a : BitVec 8) (s : State) := lift (fun _ m => m.writeS 4 d.toNat (m.k a.toNat)) s
/-- STOK (R388): membership only, for k8 to k11. -/
def execStok (_ : Hdr) (d a : BitVec 8) (s : State) := lift (fun _ m => m.writeK 4 d.toNat 0xFFFFFFFF (m.s a.toNat)) s
/-- KPOP (R354). -/
def execKpop (_ : Hdr) (d a : BitVec 8) (s : State) :=
  lift (fun _ m => m.writeS 4 d.toNat (word (popCount (m.k a.toNat)))) s

/-- SHFL (R380). -/
def execShfl (_ : Hdr) (d a b : BitVec 6) (g : BitVec 3) (s : State) :=
  lift (fun _ m => m.writeV 4 d.toNat (m.active g.toNat) (fun l => m.v a.toNat (wbits (m.v b.toNat l) 0 5))) s

/-- The identity of a combining function (R268). -/
def redIdentity (f : Nat) : Word :=
  match f with
  | 1 => 0x7FFFFFFF
  | 2 => 0x80000000
  | 3 => 0xFFFFFFFF
  | 5 => 0xFFFFFFFF
  | 8 => 0x80000000
  | 9 => 0x7F800000
  | 10 => 0xFF800000
  | _ => 0
/-- The combining functions of REDW and SCANW (R256, R374). -/
def redCombine (f : Nat) (mode : Rnd) (r x : Word) : Word :=
  match f with
  | 0 => r + x
  | 1 => if BitVec.slt x r then x else r
  | 2 => if BitVec.slt r x then x else r
  | 3 => if x < r then x else r
  | 4 => if r < x then x else r
  | 5 => r &&& x
  | 6 => r ||| x
  | 7 => r ^^^ x
  | 8 => word (F32.add mode r.toNat x.toNat).1
  | 9 => word (F32.minmax false r.toNat x.toNat).1
  | _ => word (F32.minmax true r.toNat x.toNat).1
/-- The combination over the lanes that a predicate selects, ascending (R374). -/
def redOver (f : Nat) (a : BitVec 6) (act : Word) (m : Mach) (p : Nat → Bool) : Word :=
  ((lanesOf act).filter p).foldl (fun r j => redCombine f m.rm r (m.v a.toNat j)) (redIdentity f)
/-- REDW (R374). -/
def execRedw (_ : Hdr) (d a : BitVec 6) (f : BitVec 6) (g : BitVec 2) (s : State) :=
  lift (fun _ m =>
    let act := m.active g.toNat
    let r := redOver f.toNat a (m.activeAll g.toNat) m (fun _ => true)
    m.writeV 4 d.toNat act (fun _ => r)) s
/-- SCANW (R374); function bit 4 is `.EXCL`. -/
def execScanw (_ : Hdr) (d a : BitVec 6) (f : BitVec 6) (g : BitVec 2) (s : State) :=
  lift (fun _ m =>
    let act := m.active g.toNat
    m.writeV 4 d.toNat act (fun l => redOver (f.toNat % 16) a (m.activeAll g.toNat) m (fun j => j < l || (j = l && f.toNat < 16)))) s

/-! ## Quads (R38, R39, R369, R370) -/

/-- The value that lane `i` of a quad receives, by function value, from the quad's four source values (R268, R369). -/
def quadValue (f : Nat) (src : Nat → Word) (i : Nat) : Word :=
  if f < 4 then src ((i ^^^ f) % 4)
  else if f < 8 then src (f - 4)
  else if f = 8 then word (F32.sub .rne (src (i / 2 * 2 + 1)).toNat (src (i / 2 * 2)).toNat).1
  else word (F32.sub .rne (src (i % 2 + 2)).toNat (src (i % 2)).toNat).1
/-- The lanes held at the quad instruction at a program counter. -/
def Warp.quadHeld (x : Warp) (pc : Word) : Word :=
  maskOf (fun l => match (x.lane l).quad with | some q => q.pc == pc | none => false)
/-- Complete each quad whose live lanes all stand held at the quad instruction at `pc`: the four lanes are read now, its active lanes receive
their values, and its lanes go on 4 cycles later (R38, R44, R370), unless an earlier word of their group holds them too. -/
def Mach.quadComplete (m : Mach) (pc : Word) : Mach :=
  (List.range 8).foldl (fun m q =>
    let x := m.cw
    let mine := x.quadHeld pc &&& word (0xF * 2 ^ (4 * q))
    let need := x.liveMask &&& word (0xF * 2 ^ (4 * q))
    match ((lowestLane mine).bind (fun l => (x.lane l).quad)) with
    | none => m
    | some y =>
      if need &&& ~~~mine ≠ 0 then m
      else
        let act := maskOf (fun l => wbit mine l && match (x.lane l).quad with | some z => z.act | none => false)
        let m := m.writeV 4 y.d act (fun l => quadValue y.fn (fun i => m.cw.vr y.a (4 * q + i)) (l % 4))
        m.modCw (fun x =>
          (x.modLanes mine (fun z => { z with quad := none })).release (mine &&& x.lanesIn (· == .held .quad)) (m.now + 4))) m
/-- A lane arrives at a quad instruction: it is held there, beside what an earlier word of its group holds it for (R38). -/
def Lane.arrive (y : Lane) (q : QuadWait) : Lane :=
  { y with quad := some q, st := match y.st with | .held h => .held h | _ => .held .quad }
/-- A quad word: the bundle's lanes arrive and are held; quads that are complete execute (R370). Where a quad is not complete, the later words
of a chained group take effect at their issue nevertheless, while the lanes stay held at the quad word; a SYSCALL among them parks lanes that
still count as arrived (DESIGN CHOICE, log 23). -/
def quadWord (f : Nat) (d a : BitVec 6) (g : BitVec 2) : Act := fun _ m =>
  let act := m.active g.toNat
  let arrive : Warp → Warp := fun x =>
    (lanesOf m.cur.bundle).foldl (fun x l => x.modLane l (fun y =>
      y.arrive { pc := m.cur.pc, fn := f, d := d.toNat, a := a.toNat, act := wbit act l })) x
  (m.modCw arrive).quadComplete m.cur.pc
/-- QSWZ (R369). -/
def execQswz (_ : Hdr) (d a : BitVec 6) (m : BitVec 2) (g : BitVec 2) (s : State) := lift (quadWord m.toNat d a g) s
/-- QBCAST (R369). -/
def execQbcast (_ : Hdr) (d a : BitVec 6) (j : BitVec 2) (g : BitVec 2) (s : State) := lift (quadWord (4 + j.toNat) d a g) s
/-- QDIFFX (R369, R370). -/
def execQdiffx (_ : Hdr) (d a : BitVec 6) (g : BitVec 2) (s : State) := lift (quadWord 8 d a g) s
/-- QDIFFY (R369, R370). -/
def execQdiffy (_ : Hdr) (d a : BitVec 6) (g : BitVec 2) (s : State) := lift (quadWord 12 d a g) s
/-- Complete the quads that an exit completes (R38, R39). -/
def Mach.quadExit (m : Mach) : Mach :=
  let x := m.cw
  let pcs := (List.range 32).filterMap (fun l => (x.lane l).quad.map (fun q => q.pc.toNat))
  (dedup pcs).foldl (fun m pc => m.quadComplete (word pc)) m

/-! ## Synchronisation slots (R40 to R45) -/

/-- The membership of a slot with every change already issued by JOIN, LEAVE or KSYNC applied (R44, R352). -/
def Warp.membership (x : Warp) (k : Nat) : Word :=
  (x.pends.filter (fun p => p.sync && p.regs = [k])).foldl
    (fun a p => (a &&& ~~~p.mask) ||| (p.vals.get 0 k &&& p.mask)) (x.kr k)
/-- complete(s) of R42: when every needed lane has arrived, the lanes that have arrived become ready 4 cycles later (R44). -/
def Warp.complete (x : Warp) (now k : Nat) : Warp :=
  let arr := x.arr.get 0 k
  let need := x.membership k &&& x.liveMask
  if arr ≠ 0 ∧ need &&& ~~~arr = 0 then
    let mine := arr &&& maskOf (fun l =>
      ((x.lane l).st == .held .waitk || (x.lane l).st == .held .ksync) && (x.lane l).arg = k)
    { x.release mine (now + 4) with arr := x.arr.set k 0 }
  else x
/-- Write membership bits of a slot: they land 4 cycles after issue, and count for complete() at once (R44). -/
def Mach.writeSync (m : Mach) (k : Nat) (mask x : Word) : Mach :=
  let (id, m) := m.fresh
  m.addPend m.cur.ham m.cur.warp
    { id, file := .k, regs := [k], mask, vals := [(k, x)], issue := m.now,
      land := some (m.landIn 4), var := false, sync := true }
/-- The active lanes arrive at a slot and are held at the successor (R42). -/
def Mach.arriveSlot (m : Mach) (k : Nat) (act : Word) (why : Hold) : Mach :=
  m.modCw (fun x =>
    let x := { x with arr := x.arr.set k (x.arr.get 0 k ||| act) }
    (x.hold act why m.cur.succ k).complete m.now k)

/-- JOIN (R42, R352). -/
def execJoin (_ : Hdr) (k : BitVec 4) (g : BitVec 3) (s : State) :=
  lift (fun _ m => let act := m.active g.toNat; if act = 0 then m else m.writeSync k.toNat act act) s
/-- LEAVE (R42, R352): complete(K) runs even with no active lane. -/
def execLeave (_ : Hdr) (k : BitVec 4) (g : BitVec 3) (s : State) :=
  lift (fun _ m =>
    let act := m.active g.toNat
    let m := if act = 0 then m else m.writeSync k.toNat act 0
    m.modCw (fun x => x.complete m.now k.toNat)) s
/-- WAITK (R42, R396). The mask that TRAPD2 takes on a mismatch is open: a WAITK lane offers none (R177; log 18). -/
def execWaitk (_ : Hdr) (k : BitVec 4) (g : BitVec 3) (s : State) :=
  lift (fun _ m =>
    let act := m.active g.toNat
    if act &&& ~~~m.cw.membership k.toNat ≠ 0 then
      let (d2, m) := m.freeWord
      m.trapWord 5 2 (word k.toNat) d2
    else m.arriveSlot k.toNat act .waitk) s
/-- KSYNC (R42, R352). With no active lane the mask m of R42 is not defined: nothing is written or trapped, and complete(K) runs, as for
LEAVE and WAITK (DESIGN CHOICE, log 23). -/
def execKsync (_ : Hdr) (k : BitVec 4) (a : BitVec 6) (g : BitVec 3) (s : State) :=
  lift (fun _ m =>
    let act := m.active g.toNat
    let offered := m.v a.toNat ((lowestLane act).getD 0)
    let x := m.cw
    let opened := x.arr.get 0 k.toNat ≠ 0
    if act = 0 then m.modCw (fun x => x.complete m.now k.toNat)
    else if (lanesOf act).any (fun l => m.v a.toNat l != offered || !wbit (m.v a.toNat l) l)
        || (opened && offered != x.membership k.toNat) then
      m.trapWord 5 2 (word k.toNat) offered
    else
      let m := if opened then m else m.writeSync k.toNat 0xFFFFFFFF offered
      m.arriveSlot k.toNat act .ksync) s
/-- ELECT (R42, R329): only the bits of bundle lanes are written. -/
def execElect (_ : Hdr) (k : BitVec 4) (g : BitVec 3) (s : State) :=
  lift (fun _ m => m.writeK 4 k.toNat m.cur.bundle
    (match lowestLane (m.activeAll g.toNat) with | some e => laneBit e | none => 0)) s

end Sys2Proof.Machine
end

