-- ==== Sys2Proof/Machine/Control.lean ====
section
/-! DEFINITION. Control flow, EXIT, system calls, traps, special registers, LEASE and YIELD (R43, R70, R121, R178, R183, R184,
R195 to R197, R224, R249, R257, R274, R275, R287, R308 to R312, R314, R332, R360, R375, R383, R384, R389, R391, R392, R394,
R397), and the baton's passing (R140). -/
namespace Sys2Proof.Machine

/-! ## Branches -/

/-- Lanes of `taken` go to their targets, the other bundle lanes to the successor; a taken branch of the head run to a
target at or below its own packet raises the streak counter while another run exists (R37, R274, R312). -/
def Mach.branch (m : Mach) (taken : Word) (target : Nat → Word) (backward : Bool) : Mach :=
  m.modCw (fun x =>
    let x := (lanesOf m.cur.bundle).foldl (fun x l =>
      x.modLane l (fun y => { y with pc := if wbit taken l then target l else m.cur.succ })) x
    if m.cur.head && m.cur.others && backward && taken != 0 then { x with streak := min (x.streak + 1) 127 } else x)
/-- A relative target: packet address + 12 × offset, modulo 2^32 (R253). -/
def Mach.relTarget (m : Mach) (off : Word) : Word := m.packetAddr + 12 * off
/-- A relative branch of the lanes of a mask. -/
def Mach.branchRel (m : Mach) (taken : Word) (off : Word) : Mach :=
  m.branch taken (fun _ => m.relTarget off) (m.relTarget off ≤ m.packetAddr)
/-- BRA (R309): kK is the condition mask, 15 for always. -/
def execBra (_ : Hdr) (k : BitVec 4) (o : BitVec 17) (s : State) :=
  lift (fun _ m => m.branchRel (if k = 15 then m.cur.bundle else m.cur.bundle &&& m.k k.toNat &&& m.k 0) (sextw o)) s
/-- BRAS.Z (R310). -/
def execBrasZ (_ : Hdr) (sr : BitVec 8) (o : BitVec 12) (s : State) :=
  lift (fun _ m => m.branchRel (if m.s sr.toNat = 0 then m.cur.bundle else 0) (sextw o)) s
/-- BRAS.NZ (R310). -/
def execBrasNz (_ : Hdr) (sr : BitVec 8) (o : BitVec 12) (s : State) :=
  lift (fun _ m => m.branchRel (if m.s sr.toNat = 0 then 0 else m.cur.bundle) (sextw o)) s
/-- BRX and RET (R311, R375): a target that is not a multiple of 12 traps the bundle. As every target is a packet address (R249), the multiple is
that of its fetch address; on the 32 bits alone it is the same where ENTRY[47:32] is a multiple of 3 (DEDUCED, log 10). -/
def branchTo (a : BitVec 6) (g : BitVec 3) : Act := fun _ m =>
  let act := m.active g.toNat
  let bad := maskOf (fun l => wbit act l && m.fetchVa m.cur.ham m.cur.warp (m.v a.toNat l) % 12 != 0)
  match lowestLane bad with
  | some l =>
    m.trap 3 3 (m.v a.toNat l) (word (m.codeHi m.cur.ham m.cur.warp + l * 2 ^ 16 + 5 * 2 ^ 21)) bad
  | none => m.branch act (fun l => m.v a.toNat l) ((lanesOf act).all (fun l => m.v a.toNat l ≤ m.packetAddr))
/-- BRX (R311). -/
def execBrx (_ : Hdr) (a : BitVec 6) (g : BitVec 3) (s : State) := lift (branchTo a g) s
/-- RET (R375). -/
def execRet (_ : Hdr) (a : BitVec 6) (g : BitVec 3) (s : State) := lift (branchTo a g) s
/-- CALL (R314). -/
def execCall (_ : Hdr) (d : BitVec 6) (o : BitVec 15) (s : State) :=
  lift (fun _ m =>
    let act := m.active 0
    (m.writeV 4 d.toNat act (fun _ => m.packetAddr + 12)).branchRel act (sextw o)) s

/-! ## The end of lanes and warps -/

/-- Pass the hamlet's baton to the head of its queue, or free it (R140). -/
def Mach.passBaton (m : Mach) (h : Nat) : Mach :=
  let e := (m.ham h).eng
  match e.bq with
  | [] => m.modHam h (fun x => { x with eng := { x.eng with baton := none } })
  | w :: r =>
    let m := m.modHam h (fun x => { x with eng := { x.eng with baton := some w, bq := r } })
    m.modWarp h w (fun x => x.release (x.lanesIn (· == .held .baton)) (m.now + 4))
/-- A warp ends: it leaves the active set, passes its baton, and gives up its place in the baton queue (R43, R57, R140). -/
def Mach.endWarp (m : Mach) (h w : Nat) : Mach :=
  let m := m.modWarp h w (fun x => { x with ended := true, active := false })
  let m := if (m.ham h).eng.baton = some w then m.passBaton h else m
  m.modHam h (fun x => { x with eng := { x.eng with bq := x.eng.bq.filter (· ≠ w) } })
/-- The lanes of a mask exit: cleared in k0, in the saved live mask and in k8 to k11, in the registers and in memberships still
to land; then complete(s) runs for k8 to k11 (R43, R184). -/
def Warp.exitLanes (x : Warp) (now : Nat) (mask : Word) : Warp :=
  let x := x.modLanes mask (fun y => { y with st := .exited, quad := none })
  let clear (k : SMap Word) (r : Nat) : SMap Word := k.set r (k.get 0 r &&& ~~~mask)
  let f : Pend → Pend := fun p => if p.sync then { p with vals := p.vals.map (fun e => (e.1, e.2 &&& ~~~mask)) } else p
  let x := { x with k := [0, 8, 9, 10, 11].foldl clear x.k, saved := x.saved &&& ~~~mask, pends := x.pends.map f }
  [8, 9, 10, 11].foldl (fun x k => x.complete now k) x
/-- EXIT (R43, R184, R332): quads that the exit completes execute (R38); in handler mode the last handler lane's exit is the
release of R183; the warp ends when no live lane remains. Handler lanes that are held at a TRET stay held when every other handler lane exits:
the exit leaves the handler only where no handler lane remains (DESIGN CHOICE, log 23). -/
def execExit (_ : Hdr) (g : BitVec 3) (s : State) :=
  lift (fun _ m =>
    let act := m.active g.toNat
    let m := (m.modCw (fun x => x.exitLanes m.now act)).quadExit
    let m := if m.cw.hmode && m.cw.kr 0 == 0 then m.modCw (fun x => x.leaveHandler m.now none (m.stopOn m.cur.ham m.cur.warp)) else m
    if !m.cw.hmode && m.cw.kr 0 == 0 then m.endWarp m.cur.ham m.cur.warp else m) s

/-! ## System calls -/

/-- The 200 words of a SYSCALL record (R196). -/
def Mach.scRecord (m : Mach) (n : BitVec 9) (a : BitVec 6) (lanes : Word) : List Word :=
  let c := m.warpCtx m.cur.ham m.cur.warp
  [word (n.toNat + m.cur.warp * 2 ^ 16 + c * 2 ^ 22), lanes, m.cur.pc, word a.toNat, word (m.ham m.cur.ham).scSeq, 0, 0, 0] ++
  (List.range 32).flatMap (fun l => (List.range 6).map (fun i => if wbit lanes l then m.v (a.toNat + i) l else 0))
/-- SYSCALL (R46, R196, R389): every bundle lane is parked at the next word, and the record lands 60 cycles after the issue. A group that
takes effect later has reserved its slot at issue. -/
def execSyscall (_ : Hdr) (n : BitVec 9) (a : BitVec 6) (s : State) :=
  lift (fun _ m =>
    let mine := (m.cur.snap.map (·.record)).getD none
    match mine.orElse (fun _ => m.freeRecord m.cur.ham) with
    | none => m.notIssued
    | some j =>
      let lanes := m.active 0
      let r := m.scRecord n a lanes
      let m := if mine.isSome then m else m.reserveRecord (some j)
      let m := m.modHam m.cur.ham (fun x =>
        { x with scWait := x.scWait ++ [(j, m.issueCycle + 60, r)], scSeq := (x.scSeq + 1) % 2 ^ 32 })
      m.modCw (fun x => (x.modLanes lanes (fun y => { y with pc := m.cur.succ })).park lanes .syscall)) s

/-! ## Traps and the return from the handler -/

/-- TRAP (R391). -/
def execTrap (_ : Hdr) (i : BitVec 8) (g : BitVec 3) (s : State) :=
  lift (fun _ m => if m.active g.toNat = 0 then m else m.trapWord 8 i.toNat) s
/-- BKPT (R308). -/
def execBkpt (_ : Hdr) (g : BitVec 3) (s : State) :=
  lift (fun _ m => if m.active g.toNat = 0 then m else m.trapWord 7 1) s
/-- TRET (R183, R392): the bundle is held; when every handler lane not exited is held at a TRET, the handler is left. -/
def execTret (_ : Hdr) (s : State) :=
  lift (fun _ m =>
    if !m.cw.hmode then m.trapWord 1 8
    else
      m.modCw (fun x =>
        let x := x.hold m.cur.bundle .tret m.cur.pc
        if x.kr 0 &&& ~~~x.lanesIn (· == .held .tret) = 0 then x.leaveHandler m.now (some x.trappc) (m.stopOn m.cur.ham m.cur.warp) else x)) s

/-! ## Special registers (R257) -/

/-- SRD (R383): a variable-latency result, sampled in the issue cycle, that lands 4 cycles after it; CLOCKLO latches the upper half. -/
def execSrd (_ : Hdr) (d a : BitVec 8) (s : State) :=
  lift (fun _ m =>
    let v := ((m.cur.snap.map (·.sample)).getD none).getD (m.special a.toNat)
    let clock := m.clockAt m.cur.ham (if m.cur.snap.isSome then m.cur.issued else m.now)
    let m := if a = 0x30 then m.modCw (fun x => { x with clk := word (clock / 2 ^ 32), clkRead := true }) else m
    (m.varPend .s [d.toNat] 0 [(d.toNat, v)] (some (m.landIn 4))).2) s
/-- SWR (R384): FPMODE rejects RM of 5 to 7, TVEC a value that is not a multiple of 12; TRAPPC keeps bits [31:2]. -/
def execSwr (_ : Hdr) (d a : BitVec 8) (s : State) :=
  lift (fun _ m =>
    let v := m.s a.toNat
    if d = 0x10 then
      if wbits v 0 3 ≥ 5 then m.trapWord 1 2 else m.modCw (fun x => { x with fpmode := v &&& 0x00011F07 })
    else if d = 0x24 then m.modCw (fun x => { x with trappc := v &&& 0xFFFFFFFC })
    else if d = 0x26 then
      if v.toNat % 12 ≠ 0 then m.trapWord 1 2 else m.modCw (fun x => { x with tvec := v })
    else m.trapWord 1 2) s
/-- VRD (R287, R394): in each active lane the named register is read once every earlier write to it has landed, and the result
lands 4 cycles later. -/
def execVrd (_ : Hdr) (d a : BitVec 6) (g : BitVec 3) (s : State) :=
  lift (fun _ m =>
    if !m.cw.hmode then m.trapWord 1 8
    else
      let act := m.active g.toNat
      if act = 0 then m
      else
        let names := (lanesOf act).map (fun l => (l, wbits (m.v a.toNat l) 0 6))
        let (id, m) := m.varPend .v [d.toNat] act [] none
        m.modCw (fun x =>
          { x with pends := updateFirst (fun p => p.id = id) (fun p => x.captureOne (m.landIn 4) { p with named := names, role := .vrd }) x.pends })) s
/-- VWR (R275, R394): vB is read at issue and lands 4 cycles after the later of the issue and the landing of every earlier
write to the named register; until then every vector register of its lanes awaits it. -/
def execVwr (_ : Hdr) (a b : BitVec 6) (g : BitVec 3) (s : State) :=
  lift (fun _ m =>
    if !m.cw.hmode then m.trapWord 1 8
    else
      let act := m.active g.toNat
      if act = 0 then m
      else
        let names := (lanesOf act).map (fun l => (l, wbits (m.v a.toNat l) 0 6))
        let vals := (lanesOf act).map (fun l => (32 * wbits (m.v a.toNat l) 0 6 + l, m.v b.toNat l))
        let (id, m) := m.varPend .v (List.range 64) act vals none
        m.modCw (fun x =>
          { x with pends := updateFirst (fun p => p.id = id) (fun p => x.captureOne (m.landIn 4) { p with named := names, role := .vwr }) x.pends })) s

/-! ## LEASE and YIELD -/

/-- LEASE (R53, R360): 0 returns to the measured mode at 16 lines; the victim tags are kept. -/
def execLease (_ : Hdr) (i : BitVec 13) (s : State) :=
  lift (fun _ m => m.modCw (fun x =>
    { x with lease := if i = 0 then 16 else i.toNat, decl := i ≠ 0, loss := 0, filter := 0, actCycles := 0 })) s
/-- YIELD (R397): the warp is passed over for 64 cycles from its issue, or until another warp of its context in the quarter issues, which one
may have done already where the YIELD's group takes effect later. -/
def execYield (_ : Hdr) (s : State) :=
  lift (fun _ m => m.modCw (fun x =>
    if x.lastOther > m.cur.issued then x else { x with yieldUntil := some (m.cur.issued + 64) })) s

/-! ## VRD and VWR landings -/

/-- The lanes of a VRD or VWR whose cycle has come land, and a later VRD or VWR that waits for them goes on (R287, R394). -/
def specialLand (role : PRole) (h w id : Nat) : Act := fun _ m =>
  m.modWarp h w (fun x =>
    match x.pends.find? (fun p => p.id = id && p.role == role) with
    | some p => (x.landEarly p m.now).capture m.now
    | none => x)
/-- VRD_LANDING (R287). -/
def execVrdLanding (ham warp pend : Nat) (s : State) := lift (specialLand .vrd ham warp pend) s
/-- VWR_LANDING (R275, R394). -/
def execVwrLanding (ham warp pend : Nat) (s : State) := lift (specialLand .vwr ham warp pend) s

end Sys2Proof.Machine
end

