-- ==== Sys2Proof/Machine/Crypto.lean ====
section
/-! DEFINITION. The hash, the signatures and the check code that R225 and R241 name: SHA-384 and SHA-256 (FIPS 180-4), ECDSA on P-384
(FIPS 186-5), LMS with LM-OTS (RFC 8554) and CRC-64/ECMA-182, as their standards define them (PRESUMED, log 17). -/
namespace Sys2Proof.Machine

/-! ## SHA-2 -/

/-- A number in `n` bytes, most significant first. -/
def beBytes (n x : Nat) : List Byte := (leBytes n x).reverse
/-- The number of some bytes, most significant first. -/
def beNat (b : List Byte) : Nat := leNat b.reverse
/-- The round constants of SHA-384; SHA-256 takes the first 64, their upper halves. -/
def shaK : List Nat :=
  [0x428A2F98D728AE22, 0x7137449123EF65CD, 0xB5C0FBCFEC4D3B2F, 0xE9B5DBA58189DBBC, 0x3956C25BF348B538] ++
  [0x59F111F1B605D019, 0x923F82A4AF194F9B, 0xAB1C5ED5DA6D8118, 0xD807AA98A3030242, 0x12835B0145706FBE] ++
  [0x243185BE4EE4B28C, 0x550C7DC3D5FFB4E2, 0x72BE5D74F27B896F, 0x80DEB1FE3B1696B1, 0x9BDC06A725C71235] ++
  [0xC19BF174CF692694, 0xE49B69C19EF14AD2, 0xEFBE4786384F25E3, 0xFC19DC68B8CD5B5, 0x240CA1CC77AC9C65] ++
  [0x2DE92C6F592B0275, 0x4A7484AA6EA6E483, 0x5CB0A9DCBD41FBD4, 0x76F988DA831153B5, 0x983E5152EE66DFAB] ++
  [0xA831C66D2DB43210, 0xB00327C898FB213F, 0xBF597FC7BEEF0EE4, 0xC6E00BF33DA88FC2, 0xD5A79147930AA725] ++
  [0x6CA6351E003826F, 0x142929670A0E6E70, 0x27B70A8546D22FFC, 0x2E1B21385C26C926, 0x4D2C6DFC5AC42AED] ++
  [0x53380D139D95B3DF, 0x650A73548BAF63DE, 0x766A0ABB3C77B2A8, 0x81C2C92E47EDAEE6, 0x92722C851482353B] ++
  [0xA2BFE8A14CF10364, 0xA81A664BBC423001, 0xC24B8B70D0F89791, 0xC76C51A30654BE30, 0xD192E819D6EF5218] ++
  [0xD69906245565A910, 0xF40E35855771202A, 0x106AA07032BBD1B8, 0x19A4C116B8D2D0C8, 0x1E376C085141AB53] ++
  [0x2748774CDF8EEB99, 0x34B0BCB5E19B48A8, 0x391C0CB3C5C95A63, 0x4ED8AA4AE3418ACB, 0x5B9CCA4F7763E373] ++
  [0x682E6FF3D6B2B8A3, 0x748F82EE5DEFB2FC, 0x78A5636F43172F60, 0x84C87814A1F0AB72, 0x8CC702081A6439EC] ++
  [0x90BEFFFA23631E28, 0xA4506CEBDE82BDE9, 0xBEF9A3F7B2C67915, 0xC67178F2E372532B, 0xCA273ECEEA26619C] ++
  [0xD186B8C721C0C207, 0xEADA7DD6CDE0EB1E, 0xF57D4F7FEE6ED178, 0x6F067AA72176FBA, 0xA637DC5A2C898A6] ++
  [0x113F9804BEF90DAE, 0x1B710B35131C471B, 0x28DB77F523047D84, 0x32CAAB7B40C72493, 0x3C9EBE0A15C9BEBC] ++
  [0x431D67C49C100D4C, 0x4CC5D4BECB3E42B6, 0x597F299CFC657E2A, 0x5FCB6FAB3AD6FAEC, 0x6C44198C4A475817]
/-- What tells the two hashes apart, beside their word's width: bytes of a word, rounds, the distances of the four bit functions, the last of
the two that work on the message being a shift. -/
structure ShaForm where
  bytes : Nat
  rounds : Nat
  big0 : Nat × Nat × Nat
  big1 : Nat × Nat × Nat
  small0 : Nat × Nat × Nat
  small1 : Nat × Nat × Nat
/-- A word with itself, turned by three distances. -/
def shaBig {w : Nat} (d : Nat × Nat × Nat) (x : BitVec w) : BitVec w := x.rotateRight d.1 ^^^ x.rotateRight d.2.1 ^^^ x.rotateRight d.2.2
/-- A word with itself, turned by two distances and shifted by the third. -/
def shaSmall {w : Nat} (d : Nat × Nat × Nat) (x : BitVec w) : BitVec w := x.rotateRight d.1 ^^^ x.rotateRight d.2.1 ^^^ (x >>> d.2.2)
/-- The words of the message schedule: those of the block and `k` more. -/
def shaSchedule {w : Nat} (F : ShaForm) (block : List (BitVec w)) (k : Nat) : List (BitVec w) :=
  ((List.range k).foldl (fun (l : List (BitVec w)) _ =>
    let at' (i : Nat) : BitVec w := l.getD (i - 1) 0
    (shaSmall F.small1 (at' 2) + at' 7 + shaSmall F.small0 (at' 15) + at' 16) :: l) block.reverse).reverse
/-- One round, on the eight working words. -/
def shaRound {w : Nat} (F : ShaForm) (st : List (BitVec w)) (kw : BitVec w × BitVec w) : List (BitVec w) :=
  match st with
  | [a, b, c, d, e, f, g, h] =>
    let t1 := h + shaBig F.big1 e + ((e &&& f) ^^^ (~~~e &&& g)) + kw.1 + kw.2
    let t2 := shaBig F.big0 a + ((a &&& b) ^^^ (a &&& c) ^^^ (b &&& c))
    [t1 + t2, a, b, c, d + t1, e, f, g]
  | _ => st
/-- The message with its padding: a one bit, zeros, and its length in bits. -/
def shaPad (F : ShaForm) (b : List Byte) : List Byte :=
  let tail := 2 * F.bytes
  let zeros := (16 * F.bytes - (b.length + 1 + tail) % (16 * F.bytes)) % (16 * F.bytes)
  b ++ [0x80] ++ List.replicate zeros 0 ++ beBytes tail (8 * b.length)
/-- The working words after every block. -/
def shaWords {w : Nat} (F : ShaForm) (ks h0 : List (BitVec w)) (msg : List Byte) : List (BitVec w) :=
  let b := shaPad F msg
  (List.range (b.length / (16 * F.bytes))).foldl (fun h i =>
    let block := (List.range 16).map (fun j => BitVec.ofNat w (beNat ((b.drop (F.bytes * (16 * i + j))).take F.bytes)))
    List.zipWith (· + ·) h ((ks.zip (shaSchedule F block (F.rounds - 16))).foldl (shaRound F) h)) h0
/-- SHA-384. -/
def sha384 (msg : List Byte) : List Byte :=
  let F : ShaForm :=
    { bytes := 8, rounds := 80, big0 := (28, 34, 39), big1 := (14, 18, 41), small0 := (1, 8, 7), small1 := (19, 61, 6) }
  let h0 : List (BitVec 64) :=
    [0xCBBB9D5DC1059ED8, 0x629A292A367CD507, 0x9159015A3070DD17, 0x152FECD8F70E5939,
     0x67332667FFC00B31, 0x8EB44A8768581511, 0xDB0C2E0D64F98FA7, 0x47B5481DBEFA4FA4]
  ((shaWords F (shaK.map (BitVec.ofNat 64)) h0 msg).take 6).flatMap (fun x => beBytes 8 x.toNat)
/-- SHA-256. -/
def sha256 (msg : List Byte) : List Byte :=
  let F : ShaForm :=
    { bytes := 4, rounds := 64, big0 := (2, 13, 22), big1 := (6, 11, 25), small0 := (7, 18, 3), small1 := (17, 19, 10) }
  let h0 : List (BitVec 32) :=
    [0x6A09E667, 0xBB67AE85, 0x3C6EF372, 0xA54FF53A,
     0x510E527F, 0x9B05688C, 0x1F83D9AB, 0x5BE0CD19]
  (shaWords F ((shaK.take 64).map (fun k => BitVec.ofNat 32 (k / 2 ^ 32))) h0 msg).flatMap (fun x => beBytes 4 x.toNat)

/-! ## ECDSA on P-384 -/

/-- A power modulo `m`; `k` bounds the bits of the exponent. -/
def powMod (m x : Nat) : Nat → Nat → Nat
  | 0, _ => 1 % m
  | k + 1, e => let r := powMod m (x * x % m) k (e / 2); if e % 2 = 1 then r * x % m else r
/-- The prime of the field. -/
def p384 : Nat := 2 ^ 384 - 2 ^ 128 - 2 ^ 96 + 2 ^ 32 - 1
/-- The order of the base point. -/
def n384 : Nat := 0xffffffffffffffffffffffffffffffffffffffffffffffffc7634d81f4372ddf581a0db248b0a77aecec196accc52973
/-- The coefficient b of the curve y² = x³ - 3 x + b. -/
def b384 : Nat := 0xb3312fa7e23ee7e4988e056be3f82d19181d9c6efe8141120314088f5013875ac656398d8a2ed19d2a85c8edd3ec2aef
/-- The base point. -/
def g384 : Nat × Nat :=
  (0xaa87ca22be8b05378eb1c71ef320ad746e1d3b628ba79b9859f741e082542a385502f25dbf55296c3a545e3872760ab7,
   0x3617de4a96262c6f5d9e98bf9292dc29f8f41dbd289a147ce9da3113b5f0b8c00a60b1ce1d7e819d7a431d7c90ea0e5f)
/-- An inverse modulo a prime of 384 bits. -/
def inv384 (m x : Nat) : Nat := powMod m x 384 (m - 2)
/-- The sum of two points; none is the point at infinity. -/
def ecAdd (P Q : Option (Nat × Nat)) : Option (Nat × Nat) :=
  match P, Q with
  | none, Q => Q
  | P, none => P
  | some (x1, y1), some (x2, y2) =>
    let p := p384
    if x1 = x2 ∧ (y1 + y2) % p = 0 then none
    else
      let l := if x1 = x2 then (3 * x1 * x1 + p - 3) * inv384 p (2 * y1 % p) % p
        else (y2 + p - y1) * inv384 p ((x2 + p - x1) % p) % p
      let x := (l * l + 2 * p - x1 - x2) % p
      some (x, (l * (x1 + p - x) + p - y1) % p)
/-- A multiple of a point; `k` bounds the bits of the factor. -/
def ecMul (P : Option (Nat × Nat)) : Nat → Nat → Option (Nat × Nat)
  | 0, _ => none
  | k + 1, n => let R := ecMul (ecAdd P P) k (n / 2); if n % 2 = 1 then ecAdd R P else R
/-- A point lies on the curve. -/
def ecOn (P : Nat × Nat) : Bool :=
  P.1 < p384 && P.2 < p384 && (P.2 * P.2) % p384 = (P.1 * P.1 * P.1 + (p384 - 3) * P.1 + b384) % p384
/-- An ECDSA P-384 signature, r then s, of a message under a key, x then y, with SHA-384. -/
def ecdsaVerify (key msg sig : List Byte) : Bool :=
  let Q := (beNat (key.take 48), beNat ((key.drop 48).take 48))
  let r := beNat (sig.take 48)
  let s := beNat ((sig.drop 48).take 48)
  let n := n384
  let w := inv384 n s
  let u1 := beNat (sha384 msg) * w % n
  let u2 := r * w % n
  1 ≤ r && r < n && 1 ≤ s && s < n && ecOn Q &&
  match ecAdd (ecMul (some g384) 384 u1) (ecMul (some Q) 384 u2) with
  | some P => P.1 % n = r
  | none => false

/-! ## LMS -/

/-- The type codes LMS_SHA256_M32_H10 and LMOTS_SHA256_N32_W8. -/
def lmsType : Nat := 6
/-- The type code of the one-time signature. -/
def lmotsType : Nat := 4
/-- A chain of a one-time signature, from step `a` to step 255, `k` steps of which are left. -/
def lmsChain (pre : List Byte) (a : Nat) : Nat → List Byte → List Byte
  | 0, x => x
  | k + 1, x => lmsChain pre (a + 1) k (sha256 (pre ++ beBytes 1 a ++ x))
/-- The root that a leaf's path leads to: node `r`, its value, and the values beside the path. -/
def lmsRoot (id : List Byte) : Nat → List Byte → List (List Byte) → List Byte
  | _, x, [] => x
  | r, x, y :: path =>
    lmsRoot id (r / 2) (sha256 (id ++ beBytes 4 (r / 2) ++ beBytes 2 0x8383 ++ (if r % 2 = 1 then y ++ x else x ++ y))) path
/-- An LMS signature of 1,452 bytes of a message under a key of 56, both of the types of R225. -/
def lmsVerify (key msg sig : List Byte) : Bool :=
  let be4 (b : List Byte) (o : Nat) : Nat := beNat ((b.drop o).take 4)
  let id := (key.drop 8).take 16
  let q := be4 sig 0
  let at' (i : Nat) : List Byte := (sig.drop (40 + 32 * i)).take 32
  let d := sha256 (id ++ beBytes 4 q ++ beBytes 2 0x8181 ++ (sig.drop 8).take 32 ++ msg)
  let sum := (d.map (fun x => 255 - x.toNat)).foldl (· + ·) 0
  let ends := (List.range 34).flatMap (fun i =>
    let a := ((d ++ beBytes 2 sum).getD i 0).toNat
    lmsChain (id ++ beBytes 4 q ++ beBytes 2 i) a (255 - a) (at' i))
  let leaf := sha256 (id ++ beBytes 4 q ++ beBytes 2 0x8080 ++ ends)
  let path := (List.range 10).map (fun i => (sig.drop (1132 + 32 * i)).take 32)
  be4 key 0 = lmsType && be4 key 4 = lmotsType && key.length = 56 && sig.length = 1452 && q < 2 ^ 10 && be4 sig 4 = lmotsType &&
  be4 sig 1128 = lmsType &&
  lmsRoot id (2 ^ 10 + q) (sha256 (id ++ beBytes 4 (2 ^ 10 + q) ++ beBytes 2 0x8282 ++ leaf)) path == key.drop 24

/-! ## CRC-64/ECMA-182 -/

/-- The remainder after some more bits, the first of them first. -/
def crcBits : List Bool → Nat → Nat
  | [], c => c
  | b :: r, c => if c.testBit 63 == b then crcBits r (2 * c % 2 ^ 64) else crcBits r ((2 * c % 2 ^ 64) ^^^ 0x42F0E1EBA9EA3693)
/-- CRC-64/ECMA-182 of some bytes, most significant byte first: no reflection, from 0. -/
def crc64 (b : List Byte) : List Byte :=
  beBytes 8 (crcBits (b.flatMap (fun x => (List.range 8).map (fun i => x.getLsbD (7 - i)))) 0)

end Sys2Proof.Machine
end

