-- ==== Sys2Proof/Machine/Caches.lean ====
section
/-! DEFINITION. The second-level slices and last-level caches (R91 to R93), the check bits of every array (R96, R194) and of
the stacks (R235), the physical map (R240), and accesses of one line of main memory through its home slice. The bytes of
main memory stand for the last-level cache and the stack together: every access to a stack passes its last-level cache. -/
namespace Sys2Proof.Machine

/-! ## Words that fail their check (R96, R194) -/

/-- Some aligned 8-byte word of [a, a + n) fails its check. -/
def Mach.bad (m : Mach) (a n : Nat) : Bool := m.poison.any (fun w => 8 * w < a + n && a < 8 * w + 8)
/-- A store of [a, a + n) would meet a word that fails its check and that it does not cover (R194). -/
def Mach.badStore (m : Mach) (a n : Nat) : Bool :=
  m.poison.any (fun w => 8 * w < a + n && a < 8 * w + 8 && !(a ≤ 8 * w && 8 * w + 8 ≤ a + n))
/-- A read of [a, a + n) corrects every word of it that has a single-bit error, and counts it (R96). Where the count is kept, R96 does not
say: one number for the package, which no register shows (DESIGN CHOICE, log 23). -/
def Mach.seen (m : Mach) (a n : Nat) : Mach :=
  { m with corrected := m.corrected + (m.flips.filter (fun w => 8 * w < a + n && a < 8 * w + 8)).length }
/-- A core that leaves reset: it enters the monitor in M mode, with its number in a0 (R228; log 7). -/
def Cpu.released (c : Nat) (entry : Dword) (due : Nat) : Cpu := { pc := entry, start := entry, x := [(10, BitVec.ofNat 64 c)], due }
/-- A control core after a write of [a, a + n), which ends a reservation that it meets (R221). -/
def Cpu.written (x : Cpu) (a n : Nat) : Cpu :=
  match x.resv with
  | some r => if a / 8 ≤ r && 8 * r < a + n then { x with resv := none } else x
  | none => x
/-- Store bytes; aligned 8-byte words that they cover take new check bits (R194). A narrower store reads its word, which is corrected
and counted, and writes it back (R96). -/
def Mach.store (m : Mach) (a : Nat) (b : List Byte) : Mach :=
  let whole (w : Nat) : Bool := a ≤ 8 * w && 8 * w + 8 ≤ a + b.length
  let part (w : Nat) : Bool := 8 * w < a + b.length && a < 8 * w + 8 && !whole w
  { m.stN a b with
    poison := m.poison.filter (fun w => !whole w)
    flips := m.flips.filter (fun w => !(whole w || part w))
    corrected := m.corrected + (m.flips.filter part).length
    cpus := m.cpus.map (fun e => (e.1, e.2.written a b.length)) }
/-- Copy a line of `n` bytes; a word that fails its check fails again at the destination (R194). -/
def Mach.copyLine (mem : Memory) (m : Mach) (src dst n : Nat) : Mach :=
  let moved := (m.poison.filter (fun w => src ≤ 8 * w && 8 * w < src + n)).map (fun w => w - src / 8 + dst / 8)
  let m := (m.seen src n).store dst (m.rdN mem src n)
  { m with poison := m.poison ++ moved }

/-! ## The physical map (R240) -/

/-- What a physical address reaches. -/
inductive Target where
  | main (pkg : Nat) | nvme (off : Nat) | commons (part die off : Nat) | register | fault
  deriving DecidableEq, Repr
/-- The partition of an agent that belongs to none: the command-processor cores, the steward, the NVMe module, the Ethernet ports and
the host link (R240). -/
def noPart : Nat := 64
/-- R240, for an agent of partition `q`; an agent of none reaches partition 0 through the own-partition view. -/
def Mach.target (m : Mach) (q pa : Nat) : Target :=
  if pa ≥ 2 ^ 48 then .fault
  else if pa < 2 ^ 47 then (if pa / 2 ^ 46 % 2 = 1 then .fault else .main (pa / 2 ^ 40))
  else if pa < 0x800000004000 then .nvme (pa - 0x800000000000)
  else if 0x810000000000 ≤ pa ∧ pa < 0x810000000000 + 4 * 0x8000000 then
    let o := pa - 0x810000000000
    let q := if q = noPart then 0 else q
    if o % 0x8000000 < m.commonsSize q (o / 0x8000000) then .commons q (o / 0x8000000) (o % 0x8000000) else .fault
  else if 0x818000000000 ≤ pa ∧ pa < 0x818000000000 + 40 * 0x20000000 then
    let o := pa - 0x818000000000
    let d := o % 0x20000000 / 0x8000000
    if o % 0x8000000 < m.commonsSize (o / 0x20000000) d then .commons (o / 0x20000000) d (o % 0x8000000) else .fault
  else if inRegApertures pa then .register
  else .fault
/-- The own package's number (R241). -/
def Mach.ownPkg (m : Mach) : Nat := m.regField (lnkReg 0) 0 6
/-- The port by which traffic to package `d` leaves, if any is up (R241). -/
def Mach.portTo (m : Mach) (d : Nat) : Option Nat :=
  let v := m.reg (lnkReg (0x100 + 4 * d))
  let up (p : Nat) : Bool := (m.ports.get {} p).up
  if !wbit v 31 then none
  else if up (wbits v 0 5) then some (wbits v 0 5)
  else if wbit v 15 && up (wbits v 8 5) then some (wbits v 8 5)
  else none

/-! ## Directories (R91 to R93) -/

/-- R93: the way that a fill takes in a set, and the line that it evicts. Lines are given most recently used first; of one
rank, streaming lines go first (R92). -/
def victimWay (ways : Nat) (isOver : Nat → Bool) (ls : List CLine) : Option (Nat × Option CLine) :=
  match (List.range ways).filter (fun w => !ls.any (fun c => c.way = w)) with
  | w :: _ => some (w, none)
  | [] =>
    let old := ls.reverse
    let pick (l : List CLine) : Option CLine := ((l.filter (fun c => c.hint = 1)).head?).orElse (fun _ => l.head?)
    let c := (pick (old.filter (fun c => c.hint ≠ 2 && isOver c.occ))).orElse (fun _ =>
      (pick (old.filter (fun c => c.hint ≠ 2))).orElse (fun _ => old.head?))
    c.map (fun c => (c.way, some c))
/-- R92: the hint that a line takes: sticky becomes default in a set where half the ways already hold sticky lines. -/
def hintFor (ways hint : Nat) (ls : List CLine) : Nat :=
  if hint = 2 ∧ 2 * ((ls.filter (fun c => c.hint = 2)).length + 1) > ways then 0 else hint
/-- R92: a line's place on insertion: streaming lines least recently used, and those that an AMO brings in with hint 3 (R292); others most
recently used. -/
def insertLine (c : CLine) (ls : List CLine) : List CLine := if c.hint = 1 ∨ c.hint = 3 then ls ++ [c] else c :: ls
/-- A hit by an access with a hint: the line becomes most recently used and records it; a bypass leaves it in place, and as it is unless
an AMO records its hint in it (R92, R292). -/
def hitLine (ways hint : Nat) (amo : Bool) (c : CLine) (ls : List CLine) : List CLine :=
  if hint = 3 then (if amo then ls.map (fun x => if x = c then { c with hint := 3 } else x) else ls)
  else
    let rest := ls.filter (fun x => !(x.set = c.set && x.way = c.way))
    { c with hint := hintFor ways hint (rest.filter (fun x => x.set = c.set)) } :: rest
/-- The lines of a class over its soft limit in a block whose registers start at `base` (R93, R94). -/
def Mach.overLimit (m : Mach) (base : Nat) (ls : List CLine) (occ : Nat) : Bool :=
  (ls.filter (fun c => c.occ = occ)).length > m.regField (base + 0x100 + 8 * occ) 0 24

/-! ## The last-level cache and the stack (R91, R235) -/

/-- The stack of a physical address (R234). -/
def stackOf (pa : Nat) : Nat := pa / 256 % 16
/-- The pseudo-channel of a physical address (R234). -/
def pseudoOf (pa : Nat) : Nat :=
  let o := pa % 2 ^ 40 / 4096 * 256 + pa % 256
  bits o 8 6 ^^^ bits o 14 6
/-- Multiplication in GF(2^8) with the polynomial x^8 + x^4 + x^3 + x^2 + 1 (R235), over the low bits of `b`. -/
def gfMul (a b : Nat) : Nat → Nat
  | 0 => 0
  | k + 1 => (if b % 2 = 1 then a else 0) ^^^ gfMul (if a ≥ 128 then (2 * a) ^^^ 0x11D else 2 * a) (b / 2) k
/-- A power of α, which is 2 (R235). -/
def gfExp : Nat → Nat
  | 0 => 1
  | k + 1 => gfMul (gfExp k) 2 8
/-- Symbols with their values make a codeword of RS(80,64): all sixteen syndromes are 0 (R235). -/
def codeword (w : List (Nat × Byte)) : Bool :=
  (List.range 16).all (fun i => w.foldl (fun a e => a ^^^ gfMul (gfExp (i * e.1 % 255)) e.2.toNat 8) 0 = 0)
/-- The sum of two patterns of symbols. -/
def addSymbols (a b : List (Nat × Byte)) : List (Nat × Byte) :=
  (List.range 80).filterMap (fun j =>
    let v := (a ++ b).foldl (fun (x : Byte) e => if e.1 = j then x ^^^ e.2 else x) 0
    if v = 0 then none else some (j, v))
/-- R235: a pattern of erroneous symbols is within the distance that the decoder corrects. -/
def Mach.burstOk (m : Mach) (pa : Nat) (syms : List Nat) : Bool :=
  let b := m.reg (hbmReg (stackOf pa) (0x100 + 4 * pseudoOf pa))
  syms.length ≤ 8 || (wbit b 4 && (syms.filter (fun j => j / 8 ≠ wbits b 0 4)).length ≤ 4)
/-- Words of bursts no longer fail their check for what a read of the stack has found: they have been written, or the pattern has been
corrected since, a group having been marked in BADGRP (R194, R235). -/
def Mach.unspoil (m : Mach) (p : Nat → Bool) : Mach := { m with spoiled := m.spoiled.filter (fun w => !p (w / 8)) }
/-- Read a burst from its stack (R235): a corrected codeword is counted; an uncorrectable one is counted and its words fail their check, until
a later read finds the pattern correctable; a pattern within correction distance of another codeword may be returned miscorrected, as that codeword (log 9): its data then stand in place
of the right ones, and what the stack holds is their distance to it. -/
def Mach.burst (mem : Memory) (m : Mach) (pa : Nat) : Mach :=
  let st := stackOf pa
  let a := pa / 64 * 64
  let corrected (m : Mach) : Mach :=
    let m : Mach := { m with poison := m.poison.filter (fun w => !(w / 8 = pa / 64 && m.spoiled.contains w)) }
    (m.unspoil (· = pa / 64)).setReg (hbmReg st 8) (m.reg (hbmReg st 8) + 1)
  match m.eccErr.get? (pa / 64) with
  | none | some [] => m
  | some syms =>
    let near := Config.nearCodeword syms
    let rest := addSymbols syms near
    if m.burstOk pa (syms.map (·.1)) then corrected m
    else if near ≠ [] && codeword near && m.burstOk pa (rest.map (·.1)) then
      let b := m.rdN mem a 64
      let b := near.foldl (fun (b : List Byte) e => if e.1 < 64 then b.set e.1 (b.getD e.1 0 ^^^ e.2) else b) b
      corrected { m.stN a b with eccErr := m.eccErr.set (pa / 64) rest }
    else
      let m := m.setReg (hbmReg st 0xC) (m.reg (hbmReg st 0xC) + 1)
      let fresh := ((List.range 8).map (fun i => pa / 64 * 8 + i)).filter (fun w => !m.poison.contains w)
      { m with poison := m.poison ++ fresh, spoiled := m.spoiled ++ fresh }
/-- The ways of a last-level cache and the set of a line in it: 512 MiB of 128-byte lines in each stack (R2), in a number of ways and
under an index that no rule gives (log 9). -/
def llcWays : Nat := 2 ^ (Config.llcWays % 23)
/-- The set of a physical address in its last-level cache. -/
def llcSetOf (pa : Nat) : Nat := Config.llcSet (pa / 128) % (2 ^ 22 / llcWays)
/-- A line of main memory passes its last-level cache (R91 to R93): a miss reads both half-lines from the stack unless the
line is written whole. -/
def Mach.llcTouch (mem : Memory) (m : Mach) (pa hint occ : Nat) (whole : Bool) (amo : Bool := false) : Mach :=
  let st := stackOf pa
  let ls := m.llc.get [] st
  let set := llcSetOf pa
  match ls.find? (fun c => c.tag = pa / 128) with
  | some c => { m with llc := m.llc.set st (hitLine llcWays hint amo c ls) }
  | none =>
    let m := if whole then m else (m.burst mem (pa / 128 * 128)).burst mem (pa / 128 * 128 + 64)
    if hint = 3 && !amo then m
    else
      let inSet := ls.filter (fun c => c.set = set)
      match victimWay llcWays (m.overLimit (llcReg st 0) ls) inSet with
      | none => m
      | some (w, v) =>
        let ls := match v with | some v => ls.filter (fun c => !(c.set = v.set && c.way = v.way)) | none => ls
        let c : CLine := { set, way := w, tag := pa / 128, hint := hintFor llcWays hint inSet, occ }
        { m with llc := m.llc.set st (insertLine c ls) }
/-- Bytes written to the stack renew the codewords that they touch (R235). -/
def Mach.stackStore (mem : Memory) (m : Mach) (pa : Nat) (b : List Byte) : Mach :=
  let hit := (m.eccErr.filter (fun e => 64 * e.1 < pa + b.length && pa < 64 * e.1 + 64))
  let m := hit.foldl (fun m e => if 64 * e.1 < pa || pa + b.length < 64 * e.1 + 64 then m.burst mem (64 * e.1) else m) m
  let m := { m with eccErr := m.eccErr.filter (fun e => !hit.any (fun x => x.1 = e.1)) }
  (m.unspoil (fun b => hit.any (fun x => x.1 = b))).store pa b
/-- R237: an access to a stack in self-refresh waits. The requests that its last-level cache had accepted and that hit complete: an access is
accepted and done in one cycle here, so none that comes after the signal is one of these. -/
def Mach.stackHeld (m : Mach) (pa : Nat) : Bool := m.refresh.contains (stackOf pa)
/-- The line waits in the controller queue of its stack, behind which an access of this agent stands (R237, R238). -/
def Mach.queuedLine (m : Mach) (pa : Nat) : Bool :=
  match m.hotQueue.find? (fun e => e.line = pa / 128) with
  | none => false
  | some e => !(e.back.isNone && e.agent = m.agent && e.released)
/-- What goes to the stack of an address itself waits there (R237): a SYS AMO does, wherever the line stands (R292). -/
def Mach.stackWaits (m : Mach) (pa : Nat) : Bool := pa / 2 ^ 40 = m.ownPkg && (m.stackHeld pa || m.queuedLine pa)
/-- The replay buffer of the port to a package is full (R241). -/
def Mach.linkFull (m : Mach) (pkg : Nat) : Bool :=
  match m.portTo pkg with
  | some p => (m.ports.get {} p).replay.length ≥ 256
  | none => false
/-- An access that its stack holds back takes its place in the controller queue (R237); a read of another package asks for its line (R241). -/
def Mach.hotWait (m : Mach) (pa : Nat) : Mach :=
  if m.stackWaits pa && !m.hotQueue.any (fun e => e.line = pa / 128 && e.agent = m.agent && e.back.isNone) then
    { m with hotQueue := m.hotQueue ++ [{ line := pa / 128, agent := m.agent }] }
  else if pa < 2 ^ 46 ∧ pa / 2 ^ 40 ≠ m.ownPkg ∧ !m.linkFull (pa / 2 ^ 40) ∧ !m.remote.any (fun r => r.agent = m.agent && r.line = pa / 128) then
    { m with remote := m.remote ++ [{ agent := m.agent, line := pa / 128 }] }
  else m
/-- The controller queues after a cycle (R238): once the freeze is over, each lets its next request go. -/
def Mach.drainHot (mem : Memory) (m : Mach) : Mach :=
  let m := { m with hotQueue := m.hotQueue.filter (fun e => !e.released) }
  if m.hotQueue = [] then m
  else (List.range 16).foldl (fun m st =>
    if m.refresh.contains st then m
    else
      let mine (e : HotWait) : Bool := stackOf (128 * e.line) = st && !e.released
      match m.hotQueue.find? mine with
      | none => m
      | some e => match e.back with
        | some (hint, occ) => { m with hotQueue := dropFirst mine m.hotQueue }.llcTouch mem (128 * e.line) hint occ true
        | none => { m with hotQueue := updateFirst mine (fun e => { e with released := true }) m.hotQueue }) m

/-! ## Slices (R91 to R93) -/

/-- A slice. -/
def Mach.slice (m : Mach) (s : Nat) : Slice := m.slices.get {} s
/-- Replace a slice. -/
def Mach.setSlice (m : Mach) (s : Nat) (x : Slice) : Mach := { m with slices := m.slices.set s x }
/-- Caching ways of a slice (R91). -/
def Mach.cacheWays (m : Mach) (s : Nat) : Nat := 12 - m.carveOf s
/-- The set of a physical address in a slice (R91). -/
def setOf (pa : Nat) : Nat := bits pa 8 11 ^^^ bits pa 19 11
/-- The line of a physical address in a slice. -/
def Mach.sliceLine (m : Mach) (s pa : Nat) : Option CLine := (m.slice s).lines.find? (fun c => c.tag = pa / 128)
/-- Write a dirty line of a slice back (R91, R93); its stack may hold it in its queue (R237). -/
def Mach.writeBack (mem : Memory) (m : Mach) (s : Nat) (c : CLine) : Mach :=
  if c.dirty then
    let pa := 128 * c.tag
    let m := if m.stackHeld pa then { m with hotQueue := m.hotQueue ++ [{ line := c.tag, agent := 0, back := some (c.hint, c.occ) }] }
      else m.llcTouch mem pa c.hint c.occ true
    let m := { m with eccErr := m.eccErr.filter (fun e => e.1 / 2 ≠ c.tag) }.unspoil (fun b => b / 2 = c.tag)
    m.copyLine mem (keyL2 s c.set c.way) pa 128
  else m
/-- Bring a line into a slice, or find it there (R91 to R93): where its bytes stand, none under a bypass miss. `whole`: the
access writes the whole line, so nothing is read. -/
def Mach.sliceBring (mem : Memory) (m : Mach) (s pa hint occ : Nat) (whole : Bool) (amo : Bool := false) : Option Nat × Mach :=
  let sl := m.slice s
  match m.sliceLine s pa with
  | some c => (some (keyL2 s c.set c.way), m.setSlice s { sl with lines := hitLine (m.cacheWays s) hint amo c sl.lines })
  | none =>
    let inSet := sl.lines.filter (fun c => c.set = setOf pa)
    match if hint = 3 && !amo then none else victimWay (m.cacheWays s) (m.overLimit (slcReg s 0) sl.lines) inSet with
    | none => (none, m)
    | some (w, v) =>
      let (rest, m) : List CLine × Mach := match v with
        | some v => (sl.lines.filter (fun c => !(c.set = v.set && c.way = v.way)), m.writeBack mem s v)
        | none => (sl.lines, m)
      let m := if whole then m else
        (m.llcTouch mem pa hint occ false amo).copyLine mem (pa / 128 * 128) (keyL2 s (setOf pa) w) 128
      let c : CLine := { set := setOf pa, way := w, tag := pa / 128, hint := hintFor (m.cacheWays s) hint inSet, occ }
      (some (keyL2 s (setOf pa) w), m.setSlice s { sl with lines := insertLine c rest })
/-- Where the line of a physical address stands for a partition: in its home slice if that holds it, else in main memory. -/
def Mach.standsAt (m : Mach) (q pa : Nat) : Nat :=
  match if pa / 2 ^ 40 = m.ownPkg && m.slicesOf q ≠ [] then m.sliceLine (m.homeSlice q pa) pa else none with
  | some c => keyL2 (m.homeSlice q pa) c.set c.way
  | none => pa / 128 * 128
/-- Mark a slice's line dirty. -/
def Mach.sliceDirty (m : Mach) (s pa : Nat) : Mach :=
  let sl := m.slice s
  m.setSlice s { sl with lines := sl.lines.map (fun c => if c.tag = pa / 128 then { c with dirty := true } else c) }

/-! ## Main memory -/

/-- Main memory of the own package has a home slice in the accessing partition; another package's memory has none here. -/
def Mach.homed (m : Mach) (q pa : Nat) : Bool := pa / 2 ^ 40 = m.ownPkg && m.slicesOf q ≠ []
/-- An access by an agent of no partition finds the line in the last-level cache: every slice writes back its copy and drops it first
(R157; log 20). -/
def Mach.recall (mem : Memory) (m : Mach) (pa : Nat) : Mach :=
  let at' := m.slices.filterMap (fun e => (e.2.lines.find? (fun c => c.tag = pa / 128)).map (fun c => (e.1, c)))
  at'.foldl (fun m e =>
    let m := m.writeBack mem e.1 e.2
    m.setSlice e.1 { m.slice e.1 with lines := (m.slice e.1).lines.filter (fun x => x.tag ≠ pa / 128) }) m
/-- The bytes of a flit (R241). -/
def flitBytes (seq vc : Nat) (payload : List Byte) : List Byte :=
  let b := leBytes 8 (seq + 4096 * vc) ++ (payload ++ leBytes 240 0).take 240
  b ++ crc64 b
/-- A flit for a package leaves on a port, and stays in its replay buffer until it is acknowledged (R241). -/
def Mach.sendOn (m : Mach) (p pkg vc : Nat) (payload : List Byte) : Mach :=
  let x := m.ports.get {} p
  let flit := flitBytes x.txSeq vc payload
  { m with ports := m.ports.set p { x with
    txSeq := (x.txSeq + 1) % 4096, replay := x.replay ++ [(pkg, flit)], sent := x.sent ++ [flit] } }
/-- A flit leaves for a package (R241). -/
def Mach.sendFlit (m : Mach) (pkg vc : Nat) (payload : List Byte) : Mach :=
  match m.portTo pkg with
  | some p => m.sendOn p pkg vc payload
  | none => m
/-- The line of another package that the acting agent reads has come (R241). -/
def Mach.remoteHere (m : Mach) (pa : Nat) : Bool := m.remote.any (fun r => r.agent = m.agent && r.line = pa / 128 && r.come)
/-- The acting agent takes a line that has come. -/
def Mach.remoteUse (m : Mach) (pa : Nat) : Mach :=
  let mine (r : RemoteRead) : Bool := r.agent = m.agent && r.line = pa / 128 && r.come
  if m.remote.any mine then { m with remote := m.remote.map (fun r => if mine r then { r with used := true } else r) } else m
/-- The links after a cycle (R241): lines that have been taken are forgotten, and the requests that wait leave, on ports that have room. -/
def Mach.askRemote (m : Mach) : Mach :=
  let m := { m with remote := m.remote.filter (fun r => !r.used) }
  m.remote.foldl (fun m r =>
    let pkg := r.line * 128 / 2 ^ 40
    if r.asked ∨ (m.portTo pkg).isNone ∨ m.linkFull pkg then m
    else
      let m := m.sendFlit pkg 0 (Config.flitOf false (128 * r.line) (leBytes 128 0))
      { m with remote := updateFirst (fun x => x.agent = r.agent && x.line = r.line) (fun x => { x with asked := true }) m.remote }) m
/-- Read `n` bytes of one line at its home (R91, R157), or of another package, once its response has come (R241): the bytes, and whether one
of their words fails its check. -/
def Mach.memRead (mem : Memory) (m : Mach) (q pa n hint occ : Nat) : List Byte × Bool × Mach :=
  if m.homed q pa then
    match m.sliceBring mem (m.homeSlice q pa) pa hint occ false with
    | (some k, m) => (m.rdN mem (k + pa % 128) n, m.bad (k + pa % 128) n, m.seen (k + pa % 128) n)
    | (none, m) => let m := (m.llcTouch mem pa 3 occ false).seen pa n; (m.rdN mem pa n, m.bad pa n, m)
  else if pa / 2 ^ 40 = m.ownPkg then
    let m := ((m.recall mem pa).llcTouch mem pa hint occ false).seen pa n
    (m.rdN mem pa n, m.bad pa n, m)
  else (m.rdN mem pa n, m.bad pa n, m.remoteUse pa)
/-- The shadow log of the steward takes a write that meets the shadowed fields of a queue's QCB: the offset of the first such byte, and the
bytes written there as one value (R202; log 20); a reservation of a control core there ends (R221). -/
def Mach.noteShadow (m : Mach) (pa : Nat) (b : List Byte) : Mach :=
  let m : Mach := { m with cpus := m.cpus.map (fun e => (e.1, e.2.written pa b.length)) }
  m.queues.foldl (fun m e =>
    match e.2.qcbPa with
    | none => m
    | some p =>
      let lo := max pa (p + 0x20)
      let hi := min (pa + b.length) (p + 0x34)
      if lo < hi then { m with shadowLog := m.shadowLog ++ [(e.1, lo - p, leNat ((b.drop (lo - pa)).take (hi - lo)))] } else m) m
/-- Write bytes of one line at its home (R91, R157); false, and nothing written, when a narrower store meets a word that
fails its check (R194). -/
def Mach.homeWrite (mem : Memory) (m : Mach) (q pa : Nat) (b : List Byte) (hint occ : Nat) : Bool × Mach :=
  if m.homed q pa then
    let s := m.homeSlice q pa
    match m.sliceBring mem s pa hint occ (b.length = 128) with
    | (some k, m) =>
      if m.badStore (k + pa % 128) b.length then (false, m) else (true, (m.store (k + pa % 128) b).sliceDirty s pa)
    | (none, m) =>
      let m := m.llcTouch mem pa 3 occ true
      if m.badStore pa b.length then (false, m) else (true, m.stackStore mem pa b)
  else
    let m := if pa / 2 ^ 40 = m.ownPkg then (m.recall mem pa).llcTouch mem pa hint occ true
      else m.sendFlit (pa / 2 ^ 40) 0 (Config.flitOf true pa b)
    if m.badStore pa b.length then (false, m) else (true, m.stackStore mem pa b)
/-- A write of bytes of one line of main memory (R91, R157, R202). -/
def Mach.memWrite (mem : Memory) (m : Mach) (q pa : Nat) (b : List Byte) (hint occ : Nat) : Bool × Mach :=
  let (ok, m) := m.homeWrite mem q pa b hint occ
  (ok, if ok then m.noteShadow pa b else m)
/-- Read `n` bytes from any address, line by line; `k` bounds the lines. -/
def Mach.memReadN (mem : Memory) (m : Mach) (q pa n hint occ : Nat) : Nat → List Byte × Bool × Mach
  | 0 => ([], false, m)
  | k + 1 =>
    if n = 0 then ([], false, m)
    else
      let j := min n (128 - pa % 128)
      let (b, e, m) := m.memRead mem q pa j hint occ
      let (b', e', m) := m.memReadN mem q (pa + j) (n - j) hint occ k
      (b ++ b', e || e', m)
/-- Write bytes at any address, line by line; `k` bounds the lines. -/
def Mach.memWriteN (mem : Memory) (m : Mach) (q pa : Nat) (b : List Byte) (hint occ : Nat) : Nat → Bool × Mach
  | 0 => (true, m)
  | k + 1 =>
    if b = [] then (true, m)
    else
      let j := min b.length (128 - pa % 128)
      let (ok, m) := m.memWrite mem q pa (b.take j) hint occ
      let (ok', m) := m.memWriteN mem q (pa + j) (b.drop j) hint occ k
      (ok && ok', m)
/-- An access to main memory at this address waits: for a HOT stack (R237, R238), when it is not in its home slice; for a SYS AMO that holds its line at that slice (R292). -/
def Mach.heldAt (m : Mach) (q pa : Nat) : Bool :=
  pa / 2 ^ 40 = m.ownPkg &&
  ((m.stackWaits pa && !(m.homed q pa && (m.sliceLine (m.homeSlice q pa) pa).isSome)) ||
   m.resv.any (fun r => r.2.2 = pa / 128 && (if m.homed q pa then r.2.1 = 1 + m.homeSlice q pa else 1 ≤ r.2.1)))

/-! ## Commons at its home (R85) -/

/-- Where a die Commons offset's byte stands. -/
def Mach.commonsKey (m : Mach) (q d x : Nat) : Nat := let (s, b) := m.commonsAt q d x; keyCommons s b
/-- Read `n` bytes of Commons at their homes, 8 bytes or fewer at a time. -/
def Mach.commonsRead (mem : Memory) (m : Mach) (q d x n : Nat) : List Byte × Bool :=
  let r := (List.range (ceilDiv n 256 + 1)).foldl (fun (acc : List Byte × Bool × Nat) _ =>
    let x' := acc.2.2
    let j := min (x + n - x') (256 - x' % 256)
    if j = 0 then acc
    else (acc.1 ++ m.rdN mem (m.commonsKey q d x') j, acc.2.1 || m.bad (m.commonsKey q d x') j, x' + j)) ([], false, x)
  (r.1, r.2.1)
/-- Write bytes of one 256-byte Commons granule at its home; false when a narrower store meets a word that fails its check. -/
def Mach.commonsWrite (m : Mach) (q d x : Nat) (b : List Byte) : Bool × Mach :=
  let k := m.commonsKey q d x
  if m.badStore k b.length then (false, m) else (true, m.store k b)

/-! ## The occupancy registers (R94) -/

/-- The count of a class that a slice or a last-level cache holds (OCCCNTn). -/
def Mach.occCount (m : Mach) (p : RegPlace) (n : Nat) : Nat :=
  match p with
  | .slc s _ => ((m.slice s).lines.filter (fun c => c.occ = n)).length
  | .llc k _ => ((m.llc.get [] k).filter (fun c => c.occ = n)).length
  | _ => 0

end Sys2Proof.Machine
end

