-- ==== Sys2Proof/Machine/Translate.lean ====
section
/-! DEFINITION. Sv48 translation: the translation buffer, the walk and its checks (R191, R192), SFENCE.VMA (R193), and the
fetch fault (R186, R249). -/
namespace Sys2Proof.Machine

/-- A cause as one number: group * 256 + code (R176). -/
abbrev Cause := Nat
/-- 0x03 code 0x01: no valid mapping (R75). -/
def noMapping : Cause := 0x301
/-- 0x03 code 0x02: permission denied (R75). -/
def denied : Cause := 0x302
/-- 0x09 code 0x01: uncorrectable data (R194). -/
def badData : Cause := 0x901

/-- The outcome of a look-up in the translation buffer. -/
inductive Xlat where
  | hit (pa : Nat) | fault (c : Cause) | miss
  deriving DecidableEq, Repr
/-- The outcome of a walk, before the access is checked: a leaf, a fault, or a wait for a HOT stack. -/
inductive Leaf where
  | leaf (flags ppn pages : Nat) (aligned : Bool) | fault (c : Cause) | held (pa : Nat)
  deriving DecidableEq, Repr

/-- Rows 5 and 6 of R191: the check of a leaf's low eight bits (V, R, W, X, U, G, A, D) for an access. -/
def leafCheck (flags : Nat) (aligned : Bool) (a : Access) : Option Cause :=
  let r := flags.testBit 1
  let w := flags.testBit 2
  let allowed := match a with | .load => r | .store => w | .fetch => flags.testBit 3 | .amo => r && w
  let writes := match a with | .store | .amo => true | _ => false
  if !flags.testBit 4 || !allowed then some denied
  else if !aligned || !flags.testBit 6 || (writes && !flags.testBit 7) then some noMapping
  else none

/-- HAM.SATPLOc and HAM.SATPHIc of a context slot: MODE, ASID and root PPN (R191). -/
def Mach.satp (m : Mach) (h c : Nat) : Nat × Nat × Nat :=
  let lo := m.reg (hamReg h (0x610 + 8 * c))
  let hi := m.reg (hamReg h (0x614 + 8 * c))
  (wbits hi 28 4, wbits hi 12 16, wbits hi 0 12 * 2 ^ 32 + lo.toNat)
/-- The partition of a hamlet (R22, R23); a hamlet of no partition hosts nothing. -/
def Mach.partHam (m : Mach) (h : Nat) : Nat := (m.partOf (hamParish h)).getD 0

/-- A walk from a table of level `lvl - 1` (R191): rows 1 to 4 of its table, entry by entry. -/
def Mach.walkFrom (mem : Memory) (q vpn : Nat) : Nat → Nat → Mach → Leaf × Mach
  | 0, _, m => (.fault noMapping, m)
  | lvl + 1, ppn, m =>
    let pa := ppn * 4096 + 8 * bits vpn (9 * lvl) 9
    if pa ≥ 2 ^ 46 ∨ pa / 2 ^ 40 ≠ m.ownPkg then (.fault denied, m)
    else if m.heldAt q pa then (.held pa, m)
    else
      let (b, e, m) := m.memRead mem q pa 8 0 0
      let x := leNat b
      let f := bits x 0 8
      let n := x.testBit 63
      let ppn' := bits x 10 44
      if e then (.fault badData, m)
      else if !x.testBit 0 || bits x 54 9 ≠ 0 then (.fault noMapping, m)
      else if !x.testBit 1 && !x.testBit 2 && !x.testBit 3 then
        if lvl = 0 || n || x.testBit 6 || x.testBit 7 || x.testBit 4 then (.fault noMapping, m)
        else walkFrom mem q vpn lvl ppn' m
      else if n then
        if lvl = 0 ∧ ppn' % 16 = 8 then (.leaf f (ppn' / 16 * 16) 4 true, m) else (.fault noMapping, m)
      else (.leaf f ppn' (9 * lvl) (ppn' % 2 ^ (9 * lvl) = 0), m)

/-- The entry of the translation buffer that maps a page for an address space (R192). -/
def Mach.tlbFind (m : Mach) (h asid vpn : Nat) : Option TlbEntry :=
  (m.ham h).tlb.find? (fun e => (e.glob || e.asid = asid) && vpn / 2 ^ e.pages = e.vpn / 2 ^ e.pages)
/-- Translate a 48-bit virtual address for an access of a context slot (R191, R192). -/
def Mach.translate (m : Mach) (h c va : Nat) (a : Access) : Xlat :=
  let (mode, asid, _) := m.satp h c
  let vpn := va % 2 ^ 48 / 4096
  if mode ≠ 9 then .fault noMapping
  else match m.tlbFind h asid vpn with
    | none => .miss
    | some e =>
      match leafCheck e.flags true a with
      | some c => .fault c
      | none => .hit ((e.ppn / 2 ^ e.pages * 2 ^ e.pages + vpn % 2 ^ e.pages) * 4096 + va % 4096)
/-- The walk in flight that a miss attaches to (R192). -/
def Walk.isFor (x : Walk) (asid va : Nat) : Bool := x.asid = asid && x.vpn = va % 2 ^ 48 / 4096
/-- A miss need not wait: there is a walk that it attaches to, or room for another (R192). -/
def Mach.walkRoom (m : Mach) (h c va : Nat) : Bool :=
  (m.ham h).walks.any (fun x => x.isFor (m.satp h c).2.1 va) || (m.ham h).walks.length < 64
/-- A miss attaches to the walk in flight for its page, or starts one; false when 64 walks are in flight (R192). The time of a
walk is open (log 11). -/
def Mach.startWalk (m : Mach) (h c va : Nat) (w : Waiter) (a : Access) : Bool × Mach :=
  let (_, asid, _) := m.satp h c
  let vpn := va % 2 ^ 48 / 4096
  let walks := (m.ham h).walks
  if walks.any (fun x => x.isFor asid va) then
    let f : Walk → Walk := fun x => if x.waiters.contains (w, a) then x else { x with waiters := x.waiters ++ [(w, a)] }
    (true, m.modHam h (fun y => { y with walks := updateFirst (fun x => x.isFor asid va) f y.walks }))
  else if walks.length ≥ 64 then (false, m)
  else
    let (id, m) := m.fresh
    let (due, m) := m.someTime (m.now + 1)
    let x : Walk := { id, ctx := c, asid, vpn, due, waiters := [(w, a)] }
    (true, m.modHam h (fun y => { y with walks := y.walks ++ [x] }))

/-- What a walk's end tells one of its waiters: a retry, or the cause of its fault (R192). -/
def Mach.tellWaiter (m : Mach) (h : Nat) (w : Waiter) (c : Option Cause) : Mach :=
  match w with
  | .fetch warp lanes va =>
    match c with
    | none => m
    | some c =>
      (m.modWarp h warp (fun x => { x with fetchBad := some (lanes, va) })).schedule m.now (.fetchFault h warp c)
  | .log warp entry part =>
    let f : LogEntry → LogEntry := fun e =>
      { e with walking := e.walking &&& ~~~laneBit part, found := match c with | some c => e.found.set part c | none => e.found }
    m.modWarp h warp (fun x => { x with log := updateFirst (fun e => e.id = entry) f x.log })
  | .chan ch cmd va =>
    let f : Cmd → Cmd := fun x => { x with walking := false, found := match c with | some c => some (c, va, false) | none => x.found }
    m.modHam h (fun y => { y with chans := y.chans.set ch (updateFirst (fun x => x.id = cmd) f (y.chans.get [] ch)) })
/-- The buffer holds 4,096 entries; a new one takes the place of the oldest (R192; log 11). -/
def tlbInsert (e : TlbEntry) (l : List TlbEntry) : List TlbEntry :=
  let l := l.filter (fun x => !(x.asid = e.asid && x.vpn / 2 ^ e.pages = e.vpn / 2 ^ e.pages))
  (if l.length ≥ 4096 then l.drop 1 else l) ++ [e]
/-- PAGE_WALK_COMPLETE (R191, R192): the translation is kept when some access that waits for it passes its checks. -/
def pageWalk (h id : Nat) : Act := fun mem m =>
  match (m.ham h).walks.find? (fun x => x.id = id) with
  | none => m
  | some x =>
    let (mode, _, root) := m.satp h x.ctx
    let (r, m) := if mode ≠ 9 then (Leaf.fault noMapping, m) else m.walkFrom mem (m.partHam h) x.vpn 4 root
    match r with
    | .held pa =>
      (m.hotWait pa).modHam h (fun y => { y with walks := updateFirst (fun w => w.id = id) (fun w => { w with due := m.now + 1 }) y.walks })
    | .fault c =>
      let m := m.modHam h (fun y => { y with walks := y.walks.filter (fun w => w.id ≠ id) })
      x.waiters.foldl (fun m w => m.tellWaiter h w.1 (some c)) m
    | .leaf flags ppn pages aligned =>
      let m := m.modHam h (fun y => { y with walks := y.walks.filter (fun w => w.id ≠ id) })
      let ok := x.waiters.any (fun w => leafCheck flags aligned w.2 == none)
      let e : TlbEntry := { asid := x.asid, vpn := x.vpn, ppn, pages, glob := flags.testBit 5, flags }
      let m := if ok then m.modHam h (fun y => { y with tlb := tlbInsert e y.tlb }) else m
      x.waiters.foldl (fun m w => m.tellWaiter h w.1 (leafCheck flags aligned w.2)) m
/-- PAGE_WALK_COMPLETE. -/
def execPageWalkComplete (ham walk : Nat) (s : State) := lift (pageWalk ham walk) s

/-- SFENCE.VMA by a hamlet's Reeve (R193): the matching entries of its buffer go, by RISC-V's rules for a named address and a named
address space, and walks in flight restart. -/
def Mach.sfence (m : Mach) (ham : Nat) (va asid : Option Nat) : Mach :=
  let hit (e : TlbEntry) : Bool :=
    (match va with | some v => v % 2 ^ 48 / 4096 / 2 ^ e.pages = e.vpn / 2 ^ e.pages | none => true) &&
    (match asid with | some a => !e.glob && e.asid = a | none => true)
  let (due, m) := m.someTime (m.now + 1)
  m.modHam ham (fun y =>
    { y with tlb := y.tlb.filter (fun e => !hit e), walks := y.walks.map (fun w => { w with due }) })
/-- SFENCE_VMA (R193). -/
def execSfenceVma (ham : Nat) (va asid : Option Nat) (s : State) := lift (fun _ m => m.sfence ham va asid) s

/-- FETCH_FAULT (R186, R188, R249): the lanes whose fetch has faulted are parked and reported with source 1. -/
def execFetchFault (ham warp code : Nat) (s : State) :=
  lift (fun _ m =>
    let x := m.warp ham warp
    match x.fetchBad with
    | none => m
    | some (lanes, va) =>
      let mask := lanes &&& x.readyMask
      let m := m.setWarp ham warp ({ x with fetchBad := none }.park mask .fetch)
      if mask = 0 then m
      else m.fqPush ham m.now
        { w0 := fqWord0 (code / 256) code warp (m.warpCtx ham warp) 1 false, w1 := mask, w2 := word va,
          w3 := word (va / 2 ^ 32 % 2 ^ 16), rep := .fetch warp mask }) s

end Sys2Proof.Machine
end

