-- ==== Sys2Proof/Machine/FirstLevel.lean ====
section
/-! DEFINITION. The first level of a hamlet (R81, R82), line touches and victim tags (R54, R55), the store path and requests
to home slices with their times (R28, R158, R159), and peer prediction (R88). -/
namespace Sys2Proof.Machine

/-! ## Lines -/

/-- Where a first-level line's bytes stand (R76, R81). -/
def L1Line.key (h : Nat) (x : L1Line) : Nat := keyArray h (x.gran * 8192 + x.tag % 64 * 128)
/-- The kind of a Commons line in a hamlet: 1 own die, 2 another die (R71). -/
def commonsKind (h die : Nat) : Nat := if die = hamDie h then 1 else 2
/-- The line of the first level that holds a tag (R54, R81): a spill line is one context's, and at one physical address (R83). -/
def Mach.l1Find (m : Mach) (h kind die tag ctx : Nat) (pa : Nat := 0) : Option L1Line :=
  (m.ham h).l1.find? (fun x => x.kind = kind && x.die = die && x.tag = tag && x.ctx = ctx && x.pa = pa)
/-- The Commons line that holds a die Commons offset. -/
def Mach.l1Commons (m : Mach) (h die x : Nat) : Option L1Line := m.l1Find h (commonsKind h die) die (x / 128) 0
/-- The granules of the first level, ascending (R76). -/
def Mach.l1Grans (m : Mach) (h : Nat) : List Nat :=
  (List.range 39).filter (fun g => g ≥ 32 || ((m.ham h).pairs.get? (g / 2)).isNone)
/-- Make a line most recently used. -/
def Mach.l1Use (m : Mach) (h : Nat) (x : L1Line) : Mach :=
  m.modHam h (fun y => { y with l1 := x :: y.l1.filter (fun z => z ≠ x) })
/-- The occupancy class of a context slot (R51, R93). -/
def Mach.occOf (m : Mach) (h c : Nat) : Nat := (m.ctx h c).occ
/-- A line leaves the first level: a dirty spill line is written back to its home (R81), where its words that fail their check fail
again (R194). -/
def Mach.l1Drop (mem : Memory) (m : Mach) (h : Nat) (x : L1Line) : Mach :=
  let m := m.modHam h (fun y => { y with l1 := y.l1.filter (fun z => z ≠ x) })
  if x.dirty then
    let k := x.key h
    let q := m.partHam h
    let fail := (m.poison.filter (fun w => k ≤ 8 * w && 8 * w < k + 128)).map (fun w => w - k / 8)
    let m := ((m.seen k 128).memWrite mem q x.pa (m.rdN mem k 128) x.hint x.occ).2
    { m with poison := m.poison ++ fail.map (fun w => m.standsAt q x.pa / 8 + w) }
  else m

/-! ## Leases: touches, victim tags (R54, R55) -/

/-- The name of a line in a victim tag. -/
def lineName (kind die tag : Nat) : Nat := (4 * kind + die) * 2 ^ 50 + tag
/-- Touch the filter of a warp for an access at an address of the first level's tags (R54). -/
def Warp.touch (x : Warp) (a : Nat) : Warp :=
  { x with filter := x.filter ||| BitVec.ofNat 256 (2 ^ (bits a 7 8 ^^^ bits a 15 8)) }
/-- A miss on a line held in one of the warp's victim tags (R55). -/
def Warp.missed (x : Warp) (lossthr name : Nat) : Warp :=
  if x.victims.contains name then
    let loss := min (x.loss + 1) 255
    let x := { x with victims := x.victims.filter (· ≠ name) }
    if !x.decl && lossthr ≠ 0 && loss ≥ lossthr then { x with lease := min (x.lease + loss) 2496, loss := 0 }
    else { x with loss }
  else x
/-- An evicted line is written into the victim tags of the warp that filled it (R55). A tag that a hit has cleared counts as the oldest:
it is filled before a valid one is dropped (DEDUCED, log 23). -/
def Mach.recordVictim (m : Mach) (h : Nat) (x : L1Line) : Mach :=
  let put (w : Warp) : Warp :=
    let v := w.victims ++ [lineName x.kind x.die x.tag]
    { w with victims := v.drop (v.length - 8) }
  m.modHam h (fun y => { y with warps := y.warps.map (fun e => if e.2.placed = x.filler && !e.2.ended then (e.1, put e.2) else e) })
/-- A miss of a warp's access. -/
def Mach.l1Missed (m : Mach) (h w kind die tag : Nat) : Mach :=
  m.modWarp h w (fun x => x.missed (m.regField (hamReg h 0x300) 8 8) (lineName kind die tag))
/-- Bring a line in with its 128 bytes: an invalid way first, the lowest granule first, else the least recently used line of the
set goes (R81). A line already present takes the bytes. -/
def Mach.l1Fill (mem : Memory) (m : Mach) (h : Nat) (x : L1Line) (b : List Byte) : Mach :=
  match m.l1Find h x.kind x.die x.tag x.ctx x.pa with
  | some y =>
    let m := m.modHam h (fun z => { z with l1 := z.l1.filter (fun l => l ≠ y) })
    (m.store (y.key h) b).l1Use h { y with since := x.since }
  | none =>
    let inSet := (m.ham h).l1.filter (fun y => y.tag % 64 = x.tag % 64)
    match (m.l1Grans h).filter (fun g => !inSet.any (fun y => y.gran = g)), inSet.getLast? with
    | g :: _, _ => let x := { x with gran := g }; (m.store (x.key h) b).l1Use h x
    | [], some v =>
      let m := (m.l1Drop mem h v).recordVictim h v
      let x := { x with gran := v.gran }
      (m.store (x.key h) b).l1Use h x
    | [], none => m

/-! ## Invalidation (R82, R170) -/

/-- R82: every Commons line of a hamlet's first level goes; fills on their way are not kept. -/
def Mach.invalidateCommons (m : Mach) (h : Nat) : Mach :=
  let m := m.modHam h (fun y => { y with l1 := y.l1.filter (fun x => x.kind = 0) })
  { m with reqs := m.reqs.map (fun r => if r.ham = h && r.kind = .load then { r with drop := true } else r) }
/-- R148, R170: one line of a hamlet's first level goes, and a fill of it on its way is not kept. -/
def Mach.invalidateLine (m : Mach) (h die line : Nat) : Mach :=
  let m := m.modHam h (fun y => { y with l1 := y.l1.filter (fun x => x.kind = 0 || x.die ≠ die || x.tag ≠ line) })
  { m with reqs := m.reqs.map (fun r =>
      if r.ham = h && r.kind = .load && r.die = die && r.line = line then { r with drop := true } else r) }

/-! ## Requests and their times (R16 to R18, R21, R22, R28, R159) -/

/-- The route between two routers for a transfer whose bridge index is `i` (R16, R17). -/
def routeOf (i : Nat) (a b : Nat × Nat × Nat) : List Leg := route 3 (i % 4) a b
/-- The bridge index of a Commons line (R16): bits [9:8] of its offset. -/
def lineBridge (line : Nat) : Nat := line / 2 % 4
/-- The request writes at its home. -/
def ReqKind.writes : ReqKind → Bool
  | .load | .sload => false
  | _ => true
/-- The request goes to a home slice, not to another block's shared memory. -/
def ReqKind.home : ReqKind → Bool
  | .load | .store | .rmw => true
  | _ => false
/-- Two requests of one hamlet to one home. -/
def Req.along (r q : Req) : Bool := r.ham = q.ham && r.home = q.home && r.kind.home == q.kind.home && r.stage = q.stage && r.peer = q.peer
/-- The moment at which a journey brings a request to its next place. Requests of one hamlet to one home travel one route and keep their
order, and so do their replies (R16, R159): a later one comes no earlier than those already on their way, and a write, which a home
applies before the reads of its cycle, in a later cycle than the reads sent before it. -/
def Mach.comes (m : Mach) (earlier : List Req) (r : Req) : Nat :=
  let wait (q : Req) : Nat := q.at' + if r.stage = 0 && r.kind.writes && !q.kind.writes then cycleUnits else 0
  (earlier.filter (fun q => q.id ≠ r.id && r.along q && (r.stage = 0 || r.stage = 3))).foldl (fun t q => max t (wait q)) (m.tripEnd r.trip)
/-- The request with its times. -/
def Mach.timed (m : Mach) (earlier : List Req) (r : Req) : Req :=
  let t := m.comes earlier r
  { r with at' := t, due := ceilDiv t cycleUnits }
/-- A message with the times that its journey gives it: messages of one sender to one receiver keep their order (R229). -/
def Mach.timedMail (m : Mach) (earlier : List Mail) (x : Mail) : Mail :=
  { x with due := (earlier.filter (fun y => y.id ≠ x.id && y.src = x.src && y.dst = x.dst)).foldl (fun t y => max t y.due) (m.tripDue x.trip) }
/-- A request sets out. -/
def Mach.post (m : Mach) (r : Req) : Mach := { m with reqs := m.reqs ++ [m.timed m.reqs r] }
/-- Send a request to its home slice (R28). -/
def Mach.sendHome (m : Mach) (r : Req) : Mach :=
  let (trip, m) := m.setOut (hamParish r.ham) 10 (routeOf (lineBridge r.line) (hamRouter r.ham) (sliceRouter r.home))
  m.post { r with stage := 0, trip }
/-- The hamlet at a position of a parish (R24, R88). -/
def peerHam (parish pos : Nat) : Nat := 16 * parish + pos
/-- R88: send a read-only load to the predicted peer, or to its home. -/
def Mach.sendLoad (m : Mach) (r : Req) : Mach :=
  let p := (m.ham r.ham).pred.get? (r.line * 128 / 4096 % 256)
  match if r.ro then p else none with
  | none => m.sendHome r
  | some pos =>
    let peer := peerHam (hamParish r.ham) pos
    if peer = r.ham then m.sendHome r
    else
      let (trip, m) := m.setOut (hamParish r.ham) 18 (routeOf 0 (hamRouter r.ham) (hamRouter peer))
      m.post { r with stage := 2, peer := some peer, trip }
/-- A request goes on to its next place. -/
def Mach.moveReq (m : Mach) (id : Nat) (f : Req → Req) : Mach :=
  { m with reqs := updateFirst (fun r => r.id = id) (fun r => m.timed m.reqs (f r)) m.reqs }
/-- The moment from which a request goes on: that at which it came, or this cycle when it has waited (R148, R292). -/
def Mach.goesOn (m : Mach) (r : Req) : Nat := if r.due < m.now then m.now * cycleUnits else r.at'
/-- A request is over. -/
def Mach.endReq (m : Mach) (id : Nat) : Mach := { m with reqs := m.reqs.filter (fun r => r.id ≠ id) }
/-- The request with a number. -/
def Mach.req (m : Mach) (id : Nat) : Option Req := m.reqs.find? (fun r => r.id = id)

/-! ## The store path (R158) -/

/-- What the store path of a hamlet holds for a Commons byte: the byte of its latest pending store, or no byte behind an ATOM that is to
be performed at the home, whose result a later load waits for (R157, R158, R170). -/
def Mach.pathByte (m : Mach) (h die x : Nat) : Option Byte :=
  let pending (r : Req) : Bool :=
    r.ham = h && (r.kind = .store || (r.kind = .rmw && r.stage < 3)) && r.die = die && r.line = x / 128
  ((m.reqs.reverse.filter pending).findSome? (fun r =>
    if r.kind = .rmw then (if r.lanes.any (fun e => e.2.1 / 4 = x / 4) then some none else none)
    else r.lanes.reverse.findSome? (fun e => if e.2.1 ≤ x then (e.2.2[x - e.2.1]?).map some else none))).join
/-- The bytes of an access that are pending in the store path, by their place in it. -/
def Mach.pathOver (m : Mach) (h die x n : Nat) : SMap Byte :=
  (List.range n).filterMap (fun i => (m.pathByte h die (x + i)).map (fun b => (i, b)))
/-- All `n` bytes of an access are pending in the store path. -/
def Mach.pathRead (m : Mach) (h die x n : Nat) : Option (List Byte) :=
  (List.range n).mapM (fun i => m.pathByte h die (x + i))
/-- An ATOM of the hamlet that issued with a number below `before` and meets [x, x + n) of the own die's Commons is still to be performed at its home, or
waits to be sent there (R115, R299). -/
def Mach.rmwBefore (m : Mach) (h before x n : Nat) : Bool :=
  let meets (y : Nat) : Bool := y < x + n && x < y + 4
  m.reqs.any (fun r => r.ham = h && r.kind = .rmw && r.stage < 3 && r.die = hamDie h && r.pend < before && r.lanes.any (fun e => meets e.2.1)) ||
  (m.ham h).warps.any (fun e => e.2.fences.any (fun f => match f.atom with
    | some j => !j.sent && j.pend < before && j.lanes.any (fun l => meets l.2.1)
    | none => false))
/-- A Commons write of a hamlet updates its first-level copy in the same cycle, and the fills on their way to it (R81, R158). -/
def Mach.l1Write (m : Mach) (h die x : Nat) (b : List Byte) : Mach :=
  let m := match m.l1Commons h die x with
    | some l => (m.store (l.key h + x % 128) b).l1Use h l
    | none => m
  let patch (r : Req) : Req :=
    if r.ham = h && r.kind = .load && r.die = die && r.line = x / 128 then
      { r with patch := (List.range b.length).foldl (fun p i => p.set (x % 128 + i) (b.getD i 0)) r.patch }
    else r
  { m with reqs := m.reqs.map patch }
/-- The distinct lines of lanes' offsets, in ascending lane order. -/
def linesOf (l : List (Nat × Nat × List Byte)) : List Nat := dedup (l.map (fun e => e.2.1 / 128))
/-- Writes enter the store path: one request for each line, in issue order (R158). `r` gives what they share. -/
def Mach.enterPath (m : Mach) (q : Nat) (r : Req) (l : List (Nat × Nat × List Byte)) : Mach :=
  let m := l.foldl (fun m e => m.l1Write r.ham r.die e.2.1 e.2.2) m
  (linesOf l).foldl (fun m line =>
    let (id, m) := m.fresh
    m.sendHome { r with
      id, kind := .store, line, home := (m.commonsAt q r.die (128 * line)).1,
      lanes := l.filter (fun e => e.2.1 / 128 = line) }) m

end Sys2Proof.Machine
end

