-- ==== Sys2Proof/Machine/Mem.lean ====
section
/-! DEFINITION. Thread accesses to shared memory and Commons: LDS, STS, LDC, STC, LDX, STX (R72 to R75, R81, R85 to R88, R272,
R357, R358, R386), and the moves that carry them over the network (R22, R28, R88, R159, R358). -/
namespace Sys2Proof.Machine

/-! ## Forms and checks -/

/-- The access size in bytes of a Z code (R254). -/
def sizeOf (z : BitVec 3) : Nat := 2 ^ z.toNat
/-- The address of a lane: vA + O * size, modulo 2^32 (R272, R357). -/
def Mach.addrOf (m : Mach) (a : BitVec 6) (o : BitVec 4) (size l : Nat) : Word := m.v a.toNat l + word (o.toNat * size)
/-- The bytes of v[T..] of a lane, for a store of `size` bytes (R386). -/
def Mach.storeBytes (m : Mach) (t size l : Nat) : List Byte :=
  (wordsBytes ((List.range (ceilDiv size 4)).map (fun i => m.v (t + i) l))).take size
/-- What loaded bytes write to v[T..] of a lane (R272): 8 and 16 bits zero-extended. -/
def loadRegs (t l : Nat) (b : List Byte) : SMap Word :=
  (List.range (ceilDiv b.length 4)).map (fun i => (32 * (t + i) + l, leWord (b.drop (4 * i))))
/-- A failing check: its place in the checking rule's table, and its code in group 0x03. -/
abbrev Check := Option (Nat × Nat)
/-- The first condition of a checking rule that some lane of a mask meets, with the lanes that meet it (R74, R86, R358). -/
def firstFail (act : Word) (c : Nat → Check) : Option (Nat × Word) :=
  let fails := (lanesOf act).filterMap (fun l => (c l).map (fun x => (l, x)))
  (minBy (fun e => e.2.1) fails).map (fun f => (f.2.2, maskOf (fun l => fails.any (fun e => e.1 = l && e.2.1 = f.2.1))))
/-- TRAPD1 of a memory fault (R177): VA[47:32], lowest lane, space, write. -/
def memD1 (vaHi lane space : Nat) (wr : Bool) : Word :=
  word (vaHi % 2 ^ 16 + lane * 2 ^ 16 + space * 2 ^ 21 + if wr then 2 ^ 24 else 0)
/-- The current word traps for a failing address check (R177). -/
def Mach.trapMem (m : Mach) (code : Nat) (lanes : Word) (addr : Nat → Word) (space : Nat → Nat) (wr : Bool) : Mach :=
  let l := (lowestLane lanes).getD 0
  m.trap 3 code (addr l) (memD1 0 l (space l) wr) lanes
/-- The current word traps for uncorrectable data (R194). -/
def Mach.trapData (m : Mach) (lanes : Word) (addr : Nat → Word) (space : Nat → Nat) (wr : Bool) : Mach :=
  let l := (lowestLane lanes).getD 0
  m.trapHard 1 (addr l) (memD1 0 l (space l) wr) lanes
/-- An outstanding write of a read by the current word (R67, R164). -/
def Mach.readPend (m : Mach) (regs : List Nat) (mask : Word) (vals : SMap Word) (land : Option Nat) (least : Nat := 0) : Nat × Mach :=
  let (id, m) := m.varPend .v regs mask vals land
  (id, m.modCw (fun x => { x with pends := updateFirst (fun p => p.id = id) (fun p => { p with read := true, least }) x.pends }))

/-! ## Shared memory (R72 to R77) -/

/-- The rank that a shared address names for a block (R72). -/
def sharedRank (b : Block) (addr : Word) : Nat := if wbit addr 31 then wbits addr 18 4 else b.rank
/-- The block of a rank, as hamlet and number there, if it is resident and has not ended. -/
def Mach.peerOf (m : Mach) (b : Block) (r : Nat) : Option (Nat × Nat) :=
  match b.peers[r]? with
  | some (h, n) => match (m.ham h).blocks.get? n with
    | some x => if x.ended then none else some (h, n)
    | none => none
  | none => none
/-- R74: the check of one lane's shared access. -/
def Mach.sharedCheck (m : Mach) (b : Block) (addr : Word) (size : Nat) : Check :=
  if wbits addr 22 9 ≠ 0 then some (0, 4)
  else if addr.toNat % size ≠ 0 then some (1, 3)
  else if sharedRank b addr = b.rank then (if wbits addr 0 18 + size > b.carve then some (3, 4) else none)
  else match m.peerOf b (sharedRank b addr) with
    | none => some (2, 6)
    | some (h, n) => if wbits addr 0 18 + size > (m.block h n).carve then some (3, 4) else none
/-- The array byte of a block's shared offset (R77). -/
def sharedKey (h : Nat) (b : Block) (off : Nat) : Nat :=
  keyArray h ((2 * b.pairs.getD (off / 2 ^ 14) 0 + off / 2 ^ 13 % 2) * 8192 + off % 2 ^ 13)
/-- The array byte that a shared address of a block names, in whichever block (R72, R77). -/
def Mach.sharedPlace (m : Mach) (b : Block) (addr : Word) : Nat :=
  match m.peerOf b (sharedRank b addr) with
  | some (h, n) => sharedKey h (m.block h n) (wbits addr 0 18)
  | none => sharedKey m.cur.ham b (wbits addr 0 18)
/-- The bank ways of the accesses at these offsets (R73). -/
def waysOf (size : Nat) (offs : List Nat) : Nat :=
  let words := dedup (offs.flatMap (fun o => (List.range (ceilDiv size 4)).map (fun i => o / 4 + i)))
  max 1 (maxOf ((List.range 32).map (fun k => (words.filter (fun w => w % 32 = k)).length)))
/-- Shared memory of a block: `n` bytes at an offset (R154); no access that passes R74 crosses a granule. -/
def Mach.sharedRead (mem : Memory) (m : Mach) (h n off size : Nat) : List Byte := m.rdN mem (sharedKey h (m.block h n) off) size
/-- Lanes by the remote rank that they address, ascending. -/
def remoteRanks (b : Block) (act : Word) (addr : Nat → Word) : List Nat :=
  dedup (((lanesOf act).map (fun l => sharedRank b (addr l))).filter (· ≠ b.rank))
/-- The journey of a message between hamlets (R398): injection, hops and ejection. -/
def Mach.messageTrip (m : Mach) (h h' : Nat) : Trip × Mach :=
  let (t, m) := m.setOut (hamParish h) 4 (routeOf h' (hamRouter h) (hamRouter h'))
  ({ t with spans := t.spans ++ [.net (hamParish h') 4] }, m)
/-- Send the remote part of a shared access to the blocks of other ranks: one request for each (R300, R358). -/
def Mach.sendShared (m : Mach) (r : Req) (act : Word) (addr : Nat → Word) (data : Nat → List Byte) : Mach :=
  let b := m.cb
  (remoteRanks b act addr).foldl (fun m k =>
    match m.peerOf b k with
    | none => m
    | some (h', n) =>
      let (id, m) := m.fresh
      let (trip, m) := m.setOut (hamParish r.ham) 4 (routeOf h' (hamRouter r.ham) (hamRouter h'))
      let lanes := ((lanesOf act).filter (fun l => sharedRank b (addr l) = k)).map (fun l => (l, wbits (addr l) 0 18, data l))
      m.post { r with id, home := h', block := n, lanes, trip, addrs := lanes.map (fun e => (e.1, addr e.1)) }) m
/-- The request of the current word: its hamlet, warp and word. -/
def Mach.curReq (m : Mach) (kind : ReqKind) (size : Nat) : Req :=
  { id := 0, kind, ham := m.cur.ham, warp := m.cur.warp, tag := m.partHam m.cur.ham, home := 0, size, due := 0,
    ctx := m.cb.ctx, pc := m.cur.pc, word := m.cur.word }

/-- LDS (R357, R358). -/
def execLds (_ : Hdr) (t a : BitVec 6) (o : BitVec 4) (z : BitVec 3) (s : State) :=
  lift (fun mem m =>
    let act := m.active 0
    let size := sizeOf z
    let b := m.cb
    let addr := m.addrOf a o size
    match firstFail act (fun l => m.sharedCheck b (addr l) size) with
    | some (code, lanes) => m.trapMem code lanes addr (fun _ => 0) false
    | none =>
      let own := (lanesOf act).filter (fun l => sharedRank b (addr l) = b.rank)
      let key (l : Nat) := sharedKey m.cur.ham b (wbits (addr l) 0 18)
      let bad := maskOf (fun l => own.contains l && m.bad (key l) size)
      if act = 0 then m
      else if bad ≠ 0 then m.trapData bad addr (fun _ => 0) false
      else
        let m := own.foldl (fun m l => m.seen (key l) size) m
        let vals := own.flatMap (fun l => loadRegs t.toNat l (m.rdN mem (key l) size))
        let far := remoteRanks b act addr ≠ []
        let lat := 21 + waysOf size (own.map (fun l => wbits (addr l) 0 18))
        let (id, m) := m.readPend (memRegs z t) act vals (if far then none else some (m.now + lat)) (if own = [] then 0 else m.now + lat)
        m.sendShared { m.curReq .sload size with pend := id, reg := t.toNat } act addr (fun _ => [])) s
/-- STS (R155, R386). -/
def execSts (_ : Hdr) (t a : BitVec 6) (o : BitVec 4) (z : BitVec 3) (s : State) :=
  lift (fun _ m =>
    let act := m.active 0
    let size := sizeOf z
    let b := m.cb
    let addr := m.addrOf a o size
    match firstFail act (fun l => m.sharedCheck b (addr l) size) with
    | some (code, lanes) => m.trapMem code lanes addr (fun _ => 0) true
    | none =>
      let own := (lanesOf act).filter (fun l => sharedRank b (addr l) = b.rank)
      let key (l : Nat) := sharedKey m.cur.ham b (wbits (addr l) 0 18)
      let bad := maskOf (fun l => wbit act l && m.badStore (m.sharedPlace b (addr l)) size)
      if bad ≠ 0 then m.trapData bad addr (fun _ => 0) true
      else
        let m' := own.foldl (fun x l => x.store (key l) (m.storeBytes t.toNat size l)) m
        m'.sendShared (m.curReq .sstore size) act addr (m.storeBytes t.toNat size)) s

/-! ## Commons (R81, R85 to R88) -/

/-- The Commons window of a context slot: base, size, read-only base and size, in bytes (R86). -/
def Mach.window (m : Mach) (h c : Nat) : Nat × Nat × Nat × Nat :=
  let a := m.reg (hamReg h (0x320 + 8 * c))
  let b := m.reg (hamReg h (0x324 + 8 * c))
  (wbits a 0 11 * 2 ^ 16, wbits a 16 11 * 2 ^ 16, wbits b 0 11 * 2 ^ 16, wbits b 16 11 * 2 ^ 16)
/-- The die and window offset of a Commons address: LDX and STX name the die (R87). -/
def commonsAddr (h : Nat) (cross : Bool) (addr : Word) : Nat × Nat :=
  if cross then (wbits addr 27 2, wbits addr 0 27) else (hamDie h, addr.toNat)
/-- The window offset lies in the read-only range (R86). -/
def Mach.readOnly (m : Mach) (h c o : Nat) : Bool :=
  let (_, _, rb, rs) := m.window h c
  rb ≤ o && o < rb + rs
/-- R86, R87: the check of one lane's Commons access. The alignment check comes before the check of a die on which the partition holds no
parish, whose Commons has no byte: both stand in the table of R86, in which it comes first (DEDUCED, log 23). -/
def Mach.commonsCheck (m : Mach) (h c : Nat) (cross : Bool) (addr : Word) (size : Nat) (store : Bool) : Check :=
  let (die, o) := commonsAddr h cross addr
  let (base, sz, _, _) := m.window h c
  if cross && wbits addr 29 3 ≠ 0 then some (0, 5)
  else if o % size ≠ 0 then some (1, 3)
  else if o + size > sz || base + o + size > m.commonsSize (m.partHam h) die then some (2, 5)
  else if store && m.readOnly h c o then some (3, 2)
  else none
/-- The space of R177 of a Commons access: 1 own die, 2 another die. -/
def commonsSpace (h : Nat) (cross : Bool) (addr : Word) : Nat := if (commonsAddr h cross addr).1 = hamDie h then 1 else 2
/-- The die Commons offset of a Commons address that passes its check (R86). -/
def Mach.commonsX (m : Mach) (h c : Nat) (cross : Bool) (addr : Word) : Nat × Nat :=
  let (die, o) := commonsAddr h cross addr
  (die, (m.window h c).1 + o)
/-- The latency of a first-level hit (R27). -/
def hitLatency (size : Nat) : Nat := if size = 16 then 33 else if size = 8 then 31 else 30
/-- A line of a first level may serve a load: in a read-only range only with a value that its home has held since the load's launch began,
one that the home has served since, or still holds (R160; DEDUCED, log 23). -/
def Mach.lineServes (mem : Memory) (m : Mach) (h q : Nat) (ro : Bool) (began : Nat) (x : L1Line) : Bool :=
  !ro || x.since ≥ began || m.rdN mem (x.key h) 128 = (m.commonsRead mem q x.die (128 * x.tag) 128).1
/-- The first-level line that serves a load of a hamlet (R81, R160). -/
def Mach.l1Serving (mem : Memory) (m : Mach) (h die x : Nat) (ro : Bool) (began : Nat) : Option L1Line :=
  (m.l1Commons h die x).filter (fun y => m.lineServes mem h (m.partHam h) ro began y)
/-- The cycle in which the launch of a block began. -/
def Mach.begun (m : Mach) (b : Block) : Nat := (m.launches.get default b.launch).began
/-- A home holds a word of [x, x + n) that fails its check for a read, or for a store (R194): unless the hamlet's store path is to renew
it first. -/
def Mach.homeFails (m : Mach) (h die x n : Nat) (store : Bool) : Bool :=
  let k := m.commonsKey (m.partHam h) die x
  (m.pathRead h die (x / 8 * 8) 8).isNone && (if store then m.badStore k n else m.bad k n)
/-- LDC and LDX (R81, R88, R158, R358): lanes served by the first level or the store path take their values at issue, each line
that is missing is requested from its home or a peer, and all lanes land with the last. A byte that the store path holds is served from
there. A fault of LDX or STX reports its 32-bit address as it stands, with the die in bits [28:27], whichever die it is: R177 speaks of a
window offset and does not say which of these bits it takes (DESIGN CHOICE, log 23). -/
def loadCommons (cross : Bool) (t a : BitVec 6) (o : BitVec 4) (z : BitVec 3) (hint : BitVec 2) : Act := fun mem m =>
  let act := m.active 0
  let size := sizeOf z
  let h := m.cur.ham
  let c := m.cb.ctx
  let addr := m.addrOf a o size
  match firstFail act (fun l => m.commonsCheck h c cross (addr l) size false) with
  | some (code, lanes) => m.trapMem code lanes addr (fun l => commonsSpace h cross (addr l)) false
  | none =>
    let ox (l : Nat) := m.commonsX h c cross (addr l)
    let ro (l : Nat) := m.readOnly h c (commonsAddr h cross (addr l)).2
    let began := m.begun m.cb
    let line (l : Nat) := m.l1Serving mem h (ox l).1 (ox l).2 (ro l) began
    let hit (l : Nat) : Option (List Byte) :=
      match line l with
      | some x => some (m.rdN mem (x.key h + (ox l).2 % 128) size)
      | none => m.pathRead h (ox l).1 (ox l).2 size
    let bad := maskOf (fun l => wbit act l && (match line l with
      | some x => m.bad (x.key h + (ox l).2 % 128) size
      | none => false))
    if act = 0 then m
    else if bad ≠ 0 then m.trapData bad addr (fun l => commonsSpace h cross (addr l)) false
    else
      let ls := lanesOf act
      let vals := ls.flatMap (fun l => ((hit l).map (loadRegs t.toNat l)).getD [])
      let miss := ls.filter (fun l => (hit l).isNone)
      let m := m.modCw (fun x => ls.foldl (fun x l => x.touch (ox l).2) x)
      let m := ls.foldl (fun m l => match line l with
        | some x => (m.l1Use h x).seen (x.key h + (ox l).2 % 128) size
        | none => m) m
      let hits := m.now + hitLatency size
      let (id, m) := m.readPend (memRegs z t) act vals (if miss = [] then some hits else none) (if miss = ls then 0 else hits)
      let lines := dedup (miss.map (fun l => (ox l).2 / 128 * 4 + (ox l).1))
      lines.foldl (fun m ld =>
        let line := ld / 4
        let die := ld % 4
        let mine := miss.filter (fun l => (ox l).2 / 128 = line && (ox l).1 = die)
        let m := m.l1Missed h m.cur.warp (commonsKind h die) die line
        let (rid, m) := m.fresh
        m.sendLoad { m.curReq .load size with
          id := rid, pend := id, reg := t.toNat, die, line, hint := hint.toNat, began,
          home := (m.commonsAt (m.partHam h) die (128 * line)).1,
          ro := mine.any ro,
          lanes := mine.map (fun l => (l, (ox l).2, [])), addrs := mine.map (fun l => (l, addr l)),
          onPath := mine.flatMap (fun l => (m.pathOver h die (ox l).2 size).map (fun e => (16 * l + e.1, e.2))) }) m
/-- STC and STX (R55, R81, R155, R158, R386): the writes enter the store path. A word that fails its check, in the first level or at the
home, traps the bundle before any lane writes. -/
def storeCommons (cross : Bool) (t a : BitVec 6) (o : BitVec 4) (z : BitVec 3) (hint : BitVec 2) : Act := fun _ m =>
  let act := m.active 0
  let size := sizeOf z
  let h := m.cur.ham
  let c := m.cb.ctx
  let addr := m.addrOf a o size
  match firstFail act (fun l => m.commonsCheck h c cross (addr l) size true) with
  | some (code, lanes) => m.trapMem code lanes addr (fun l => commonsSpace h cross (addr l)) true
  | none =>
    let ox (l : Nat) := m.commonsX h c cross (addr l)
    let bad := maskOf (fun l => wbit act l &&
      (m.homeFails h (ox l).1 (ox l).2 size true ||
       match m.l1Commons h (ox l).1 (ox l).2 with
       | some x => m.badStore (x.key h + (ox l).2 % 128) size
       | none => false))
    if bad ≠ 0 then m.trapData bad addr (fun l => commonsSpace h cross (addr l)) true
    else
      let m := m.modCw (fun x => (lanesOf act).foldl (fun x l => x.touch (ox l).2) x)
      let miss := (lanesOf act).filter (fun l => (m.l1Commons h (ox l).1 (ox l).2).isNone)
      let m := (dedup (miss.map (fun l => (ox l).2 / 128 * 4 + (ox l).1))).foldl (fun m e =>
        m.l1Missed h m.cur.warp (commonsKind h (e % 4)) (e % 4) (e / 4)) m
      (List.range 4).foldl (fun m die =>
        let mine := (lanesOf act).filter (fun l => (ox l).1 = die)
        m.enterPath (m.partHam h)
          { m.curReq .store size with die, hint := hint.toNat, addrs := mine.map (fun l => (l, addr l)) }
          (mine.map (fun l => (l, (ox l).2, m.storeBytes t.toNat size l)))) m
/-- LDC (R357, R358). -/
def execLdc (_ : Hdr) (t a : BitVec 6) (o : BitVec 4) (z : BitVec 3) (h1 : BitVec 2) (s : State) :=
  lift (loadCommons false t a o z h1) s
/-- LDX (R87, R357, R358). -/
def execLdx (_ : Hdr) (t a : BitVec 6) (o : BitVec 4) (z : BitVec 3) (h1 : BitVec 2) (s : State) :=
  lift (loadCommons true t a o z h1) s
/-- STC (R386). -/
def execStc (_ : Hdr) (t a : BitVec 6) (o : BitVec 4) (z : BitVec 3) (h1 : BitVec 2) (s : State) :=
  lift (storeCommons false t a o z h1) s
/-- STX (R87, R386). -/
def execStx (_ : Hdr) (t a : BitVec 6) (o : BitVec 4) (z : BitVec 3) (h1 : BitVec 2) (s : State) :=
  lift (storeCommons true t a o z h1) s

end Sys2Proof.Machine
end

