-- ==== Sys2Proof/Machine/Network.lean ====
section
/-! DEFINITION. The moves of requests between hamlets and homes: FLIT_EJECTION, HOME_ACCESS, PEER_FORWARD_REQUEST,
LOAD_DATA_RETURN (R22, R28, R88, R148, R159, R170, R194, R300, R358). -/
namespace Sys2Proof.Machine

/-! ## Atomic functions (R273, R299) -/

/-- The new value of an ATOM: function 0 to 9 of R273, old value, vB and vB+1. -/
def atomNew (op : Nat) (old b b1 : Word) : Word :=
  match op with
  | 0 => old + b
  | 1 => word (F32.add .rne old.toNat b.toNat).1
  | 2 => if BitVec.slt old b then old else b
  | 3 => if BitVec.slt old b then b else old
  | 4 => old &&& b
  | 5 => old ||| b
  | 6 => old ^^^ b
  | 7 => b
  | 8 => if old = b then b1 else old
  | _ => if old ≥ b then 0 else old + 1
/-- One read-modify-write of an aligned word at a place in Memory: the old value. Its one read is counted with the store (R96). -/
def Mach.rmwAt (mem : Memory) (m : Mach) (op key : Nat) (b b1 : Word) : Word × Mach :=
  let old := leWord (m.rdN mem key 4)
  (old, m.store key (leBytes 4 (atomNew op old b b1).toNat))

/-! ## Reservations (R148, R292) -/

/-- The 256-byte granule of a byte of Memory is reserved by an add-on-store (R148), or by an operation other than `owner`. -/
def Mach.reserved (m : Mach) (owner key : Nat) : Bool := m.resv.any (fun r => r.1 ≠ owner && r.2.1 = 0 && r.2.2 = key / 256)
/-- A line of main memory is held at a slice for a SYS AMO (R292). -/
def Mach.lineHeld (m : Mach) (owner s pa : Nat) : Bool :=
  m.resv.any (fun r => r.1 ≠ owner && r.2.1 = 1 + s && r.2.2 = pa / 128)

/-! ## The end of a request -/

/-- Another request of the same outstanding write is still in flight. -/
def Mach.more (m : Mach) (r : Req) : Bool := m.reqs.any (fun x => x.id ≠ r.id && x.ham = r.ham && x.pend = r.pend && x.kind = r.kind)
/-- Values of a request's lanes come to their outstanding write, which lands when the last request of it has come, and no earlier than the
data that come by a way of known length (R358). -/
def Mach.arrived (m : Mach) (r : Req) (vals : SMap Word) : Mach :=
  let more := m.more r
  let m := m.endReq r.id
  let f : Pend → Pend := fun p => { p with vals := p.vals ++ vals, land := if more then p.land else some (max m.now p.least) }
  m.modWarp r.ham r.warp (fun x =>
    let x := { x with pends := updateFirst (fun p => p.id = r.pend) f x.pends }
    if more then x else (x.landDue m.now).capture m.now)
/-- Values of an ATOM's lanes land, each on its own (R300). -/
def Mach.lanesArrived (m : Mach) (r : Req) (vals : SMap Word) : Mach :=
  let m := m.endReq r.id
  let m := vals.foldl (fun m e => m.resolveLane r.ham r.warp r.pend (e.1 % 32) [e] m.now) m
  m.modWarp r.ham r.warp (fun x => (x.landDue m.now).capture m.now)
/-- Values of an ATOM's lanes at one remote block: the lanes that address other blocks land when the last reply has come (R300). -/
def Mach.ranksArrived (m : Mach) (r : Req) (vals : SMap Word) : Mach :=
  let more := m.more r
  let m := m.endReq r.id
  let f : Pend → Pend := fun p =>
    { p with vals := p.vals ++ vals
             early := if more then p.early else p.early ++ ((lanesOf p.mask).filter (fun l => (p.early.get? l).isNone)).map (fun l => (l, m.now)) }
  m.modWarp r.ham r.warp (fun x => ({ x with pends := updateFirst (fun p => p.id = r.pend) f x.pends }.landDue m.now).capture m.now)
/-- The spaces of R177 of a request. -/
def Req.space (r : Req) : Nat :=
  match r.kind with
  | .sload | .sstore | .srmw => 0
  | _ => commonsKind r.ham r.die
/-- A fault met by a request on its way traps its bundle, always to the Reeve (R22, R179, R185, R194): no lane writes. -/
def Mach.reqTrap (m : Mach) (r : Req) (group code : Nat) (lanes : Word) : Mach :=
  let x := m.warp r.ham r.warp
  if ((m.ham r.ham).warps.get? r.warp).isNone then m.endReq r.id else
  let mine := maskOf (fun l => r.lanes.any (fun e => e.1 = l))
  let lay := r.lay.bind (fun id => (m.ham r.ham).lays.find? (fun y => y.id = id))
  let all := mine ||| (match lay with | some y => y.lanes | none => 0) |||
    (match x.pends.find? (fun p => p.id = r.pend) with | some p => p.mask | none => 0)
  let live := all &&& ~~~x.lanesIn (fun s => s == .exited || s == .absent)
  let l := (lowestLane lanes).getD 0
  let wr := match r.kind with | .store | .sstore | .rmw | .srmw => true | _ => false
  let m := m.modWarp r.ham r.warp (fun x => { x with pends := x.pends.filter (fun p => p.id ≠ r.pend) })
  let m := m.modHam r.ham (fun y => { y with lays := y.lays.filter (fun z => r.lay ≠ some z.id) })
  let m := { m with reqs := m.reqs.filter (fun q => !(q.id = r.id || (r.pend ≠ 0 && q.ham = r.ham && q.pend = r.pend))) }
  m.takeTrapAt r.ham r.warp m.now group code (r.addrs.get 0 l) (memD1 0 l r.space wr) lanes r.pc live true
/-- The reply of a request leaves its home or target: what comes first there, then the way back and its ejection (R28). -/
def Mach.reply (m : Mach) (r : Req) (here : Nat × Nat × Nat) (first : List Span) (tail : Nat) (f : Req → Req) : Mach :=
  let (l, m) := m.spans (10 * here.1 + here.2.1) (routeOf (lineBridge r.line) here (hamRouter r.ham))
  let trip : Trip := { start := m.goesOn r, spans := first ++ l ++ [.net (hamParish r.ham) tail] }
  m.moveReq r.id (fun r => { f r with stage := 3, trip })
/-- A fault of a chunk's write at its home or target: its channel is told, and the write waits aside, at stage 9, for the Reeve's reply
(R106, R186). A write of an engine (unit 4 or 5) is over, and stops the engine's command (R151, R194). -/
def Mach.chanFound (m : Mach) (r : Req) (chan cmd : Nat) (c : Cause) : Mach :=
  if chan = 4 then
    (m.endReq r.id).modHam r.ham (fun x =>
      { x with qeng := updateFirst (fun d => d.id = cmd) (fun (d : QCmd) => { d with fault := some c }) x.qeng })
  else if chan > 4 then
    (m.endReq r.id).modHam r.ham (fun x =>
      { x with eng := { x.eng with q := updateFirst (fun d => d.id = cmd) (fun (d : ECmd) => { d with fault := some c }) x.eng.q } })
  else
    let m := { m with reqs := updateFirst (fun x => x.id = r.id) (fun x => { x with stage := 9 }) m.reqs }
    let first := (minBy id (r.lanes.map (fun e => e.2.1))).getD 0
    let va := if r.kind.home then first - (m.window r.ham r.ctx).1 else first
    let f : Cmd → Cmd := fun x => { x with found := some (c, va, true) }
    m.modHam r.ham (fun y => { y with chans := y.chans.set chan (updateFirst (fun x => x.id = cmd) f (y.chans.get [] chan)) })

/-! ## FLIT_EJECTION (R22) -/

/-- The router that a request is to leave the network at, as a slice number, and its parish. -/
def Req.router (r : Req) : Nat × Nat :=
  match r.kind with
  | .sload | .sstore | .srmw => (80 * hamDie r.home + 8 * hamX r.home + hamY r.home, hamParish r.home)
  | _ => (r.home, sliceParish r.home)
/-- FLIT_EJECTION (R22, R28, R398): the partition tag is checked; a mismatched flit is discarded and counted, and its access
completes with a fault. -/
def execFlitEjection (req : Nat) (s : State) :=
  lift (fun _ m =>
    match m.req req with
    | none => m
    | some r =>
      let (router, parish) := r.router
      if m.partOf parish = some r.tag then
        let cycles := match r.kind with | .sload | .sstore | .srmw => 4 | _ => 28
        m.moveReq req (fun r => { r with stage := 1, trip := { start := r.at', spans := [.net parish cycles] } })
      else
        let m := { m with routerErr := m.routerErr.set router (m.routerErr.get 0 router + 1) }
        match r.ack with
        | some (chan, cmd) => m.chanFound r chan cmd denied
        | none => m.reqTrap r 3 2 (maskOf (fun l => r.lanes.any (fun e => e.1 = l)))) s

/-! ## HOME_ACCESS (R28, R148, R159, R170, R171, R194) -/

/-- The home byte of a die Commons offset of a request's partition. -/
def Mach.reqKey (m : Mach) (r : Req) (x : Nat) : Nat := m.commonsKey r.tag r.die x
/-- The acknowledgement of a chunk's write goes back to its channel (R106). -/
def Mach.ackBack (m : Mach) (r : Req) : Mach :=
  match r.ack with
  | none => m
  | some (chan, cmd) =>
    let (l, m) := m.spans (sliceParish r.home) (routeOf (lineBridge r.line) (sliceRouter r.home) (hamRouter r.ham))
    m.ackAfter r.ham chan cmd { start := m.goesOn r, spans := l ++ [.net (hamParish r.ham) 10] }
/-- HOME_ACCESS: the access takes effect at its home slice. A fetched line with a failing word beside the bytes that its lanes read is
delivered, and not kept in the first level: what R81 and R194 leave open (DESIGN CHOICE, log 23). -/
def homeAccess (req : Nat) : Act := fun mem m =>
  match m.req req with
  | none => m
  | some r =>
    let key (e : Nat × Nat × List Byte) := m.reqKey r e.2.1
    match r.kind with
    | .store =>
      if r.lanes.any (fun e => m.badStore (key e) e.2.2.length) then
        match r.ack with
        | some (chan, cmd) => m.chanFound r chan cmd badData
        | none => m.reqTrap r 9 1 (maskOf (fun l => r.lanes.any (fun e => e.1 = l && m.badStore (key e) e.2.2.length)))
      else
        ((r.lanes.foldl (fun x e => x.store (key e) e.2.2) m).endReq req).ackBack r
    | .rmw =>
      let bad := maskOf (fun l => r.lanes.any (fun e => e.1 = l && m.bad (key e) 4))
      if bad ≠ 0 then m.reqTrap r 9 1 bad
      else
        let (vals, m) := r.lanes.foldl (fun (a : SMap Word × Mach) e =>
          let (old, m) := a.2.rmwAt mem r.op (key e) (leWord e.2.2) (leWord (e.2.2.drop 4))
          (a.1 ++ [(32 * r.reg + e.1, old)], m)) ([], m)
        m.reply r (sliceRouter r.home) [.net (sliceParish r.home) 4] 10 (fun r => { r with vals })
    | _ =>
      let m := m.seen (m.reqKey r (128 * r.line)) 128
      let (b, bad) := m.commonsRead mem r.tag r.die (128 * r.line) 128
      let hit := maskOf (fun l => r.lanes.any (fun e => e.1 = l && m.bad (key e) r.size))
      if hit ≠ 0 then m.reqTrap r 9 1 hit
      else
        let sl := m.slice r.home
        let last := if r.ro then sl.readers.get? r.line else none
        let m := if r.ro then m.setSlice r.home { sl with readers := sl.readers.set r.line r.ham } else m
        m.reply r (sliceRouter r.home) [] 10 (fun r => { r with data := b, lastReader := last, since := m.now, drop := r.drop || bad })
/-- HOME_ACCESS. -/
def execHomeAccess (req : Nat) (s : State) := lift (homeAccess req) s

/-- PEER_FORWARD_REQUEST (R88): the peer returns the line if its first level holds it, else forwards the request. A line with a word that
fails its check, which no rule says what a peer does with, counts as a miss there (DESIGN CHOICE, log 23), and so does one that R160
does not let the load return. -/
def execPeerForwardRequest (req : Nat) (s : State) :=
  lift (fun mem m =>
    match m.req req with
    | none => m
    | some r =>
      let p := r.peer.getD r.ham
      match (m.l1Serving mem p r.die (128 * r.line) r.ro r.began).filter (fun x => !m.bad (x.key p) 128) with
      | some x =>
        let (l, m) := (m.seen (x.key p) 128).spans (hamParish p) (routeOf 0 (hamRouter p) (hamRouter r.ham))
        let trip : Trip := { start := m.goesOn r, spans := .net (hamParish p) 18 :: l }
        m.moveReq req (fun r => { r with stage := 3, trip, since := x.since, data := m.rdN mem (x.key p) 128 })
      | none =>
        let (spans, m) := m.spans (hamParish p) (routeOf (lineBridge r.line) (hamRouter p) (sliceRouter r.home))
        m.moveReq req (fun r => { r with stage := 0, peer := none, trip := { start := m.goesOn r, spans } })) s

/-! ## LOAD_DATA_RETURN (R55, R81, R88, R300, R358) -/

/-- The peer predictor after a read-only line has come from its home (R88). -/
def Mach.learn (m : Mach) (r : Req) : Mach :=
  if !r.ro || r.peer.isSome then m
  else
    let i := r.line * 128 / 4096 % 256
    m.modHam r.ham (fun y => { y with pred :=
      match r.lastReader with
      | some p => if hamParish p = hamParish r.ham then y.pred.set i (p % 16) else y.pred.erase i
      | none => y.pred.erase i })
/-- The 64 bytes of a LAYSET record or of a parameter block have come (R142, R355). -/
def Mach.layData (m : Mach) (h id : Nat) (b : List Byte) : Mach :=
  let f : LayRead → LayRead := fun x => { x with bytes := some b, due := m.now }
  m.modHam h (fun y => { y with lays := updateFirst (fun x => x.id = id) f y.lays })
/-- LOAD_DATA_RETURN: a reply's line is kept unless it has been invalidated since, with the hamlet's own stores since applied, and
its lanes' values land. -/
def loadReturn (req : Nat) : Act := fun mem m =>
  match m.req req with
  | none => m
  | some r =>
    match r.kind with
    | .rmw => m.lanesArrived r r.vals
    | .srmw => m.ranksArrived r r.vals
    | .sload => m.arrived r r.vals
    | _ =>
      let line : L1Line :=
        { kind := commonsKind r.ham r.die, die := r.die, tag := r.line, ctx := 0, gran := 0,
          filler := (m.warp r.ham r.warp).placed, since := r.since }
      let bytes := (List.range 128).map (fun i => (r.patch.get? i).getD (r.data.getD i 0))
      let m := if r.drop then m else m.l1Fill mem r.ham line bytes
      let byte (e : Nat × Nat × List Byte) (i : Nat) : Byte := (r.onPath.get? (16 * e.1 + i)).getD (r.data.getD (e.2.1 % 128 + i) 0)
      let vals := r.lanes.flatMap (fun e => loadRegs r.reg e.1 ((List.range r.size).map (byte e)))
      match r.lay with
      | some id => ((m.learn r).endReq r.id).layData r.ham id (r.lanes.flatMap (fun e => (List.range 64).map (byte e)))
      | none => (m.learn r).arrived r vals
/-- LOAD_DATA_RETURN. -/
def execLoadDataReturn (req : Nat) (s : State) := lift (loadReturn req) s

end Sys2Proof.Machine
end

