-- ==== Sys2Proof/Machine/Device.lean ====
section
/-! DEFINITION. One small access to a physical address by an agent of a partition: main memory, another package, Commons views,
the NVMe register window (R240, R241, R245). -/
namespace Sys2Proof.Machine

/-! ## NVMe registers, as NVM Express Base 2.0 lays them out (R245; log 16) -/

/-- CAP: 4,096 entries, contiguous queues required, TO 4, DSTRD 0, the NVM command set (R245). -/
def nvmeCap : Nat := 4095 + 2 ^ 16 + 4 * 2 ^ 24 + 2 ^ 37
/-- The 32-bit word at an offset of BAR0; doorbells and reserved words read 0. -/
def Mach.nvmeWord (m : Mach) (off : Nat) : Word :=
  let n := m.nvme
  match off with
  | 0x00 => word nvmeCap
  | 0x04 => word (nvmeCap / 2 ^ 32)
  | 0x08 => 0x00020000
  | 0x0C | 0x10 => n.intm
  | 0x14 => n.cc
  | 0x1C => bword n.rdy ||| word (4 * n.shst)
  | 0x24 => n.aqa
  | 0x28 => word n.asq
  | 0x2C => word (n.asq / 2 ^ 32)
  | 0x30 => word n.acq
  | 0x34 => word (n.acq / 2 ^ 32)
  | _ => 0
/-- A write of a 32-bit word of BAR0: controller enable and doorbells are moves of their own (R245). -/
def Mach.nvmeSet (m : Mach) (off : Nat) (v : Word) : Mach :=
  let n := m.nvme
  if off ≥ 0x1000 then m.schedule m.now (.nvmeDoorbell off v)
  else match off with
    | 0x0C => { m with nvme := { n with intm := n.intm ||| v } }
    | 0x10 => { m with nvme := { n with intm := n.intm &&& ~~~v } }
    | 0x14 => m.schedule m.now (.nvmeEnable v)
    | 0x24 => { m with nvme := { n with aqa := v &&& 0x0FFF0FFF } }
    | 0x28 => { m with nvme := { n with asq := n.asq / 2 ^ 32 * 2 ^ 32 + v.toNat / 4096 * 4096 } }
    | 0x2C => { m with nvme := { n with asq := v.toNat * 2 ^ 32 + n.asq % 2 ^ 32 } }
    | 0x30 => { m with nvme := { n with acq := n.acq / 2 ^ 32 * 2 ^ 32 + v.toNat / 4096 * 4096 } }
    | 0x34 => { m with nvme := { n with acq := v.toNat * 2 ^ 32 + n.acq % 2 ^ 32 } }
    | _ => m

/-! ## One access -/

/-- Whether an access of an agent of partition `q` faults under R240 or R241, or waits for a HOT stack (R237). -/
inductive Reach where
  | ok | held | fault (c : Cause)
  deriving DecidableEq, Repr
/-- R240, R241: a write to another package waits while the replay buffer of its port is full, a read until its response has come. A register aperture faults for a warp's access. -/
def Mach.reach (m : Mach) (q pa : Nat) (wr : Bool := false) : Reach :=
  match m.target q pa with
  | .main p => if p = m.ownPkg then (if m.heldAt q pa then .held else .ok)
      else if (m.portTo p).isNone then .fault denied
      else if (if wr then m.linkFull p else !m.remoteHere pa) then .held else .ok
  | .commons .. | .nvme _ => .ok
  | _ => .fault denied
/-- An uncached read of `n` aligned bytes; whether a word of them fails its check (R90, R194, R240). -/
def Mach.devRead (mem : Memory) (m : Mach) (q pa n : Nat) : List Byte × Bool × Mach :=
  match m.target q pa with
  | .main _ => m.memRead mem q pa n 3 0
  | .commons p d x => let (b, e) := m.commonsRead mem p d x n; (b, e, m.seen (m.commonsKey p d x) n)
  | .nvme off => ((wordsBytes ((List.range (ceilDiv (off % 4 + n) 4)).map (fun i => m.nvmeWord (off / 4 * 4 + 4 * i)))).drop (off % 4) |>.take n, false, m)
  | _ => (leBytes n 0, false, m)
/-- An uncached write of aligned bytes; false when a narrower store meets a word that fails its check (R194). -/
def Mach.devWrite (mem : Memory) (m : Mach) (q pa : Nat) (b : List Byte) : Bool × Mach :=
  match m.target q pa with
  | .main _ => m.memWrite mem q pa b 3 0
  | .commons p d x => m.commonsWrite p d x b
  | .nvme off => (true, (List.range (b.length / 4)).foldl (fun m i => m.nvmeSet (off + 4 * i) (wordAt b (4 * i))) m)
  | _ => (true, m)

/-! ## Accesses of the package's devices (R240; log 20) -/

/-- A device has met a stack that holds it back, and takes its place there (R237). -/
def Mach.busStuck (m : Mach) (pa : Nat) : Mach := { m.hotWait pa with stuck := true }
/-- What a device does, as one: where a stack holds back some access of it, none of it happens yet, and it tries again (R237; log 20). -/
def Mach.orWait (m : Mach) (again act : Mach → Mach) : Mach :=
  let m' := act { m with stuck := false }
  if m'.stuck then again { m with hotQueue := m'.hotQueue, remote := m'.remote } else m'
/-- Read `n` bytes for an agent of no partition, line by line; none where an address faults or data fail their check. -/
def Mach.busRead (mem : Memory) (m : Mach) (pa n : Nat) : Nat → Option (List Byte) × Mach
  | 0 => (some [], m)
  | k + 1 =>
    if n = 0 then (some [], m)
    else
      let j := min n (128 - pa % 128)
      match m.reach noPart pa with
      | .fault _ => (none, m)
      | .held => (none, m.busStuck pa)
      | .ok =>
        let (b, bad, m) := m.devRead mem noPart pa j
        match m.busRead mem (pa + j) (n - j) k with
        | (some r, m) => (if bad then none else some (b ++ r), m)
        | (none, m) => (none, m)
/-- Write bytes for an agent of a partition, line by line; false where an address faults. -/
def Mach.busPut (mem : Memory) (m : Mach) (q pa : Nat) (b : List Byte) : Nat → Bool × Mach
  | 0 => (true, m)
  | k + 1 =>
    if b = [] then (true, m)
    else
      let j := min b.length (128 - pa % 128)
      match m.reach q pa true with
      | .fault _ => (false, m)
      | .held => (false, m.busStuck pa)
      | .ok =>
        let (ok, m) := m.devWrite mem q pa (b.take j)
        let (ok', m) := m.busPut mem q (pa + j) (b.drop j) k
        (ok && ok', m)
/-- Read `n` bytes for a device. -/
def Mach.devGet (mem : Memory) (m : Mach) (pa n : Nat) : Option (List Byte) × Mach := m.busRead mem pa n (n / 128 + 2)
/-- Write bytes for a device. -/
def Mach.devPut (mem : Memory) (m : Mach) (pa : Nat) (b : List Byte) : Bool × Mach := m.busPut mem noPart pa b (b.length / 128 + 2)

end Sys2Proof.Machine
end

