-- ==== Sys2Proof/Machine/Log.lean ====
section
/-! DEFINITION. The operand log: SPILL, FILL, LDIO and STIO, OPERAND_LOG_ACCESS, and the two replies to a logged fault (R83,
R84, R89, R90, R186, R189, R190, R194, R337, R359, R382, R387). -/
namespace Sys2Proof.Machine

/-! ## Issue -/

/-- The lowest free entry number of a warp's log, if it has one (R189). -/
def Warp.freeLog (x : Warp) : Option Nat := ((List.range 4).filter (fun i => !x.log.any (fun e => e.num = i))).head?
/-- An entry is taken at issue (R189). -/
def Mach.takeEntry (m : Mach) (f : Nat → Nat → LogEntry) : Mach :=
  match m.cw.freeLog with
  | none => m.notIssued
  | some n =>
    let (id, m) := m.fresh
    m.modCw (fun x => { x with log := x.log ++ [f id n] })
/-- The base of a warp's spill slot (R83): slot `j` of lane 0. -/
def Mach.spillVa (m : Mach) (h w j : Nat) : Nat := (m.warp h w).spillPtr + 128 * j
/-- SPILL and FILL at issue (R84, R337, R382). -/
def spillWord (store : Bool) (t : BitVec 6) (a : BitVec 6) (o : BitVec 4) (z : BitVec 3) (hint : BitVec 2) : Act := fun _ m =>
  let act := m.active 0
  let n := sizeOf z / 4
  let j := (m.s a.toNat).toNat + o.toNat * n
  let va := m.spillVa m.cur.ham m.cur.warp j
  let l := (lowestLane act).getD 0
  if j + n > m.cb.spill then
    m.trap 3 4 (word (va + 4 * l)) (memD1 ((va + 4 * l) / 2 ^ 32) l 3 store) act
  else if m.cw.freeLog = none then m.notIssued
  else if act = 0 then m
  else
    let lines := List.range n
    let m := m.modCw (fun x => lines.foldl (fun x i => x.touch (va + 128 * i)) x)
    let data : SMap (List Byte) :=
      if store then lines.flatMap (fun i => (lanesOf act).map (fun l => (32 * i + l, leBytes 4 (m.v (t.toNat + i) l).toNat)))
      else []
    let (pends, m) := lines.foldl (fun (acc : List Nat × Mach) i =>
      if store then acc
      else
        let (id, m) := acc.2.varPend .v [t.toNat + i] act [] none
        (acc.1 ++ [id], m)) ([], m)
    m.takeEntry (fun id num =>
      { id, num, store, io := false, word := m.cur.word, pc := m.cur.pc, mask := act, todo := word (2 ^ n - 1), reg := t.toNat,
        size := 4 * n, slot := j, hint := hint.toNat, addrs := lines.map (fun i => (i, va + 128 * i)), data, pends,
        issue := m.now, land := m.now })
/-- SPILL (R381, R382). -/
def execSpill (_ : Hdr) (t a : BitVec 6) (o : BitVec 4) (z : BitVec 3) (h1 : BitVec 2) (s : State) :=
  lift (spillWord true t a o z h1) s
/-- FILL (R336, R337). -/
def execFill (_ : Hdr) (t a : BitVec 6) (o : BitVec 4) (z : BitVec 3) (h1 : BitVec 2) (s : State) :=
  lift (spillWord false t a o z h1) s

/-- A 48-bit virtual address as 64 bits (R191). -/
def va64 (a : Nat) : Nat := if a.testBit 47 then a + (2 ^ 64 - 2 ^ 48) else a
/-- R90: every byte of [va, va + n) lies in one enabled I/O window of the context slot that permits the direction. -/
def Mach.inWindow (m : Mach) (h c va n : Nat) (store : Bool) : Bool :=
  (List.range 4).any (fun i =>
    let r (k : Nat) := m.reg (hamReg h (0x400 + 0x40 * c + 0x10 * i + k))
    let base := va64 (wbits (r 0) 12 20 * 4096 + wbits (r 4) 0 16 * 2 ^ 32)
    wbit (r 0xC) 0 && wbit (r 0xC) (if store then 2 else 1) && base ≤ va && va + n ≤ base + wbits (r 8) 0 20 * 4096)
/-- LDIO and STIO at issue (R90, R359, R387): the window check, alignment, then an entry of the log. They count in the line-touch filter:
R54 names the address by which an I/O access is tagged, though R53 does not list its kinds (DEDUCED, log 23). -/
def ioWord (store : Bool) (t a : BitVec 6) (o : BitVec 4) (z : BitVec 3) : Act := fun _ m =>
  let act := m.active 0
  let size := sizeOf z
  let va (l : Nat) : Nat := ((m.v2 a.toNat l).toNat + o.toNat * size) % 2 ^ 64
  let out := maskOf (fun l => wbit act l && !m.inWindow m.cur.ham m.cb.ctx (va l) size store)
  let mis := maskOf (fun l => wbit act l && va l % size != 0)
  match lowestLane out, lowestLane mis with
  | some l, _ => m.trap 1 7 m.cur.word (word (va l)) (word (va l / 2 ^ 32 % 2 ^ 16 + l * 2 ^ 16))
  | none, some l => m.trap 3 3 (word (va l)) (memD1 (va l / 2 ^ 32) l 4 store) mis
  | none, none =>
    if m.cw.freeLog = none then m.notIssued
    else if act = 0 then m
    else
      let m := m.modCw (fun x => (lanesOf act).foldl (fun x l => x.touch (va l)) x)
      let (pends, m) : List Nat × Mach :=
        if store then ([], m) else let (id, m) := m.readPend (memRegs z t) act [] none; ([id], m)
      m.takeEntry (fun id num =>
        { id, num, store, io := true, word := m.cur.word, pc := m.cur.pc, mask := act, todo := act, reg := t.toNat, size,
          addrs := (lanesOf act).map (fun l => (l, va l)),
          data := if store then (lanesOf act).map (fun l => (l, m.storeBytes t.toNat size l)) else [],
          pends, issue := m.now, land := m.now })
/-- LDIO (R357 to R359). -/
def execLdio (_ : Hdr) (t a : BitVec 6) (o : BitVec 4) (z : BitVec 3) (s : State) := lift (ioWord false t a o z) s
/-- STIO (R385 to R387). -/
def execStio (_ : Hdr) (t a : BitVec 6) (o : BitVec 4) (z : BitVec 3) (s : State) := lift (ioWord true t a o z) s

/-! ## Access -/

/-- The lanes of a part that are still to be accessed: the lane of an LDIO or STIO, those of a line of a SPILL or FILL. -/
def LogEntry.lanes (e : LogEntry) (p : Nat) : Word := if e.io then laneBit p else e.left.get e.mask p
/-- The entry's own access is over: nothing is left to do and nothing is faulted. -/
def LogEntry.over (e : LogEntry) : Bool := e.todo == 0 && e.fparts == 0
/-- The slots of two SPILL or FILL entries meet in some lane (R189). -/
def LogEntry.meets (e f : LogEntry) : Bool :=
  e.slot < f.slot + f.size / 4 && f.slot < e.slot + e.size / 4 && (e.mask &&& f.mask) != 0
/-- The entry may try its access now: R189's order, and no walk of it in flight. A SPILL or FILL waits until an older one of its slots has been
freed. -/
def Warp.logReady (x : Warp) (now : Nat) (e : LogEntry) : Bool :=
  e.due ≤ now && e.freeAt.isNone && e.walking == 0 && e.fparts == 0 && e.todo != 0 &&
  (x.log.takeWhile (fun f => f.id ≠ e.id)).all (fun f => f.io != e.io || (if e.io then f.over else !f.meets e))
/-- The cycle by which the lines of a SPILL or FILL have come that other entries of the warp have brought for other lanes (R337): those are
freed then. -/
def Warp.linesCome (x : Warp) (e : LogEntry) : Nat :=
  maxOf ((x.log.filter (fun f => f.id ≠ e.id && !f.io && !e.io && f.slot < e.slot + e.size / 4 && e.slot < f.slot + f.size / 4)).map
    (fun f => f.freeAt.getD 0))
/-- Change an entry of a warp's log. -/
def Mach.modEntry (m : Mach) (h w id : Nat) (f : LogEntry → LogEntry) : Mach :=
  m.modWarp h w (fun x => { x with log := updateFirst (fun e => e.id = id) f x.log })
/-- An entry is freed: the lanes it parked become ready at their program counters, but for those that another entry has parked as well, or
an aborted one, whose lanes stay parked until R197 (R190). -/
def Warp.freeEntry (x : Warp) (id now : Nat) : Warp :=
  match x.log.find? (fun e => e.id = id) with
  | none => x
  | some e =>
    let x := { x with log := x.log.filter (fun e => e.id ≠ id) }
    let other := x.log.foldl (fun a f => a ||| f.parked) x.aborted
    (lanesOf (e.parked &&& ~~~other)).foldl (fun x l => if (x.lane l).st == .parked .logged then x.releaseLane now l else x) x
/-- Free the entries of a warp whose cycle has come. -/
def Warp.freeLogs (x : Warp) (now : Nat) : Warp :=
  (x.log.filter (fun e => match e.freeAt with | some t => t ≤ now | none => false)).foldl (fun x e => x.freeEntry e.id now) x

/-- Where each part of an entry's access goes: translated, faulting, or waiting for a walk (R190 to R192). -/
def Mach.logXlat (m : Mach) (h w : Nat) (e : LogEntry) (p : Nat) : Xlat :=
  match e.found.get? p with
  | some c => .fault c
  | none => m.translate h (m.warpCtx h w) (e.addrs.get 0 p) (if e.store then .store else .load)

/-- The line of its partition's Commons, by die, that a lane of an LDIO or STIO reaches through a view (R90, R240). -/
def Mach.ioLine (m : Mach) (h w : Nat) (e : LogEntry) (l : Nat) : Option (Nat × Nat) :=
  match m.logXlat h w e l with
  | .hit pa => match m.target (m.partHam h) pa with
    | .commons q d x => if q = m.partHam h then some (d, x / 128) else none
    | _ => none
  | _ => none
/-- A lane's LDIO or STIO in the log may meet a line of Commons, so that an access of the lane to it, which goes another way, does not issue
before it is done (R157; DEDUCED, log 23). -/
def Mach.ioBefore (m : Mach) (h w l die x : Nat) : Bool :=
  (m.warp h w).log.any (fun e => e.io && wbit e.todo l && (m.logXlat h w e l == .miss || m.ioLine h w e l = some (die, x / 128)))
/-- An access of the hamlet to the line, issued before an LDIO or STIO, is still to be performed at its home: the LDIO or STIO waits for it
(R157; DEDUCED, log 23). -/
def Mach.ioWaits (m : Mach) (h w : Nat) (e : LogEntry) (l : Nat) : Bool :=
  e.io && match m.ioLine h w e l with
  | some (d, line) => m.reqs.any (fun r => r.ham = h && r.kind.home && r.die = d && r.line = line && r.stage < 3 && r.id < e.id)
  | none => false

/-- The journey of a request made now to a slice by the bridges of an index, with network cycles spent there, and of its reply (R16, R28). -/
def Mach.sliceTrip (m : Mach) (h s i cycles : Nat) : Trip × Mach :=
  let (t, m) := m.setOut (hamParish h) 10 (routeOf i (hamRouter h) (sliceRouter s))
  let (back, m) := m.spans (sliceParish s) (routeOf i (sliceRouter s) (hamRouter h))
  ({ t with spans := t.spans ++ [.net (sliceParish s) cycles] ++ back ++ [.net (hamParish h) 10] }, m)
/-- The journey to the home slice of a physical address and back (R16, R28). -/
def Mach.roundTrip (m : Mach) (h pa cycles : Nat) : Trip × Mach :=
  m.sliceTrip h (m.homeSlice (m.partHam h) pa) (pa / 256 % 4) cycles
/-- A journey with a wait of no fixed time at its end (R92, R292; log 11). -/
def Mach.openEnd (m : Mach) (t : Trip) : Trip × Mach :=
  let (k, m) := m.someTime 0
  ({ t with spans := t.spans ++ [.units (k * cycleUnits)] }, m)
/-- The journey of a line's data from its home, as an LDC's would be (R337); a line that the slice must fill has no fixed time
(log 11). -/
def Mach.homeTime (m : Mach) (h pa : Nat) : Trip × Mach :=
  let q := m.partHam h
  let here := (m.sliceLine (m.homeSlice q pa) pa).isSome
  let (t, m) := m.roundTrip h pa 28
  if here then (t, m) else m.openEnd t
/-- A part of an access that is done at a cycle. -/
def doneAt (t : Nat) : Trip := { start := t * cycleUnits }

/-- One line of a SPILL at a physical address (R382): its fault, if any, and the journey at whose end it is done. -/
def Mach.spillLine (mem : Memory) (m : Mach) (h w : Nat) (e : LogEntry) (p pa : Nat) : Option Cause × Trip × Mach :=
  let va := e.addrs.get 0 p
  let c := m.warpCtx h w
  let num := (m.ctx h c).num
  let at' := pa / 128 * 128
  let lanes := lanesOf e.mask
  let put (m : Mach) (k : Nat) : Mach := lanes.foldl (fun m l => m.store (k + 4 * l) (e.data.get [] (32 * p + l))) m
  let cure (m : Mach) (k : Nat) : Mach :=
    { m with poison := m.poison.filter (fun x => !lanes.any (fun l => (k + 4 * l) / 8 = x)) }
  let dirty (x : L1Line) : L1Line := { x with dirty := true, hint := e.hint }
  let setDirty (m : Mach) (t : Nat) : Mach :=
    m.modHam h (fun y => { y with l1 := updateFirst (fun x => x.kind = 0 && x.tag = t && x.ctx = num && x.pa = at') dirty y.l1 })
  match m.l1Find h 0 0 (va / 128) num at' with
  | some x =>
    let k := x.key h
    if e.size = 4 && lanes.any (fun l => m.badStore (k + 4 * l) 4) then (some badData, {}, m)
    else
      let m := m.l1Use h x
      (none, doneAt (e.issue + 30), setDirty (cure (put m k) k) (va / 128))
  | none =>
    let line : L1Line :=
      { kind := 0, tag := va / 128, ctx := num, gran := 0, filler := (m.warp h w).placed, pa := at', hint := e.hint, occ := m.occOf h c }
    let m := m.l1Missed h w 0 0 (va / 128)
    let place (m : Mach) (t : Trip) : Option Cause × Trip × Mach :=
      match m.l1Find h 0 0 (va / 128) num at' with
      | some x => (none, t, setDirty (put m (x.key h)) (va / 128))
      | none => (none, t, m)
    if e.mask = 0xFFFFFFFF then place (m.l1Fill mem h line (leBytes 128 0)) (doneAt (e.issue + 30))
    else
      let (t, m) := m.homeTime h pa
      let q := m.partHam h
      let (b, bad, m) := m.memRead mem q at' 128 e.hint (m.occOf h c)
      let words := (List.range 16).filter (fun i => (m.memRead mem q (at' + 8 * i) 8 e.hint (m.occOf h c)).2.1)
      if bad && (e.size = 4 || words.any (fun i => !lanes.any (fun l => l / 2 = i))) then (some badData, {}, m)
      else place (m.l1Fill mem h line b) t
/-- One line of a FILL at a physical address (R337): its lanes whose words fail their check (R194), the journey that brings its data, and
the other lanes' words. A fetched line with a failing word is delivered, and not kept (DESIGN CHOICE, log 23). -/
def Mach.fillLine (mem : Memory) (m : Mach) (h w : Nat) (e : LogEntry) (p pa : Nat) : Word × Trip × SMap Word × Mach :=
  let va := e.addrs.get 0 p
  let c := m.warpCtx h w
  let num := (m.ctx h c).num
  let at' := pa / 128 * 128
  let lanes := lanesOf (e.lanes p)
  let reg := e.reg + p
  let vals (ok : Nat → Bool) (f : Nat → Word) : SMap Word := (lanes.filter ok).map (fun l => (32 * reg + l, f l))
  match m.l1Find h 0 0 (va / 128) num at' with
  | some x =>
    let k := x.key h
    let bad (l : Nat) : Bool := m.bad (k + 4 * l) 4
    let m := lanes.foldl (fun m l => m.seen (k + 4 * l) 4) m
    (maskOf (fun l => lanes.contains l && bad l), doneAt (e.issue + 30),
      vals (fun l => !bad l) (fun l => leWord (m.rdN mem (k + 4 * l) 4)), m.l1Use h x)
  | none =>
    let line : L1Line :=
      { kind := 0, tag := va / 128, ctx := num, gran := 0, filler := (m.warp h w).placed, pa := at', hint := e.hint, occ := m.occOf h c }
    let m := m.l1Missed h w 0 0 (va / 128)
    let (t, m) := m.homeTime h pa
    let q := m.partHam h
    let (b, bad, m) := m.memRead mem q line.pa 128 e.hint (m.occOf h c)
    let fails (l : Nat) : Bool := bad && (m.memRead mem q (line.pa + 4 * l) 4 e.hint (m.occOf h c)).2.1
    (maskOf (fun l => lanes.contains l && fails l), t, vals (fun l => !fails l) (fun l => wordAt b (4 * l)),
      if bad then m else m.l1Fill mem h line b)
/-- One lane of an LDIO or STIO at a physical address (R90, R359, R387). A line of Commons that it reaches at its home leaves the hamlet's first
level, so that no later load of the lane finds an older value there (R157; DEDUCED, log 23). -/
def Mach.ioLane (mem : Memory) (m : Mach) (h : Nat) (e : LogEntry) (l pa : Nat) : Option Cause × SMap Word × Mach :=
  let q := m.partHam h
  let m := match m.target q pa with
    | .commons _ d x => m.invalidateLine h d (x / 128)
    | _ => m
  match m.reach q pa e.store with
  | .fault c => (some c, [], m)
  | _ =>
    if e.store then
      let (ok, m) := m.devWrite mem q pa (e.data.get [] l)
      (if ok then none else some badData, [], m)
    else
      let (b, bad, m) := m.devRead mem q pa e.size
      (if bad then some badData else none, loadRegs e.reg l b, m)

/-- A fault of a part of an entry: the part, its lanes, the cause. -/
abbrev PartFault := Nat × Word × Cause
/-- The parts that faulted are marked and reported (R190): the faulting lanes that are ready are parked, those that are held will be at their
release, and those that are parked already are none of this entry's. Where parts fault for different causes the one report names the cause and
the address of the lowest (DESIGN CHOICE, log 23). -/
def Mach.logFault (m : Mach) (h w : Nat) (e : LogEntry) (fails : List PartFault) : Mach :=
  match fails with
  | [] => m
  | (p, first, c) :: _ =>
    let fparts := maskOf (fun i => fails.any (fun f => f.1 = i))
    let lanes := fails.foldl (fun a f => a ||| f.2.1) 0
    let left : SMap Word := if e.io then [] else fails.map (fun f => (f.1, f.2.1))
    let va := e.addrs.get 0 p + if e.io then 0 else 4 * (lowestLane first).getD 0
    let x := m.warp h w
    let ready := lanes &&& x.readyMask
    let mine := lanes &&& x.lanesIn (fun s => match s with | .ready => true | .held _ => true | _ => false)
    let m := m.modWarp h w (fun x => x.park ready .logged)
    let m := m.modEntry h w e.id (fun e => { e with fparts, left, todo := fparts, faulted := lanes, parked := e.parked ||| mine, found := [] })
    m.fqPush h m.now
      { w0 := fqWord0 (c / 256) (c % 256) w (m.warpCtx h w) 0 e.store, w1 := lanes, w2 := word va,
        w3 := word (va / 2 ^ 32 % 2 ^ 16 + e.num * 2 ^ 16), rep := .log w e.id }
/-- An entry whose parts have all completed is freed at a cycle, at once if it has come. -/
def Mach.logDone (m : Mach) (h w id at' : Nat) : Mach :=
  let m := m.modEntry h w id (fun e => { e with todo := 0, freeAt := some at' })
  if at' ≤ m.now then m.modWarp h w (fun x => x.freeEntry id m.now) else m
/-- What one try of an entry has come to: faults, the journeys of its parts, state. -/
abbrev Tried := List PartFault × List Trip × Mach
/-- The cycle at which the parts of an entry are all done, and no earlier than `t`. -/
def Mach.lastOf (m : Mach) (t : Nat) (l : List Trip) : Nat := l.foldl (fun a x => max a (m.tripDue x)) t
/-- The cycle at which an entry's parts are done: a FILL's registers, one behind the other, follow the last line (R337). -/
def Mach.logEnd (m : Mach) (e : LogEntry) : Nat :=
  m.lastOf 0 e.trips + if e.io || e.store then 0 else e.size / 4 - 1
/-- A line of a SPILL or FILL is in the first level, or is written there whole, so that nothing is asked of its stack (R237). -/
def Mach.l1Holds (m : Mach) (h w : Nat) (e : LogEntry) (p pa : Nat) : Bool :=
  !e.io && ((m.l1Find h 0 0 (e.addrs.get 0 p / 128) (m.ctx h (m.warpCtx h w)).num (pa / 128 * 128)).isSome ||
    (e.store && e.mask = 0xFFFFFFFF))
/-- OPERAND_LOG_ACCESS (R189, R190): the entry's remaining parts are translated; when none waits for a walk, those that can are
accessed, and the others are reported. -/
def logAccess (h w id : Nat) : Act := fun mem m =>
  let x := m.warp h w
  match x.log.find? (fun e => e.id = id) with
  | none => m
  | some e =>
    if !x.logReady m.now e then m
    else
      let parts := lanesOf e.todo
      let acc : Access := if e.store then .store else .load
      let misses := parts.filter (fun p => m.logXlat h w e p == .miss)
      let pas := parts.filterMap (fun p => match m.logXlat h w e p with | .hit pa => some (p, pa) | _ => none)
      let faults := parts.filterMap (fun p => match m.logXlat h w e p with | .fault c => some (p, e.lanes p, c) | _ => none)
      let q := m.partHam h
      if misses ≠ [] then
        misses.foldl (fun m p =>
          let (ok, m) := m.startWalk h (m.warpCtx h w) (e.addrs.get 0 p) (.log w id p) acc
          m.modEntry h w id (fun e => if ok then { e with walking := e.walking ||| laneBit p } else { e with due := m.now + 1 })) m
      else if pas.any (fun x => m.reach q x.2 (e.store && e.io) == .held && !m.l1Holds h w e x.1 x.2 || m.ioWaits h w e x.1) then ((pas.filter (fun x => !m.l1Holds h w e x.1 x.2)).foldl (fun m x => m.hotWait x.2) m).modEntry h w id (fun e => { e with due := m.now + 1 })
      else
        let start : Tried := (faults, [doneAt m.now], m)
        let (fails, trips, m) := pas.foldl (fun (a : Tried) x =>
          let (fails, t, m) := a
          if e.io then
            match m.ioLane mem h e x.1 x.2 with
            | (some c, _, m) => (fails ++ [(x.1, e.lanes x.1, c)], t, m)
            | (none, vals, m) =>
              if e.store then (fails, t, m)
              else
                let (t', m) := m.someTime (m.now + 1)
                (fails, doneAt t' :: t, m.resolveLane h w (e.pends.headD 0) x.1 vals t')
          else match m.reach q x.2 e.store with
            | .fault c => (fails ++ [(x.1, e.lanes x.1, c)], t, m)
            | _ =>
              if e.store then
                match m.spillLine mem h w e x.1 x.2 with
                | (some c, _, m) => (fails ++ [(x.1, e.lanes x.1, c)], t, m)
                | (none, t', m) => (fails, t' :: t, m)
              else
                match m.fillLine mem h w e x.1 x.2 with
                | (bad, t', vals, m) =>
                  let f : Pend → Pend := fun p => { p with vals := p.vals ++ vals }
                  (if bad = 0 then fails else fails ++ [(x.1, bad, badData)], t' :: t, m.modWarp h w (fun y =>
                    { y with pends := updateFirst (fun p => p.id = e.pends.getD x.1 0) f y.pends }))) start
        let fails := sortBy (·.1) fails
        let done := pas.filter (fun x => !fails.any (fun f => f.1 = x.1))
        let at' := max (m.logEnd { e with trips }) ((m.warp h w).linesCome e)
        let m := m.modEntry h w id (fun e => { e with trips })
        let m := if e.io || e.store then m else
          pas.foldl (fun m x =>
            let id := e.pends.getD x.1 0
            if done.contains x then m.resolve h w id [] (max at' (m.now + 1))
            else
              let bad := fails.foldl (fun a f => if f.1 = x.1 then a ||| f.2.1 else a) 0
              (lanesOf (e.lanes x.1 &&& ~~~bad)).foldl (fun m l => m.resolveLane h w id l [] (max at' (m.now + 1))) m) m
        if fails ≠ [] then m.logFault h w e fails else m.logDone h w id (max at' m.now)
/-- OPERAND_LOG_ACCESS. -/
def execOperandLogAccess (ham warp entry : Nat) (s : State) := lift (logAccess ham warp entry) s

/-! ## Replies to a logged fault (R190) -/

/-- An entry whose faulted part is to be reissued. -/
def LogEntry.again (e : LogEntry) (now : Nat) : LogEntry := { e with fparts := 0, faulted := 0, found := [], due := now }
/-- Retry: only the faulted part is reissued. -/
def Mach.logRetry (m : Mach) (h w id : Nat) : Mach := m.modEntry h w id (fun e => e.again m.now)
/-- The lanes of an outstanding write of an entry that its faulted part was to give. -/
def LogEntry.lost (e : LogEntry) (p : Pend) : Word :=
  if e.io then (if e.pends.contains p.id then e.fparts else 0)
  else (lanesOf e.fparts).foldl (fun a i => if e.pends.getD i 0 = p.id then a ||| e.lanes i else a) 0
/-- Abort: the faulted part's data are discarded, and its lanes stay parked until R197 resumes them. What the other lanes and lines have loaded
stands. -/
def Mach.logAbort (m : Mach) (h w id : Nat) : Mach :=
  m.modWarp h w (fun x =>
    match x.log.find? (fun e => e.id = id) with
    | none => x
    | some e =>
      let keep (p : Pend) : Option Pend :=
        let lost := e.lost p
        if lost = 0 then some p else if p.mask &&& ~~~lost = 0 then none else some (p.only (p.mask &&& ~~~lost))
      { x with log := x.log.filter (fun f => f.id ≠ id), pends := x.pends.filterMap keep,
               aborted := x.aborted ||| (e.parked &&& x.lanesIn (· == .parked .logged)) })

end Sys2Proof.Machine
end

