-- ==== Sys2Proof/Machine/Order.lean ====
section
/-! DEFINITION. FENCE, ATOM, and their releases (R82, R163, R164, R168 to R172, R273, R298 to R301, R335). -/
namespace Sys2Proof.Machine

/-! ## Conditions of a fence (R164) -/

/-- Every read and RMW of the lanes that was issued before number `before` has returned its value. -/
def Warp.readsBack (x : Warp) (mask : Word) (before : Nat) : Bool :=
  !x.pends.any (fun p => p.read && p.id < before && (p.mask &&& mask) != 0)
/-- Every write and RMW of the lanes issued before is performed at the scope; at CLU scope or wider, also every Commons store that
has entered the hamlet's store path before (R164). Commands are not waited for, but their writes in the store path are, which a lane may
have observed there or an edge of R114 have put before it (R167, R168; DEDUCED, log 23). -/
def Mach.writesDone (m : Mach) (h w : Nat) (mask : Word) (before scope : Nat) : Bool :=
  let mine (r : Req) : Bool := r.ack.isNone && r.warp = w && r.lanes.any (fun e => wbit mask e.1)
  let open' (r : Req) : Bool :=
    r.ham = h && r.id < before && r.stage < 3 &&
    (match r.kind with
      | .store => scope ≥ 1
      | .rmw | .sstore | .srmw => mine r
      | _ => false)
  !m.reqs.any open' &&
  !(m.warp h w).log.any (fun e => e.io && e.store && e.id < before && !e.over && (e.mask &&& mask) != 0)
/-- Sequencer mode (R169). -/
def Mach.sequencer (m : Mach) : Bool := wbit (m.reg (netReg 0 0x80)) 0
/-- An SC operation takes a ticket in sequencer mode (R169). -/
def Mach.ticket (m : Mach) : Mach :=
  if m.sequencer then m.setReg (netReg 0 0x84) (m.reg (netReg 0 0x84) + 1) else m
/-- The scope at which an operation is performed: an SC operation in sequencer mode at PKG or wider (R169). -/
def Mach.scopeOf (m : Mach) (kind scope : Nat) : Nat := if kind = 3 && m.sequencer then max scope 3 else scope
/-- R164: the condition of a fence of a kind (0 ACQ, 1 REL, 2 AR, 3 SC). -/
def Mach.fenceMet (m : Mach) (h w : Nat) (mask : Word) (before kind scope : Nat) : Bool :=
  (kind = 1 || (m.warp h w).readsBack mask before) &&
  (kind = 0 || m.writesDone h w mask before (m.scopeOf kind scope))

/-! ## Holding a group (R299, R335) -/

/-- A word whose effect is not lane by lane: it takes effect once for its group (R262), so the part of its bundle that a hold leaves free
does not run it. -/
def wholeWord (i : Instr) : Bool :=
  (form i).sd != [] || (form i).pipe == .x ||
  match i with
  | .kand .. | .kor .. | .kxor .. | .kandn .. | .knot .. | .kmov .. | .stok .. => true
  | _ => false
/-- Hold the active lanes where they go on; the later words of the group take effect for them at the release, for the other lanes now, and
a word whose effect is not lane by lane at the release alone (R262, R335). -/
def Mach.holdGroup (m : Mach) (act : Word) (why : Hold) (kind scope : Nat) (atom : Option AtomJob) : Mach :=
  let snap := m.snapshot m.cur.rest
  let (mm, m) := if m.cur.snap.isSome then (snap.mm, m) else (m.reserveRecord snap.record).mmReserve m.cur.rest
  let snap := { snap with mm }
  let f : FenceHold :=
    { mask := act, all := m.cur.all ||| m.cur.bundle, kind, scope, issue := m.cur.issued, before := m.nextId, rest := m.cur.rest,
      succ := m.cur.succ, snap, fpmode := m.cur.fpmode, head := m.cur.head, others := m.cur.others, atom, enc := m.cur.enc }
  let m := m.modCw (fun x => { x.holdHere act why with fences := x.fences ++ [f] })
  let others := m.cur.bundle &&& ~~~act
  let g : Withheld :=
    { due := m.now, issued := m.cur.issued, bundle := others, all := f.all, atOnce := m.cur.atOnce, before := f.before,
      words := m.cur.rest.filter (fun e => !wholeWord (instrOf e.2)), succ := m.cur.succ, snap := { snap with record := none },
      fpmode := m.cur.fpmode, head := m.cur.head, others := m.cur.others, enc := m.cur.enc, begun := true }
  let m := if others = 0 ∨ (m.cur.rest = [] ∧ m.cur.enc = none) then m else m.modCw (fun x => { x with withheld := x.withheld ++ [g] })
  { m with cur := { m.cur with stop := true } }
/-- Release the lanes of a hold at a cycle, and give the step the later words of their group (R335), or its step trap (R224). -/
def Mach.letGo (m : Mach) (h w : Nat) (f : FenceHold) (after : Nat) : Mach :=
  m.modWarp h w (fun x =>
    let held := f.mask &&& x.lanesIn (fun s => s == .held .fence || s == .held .atom)
    let g : Withheld :=
      { due := max m.now after, issued := f.issue, bundle := held, all := f.all, atOnce := false, words := f.rest, succ := f.succ,
        snap := f.snap, fpmode := f.fpmode, head := f.head, others := f.others, enc := f.enc, begun := true, before := f.before }
    let x := { x with fences := x.fences.filter (fun y => y ≠ f) }
    let x := x.release held (max after (f.issue + 4))
    if f.rest = [] ∧ f.enc = none ∧ !wbit (m.reg (wctlReg h w)) 0 then x else { x with withheld := x.withheld ++ [g] })

/-- FENCE (R163, R164, R335). -/
def execFence (_ : Hdr) (sc : BitVec 3) (k : BitVec 2) (g : BitVec 3) (s : State) :=
  lift (fun _ m =>
    let act := m.active g.toNat
    if act = 0 then m else m.holdGroup act .fence k.toNat sc.toNat none) s
/-- The first hold of a warp, of fences or of ordered atomics, that may end. -/
def Mach.fenceDue (m : Mach) (h w : Nat) : Option FenceHold :=
  (m.warp h w).fences.find? (fun f => f.atom.isNone && m.fenceMet h w f.mask f.before f.kind f.scope)
/-- FENCE_RELEASE (R82, R164, R169). -/
def execFenceRelease (ham warp : Nat) (s : State) :=
  lift (fun _ m =>
    match m.fenceDue ham warp with
    | none => m
    | some f =>
      let scope := m.scopeOf f.kind f.scope
      let m := if f.kind = 3 then m.ticket else m
      let m := if f.kind ≠ 1 ∧ scope ≥ 1 then m.invalidateCommons ham else m
      m.letGo ham warp f m.now) s

/-! ## ATOM (R273, R299 to R301) -/

/-- Send the RMWs of an ATOM on Commons (R170, R300): in the first level under SO 1 where the line is present, else at the home,
which invalidates the hamlet's copy. -/
def Mach.sendAtom (mem : Memory) (m : Mach) (h w : Nat) (j : AtomJob) (so die reg ctx : Nat) : Mach :=
  let r : Req :=
    { id := 0, kind := .rmw, ham := h, warp := w, pend := j.pend, tag := m.partHam h, home := 0, due := 0, die, op := j.op,
      reg, ctx, pc := j.pc, word := j.word, addrs := j.addrs }
  let near (l : Nat × Nat × Word × Word) : Bool := so = 1 && (m.l1Commons h die l.2.1).isSome
  let m := (j.lanes.filter near).foldl (fun m e =>
    match m.l1Commons h die e.2.1 with
    | none => m
    | some x =>
      let old := leWord (m.rdN mem (x.key h + e.2.1 % 128) 4)
      let new := atomNew j.op old e.2.2.1 e.2.2.2
      let m := m.enterPath (m.partHam h) { r with kind := .store, pend := 0 } [(e.1, e.2.1, leBytes 4 new.toNat)]
      m.resolveLane h w j.pend e.1 [(32 * reg + e.1, old)] (m.now + 34)) m
  let far : List (Nat × Nat × List Byte) := (j.lanes.filter (fun e => !near e)).map (fun e =>
    (e.1, e.2.1, leBytes 4 e.2.2.1.toNat ++ leBytes 4 e.2.2.2.toNat))
  (linesOf far).foldl (fun m line =>
    let (id, m) := m.fresh
    (m.invalidateLine h die line).sendHome { r with
      id, line, home := (m.commonsAt (m.partHam h) die (128 * line)).1, lanes := far.filter (fun e => e.2.1 / 128 = line) }) m
/-- The lanes whose word some other lane of the ATOM also touches (R172). The lanes are those of the whole group: where a hold has split it,
each part finds the collision, and traps its own lanes when it runs (DESIGN CHOICE, log 23). -/
def colliding (act : Word) (place : Nat → Nat) : Word :=
  maskOf (fun l => wbit act l && (lanesOf act).any (fun j => j ≠ l && place j = place l))
/-- An ATOM word (R299): `op` is its function. One that waits before it is sent drops the hamlet's copies of its lines now (R170). -/
def atomWord (op : Nat) (t a b : BitVec 6) (so : BitVec 3) : Act := fun mem m =>
  let act := m.active 0
  let h := m.cur.ham
  let w := m.cur.warp
  let bl := m.cb
  let addr (l : Nat) := m.v a.toNat l
  let b1 (l : Nat) := m.v (b.toNat + 1) l
  let ops (l : Nat) : List Byte := leBytes 4 (m.v b.toNat l).toNat ++ leBytes 4 (if op = 8 then b1 l else 0).toNat
  if act = 0 then m
  else if so = 0 then
    match firstFail act (fun l => m.sharedCheck bl (addr l) 4) with
    | some (code, lanes) => m.trapMem code lanes addr (fun _ => 0) true
    | none =>
      let clash := colliding (m.activeAll 0) (fun l => sharedRank bl (addr l) * 2 ^ 18 + wbits (addr l) 0 18)
      let own := (lanesOf act).filter (fun l => sharedRank bl (addr l) = bl.rank)
      let key (l : Nat) := sharedKey h bl (wbits (addr l) 0 18)
      let bad := maskOf (fun l => wbit act l && m.bad (m.sharedPlace bl (addr l)) 4)
      if clash ≠ 0 then m.trapWord 5 3 0 clash
      else if bad ≠ 0 then m.trapData bad addr (fun _ => 0) true
      else
        let lat := 25 + waysOf 4 (own.map (fun l => wbits (addr l) 0 18))
        let (id, m) := m.readPend [t.toNat] act [] none
        let m := own.foldl (fun m l =>
          let (old, m) := m.rmwAt mem op (key l) (m.v b.toNat l) (b1 l)
          m.resolveLane h w id l [(32 * t.toNat + l, old)] (m.now + lat)) m
        m.sendShared { m.curReq .srmw 4 with pend := id, reg := t.toNat, op } act addr ops
  else
    match firstFail act (fun l => m.commonsCheck h bl.ctx false (addr l) 4 true) with
    | some (code, lanes) => m.trapMem code lanes addr (fun _ => 1) true
    | none =>
      let die := hamDie h
      let ox (l : Nat) := (m.commonsX h bl.ctx false (addr l)).2
      let clash := colliding (m.activeAll 0) ox
      let bad := maskOf (fun l => wbit act l && (match if so = 1 then m.l1Commons h die (ox l) else none with
        | some x => m.bad (x.key h + ox l % 128) 4
        | none => m.homeFails h die (ox l) 4 false))
      if clash ≠ 0 then m.trapWord 5 3 0 clash
      else if bad ≠ 0 then m.trapData bad addr (fun _ => 1) true
      else
        let (id, m) := m.readPend [t.toNat] act [] none
        let j : AtomJob :=
          { op, so := so.toNat, lanes := (lanesOf act).map (fun l => (l, ox l, m.v b.toNat l, if op = 8 then b1 l else 0)),
            addrs := (lanesOf act).map (fun l => (l, addr l)), pc := m.cur.pc, word := m.cur.word, pend := id,
            sent := so.toNat ≤ 3 }
        let m := if j.sent then m.sendAtom mem h w j so.toNat die t.toNat bl.ctx
          else (lanesOf act).foldl (fun m l => m.invalidateLine h die (ox l / 128)) m
        if so.toNat ≤ 2 then m
        else m.holdGroup act .atom (if so = 5 then 3 else 1) 2 (some j)
/-- ATOM.ADD (R273). -/
def execAtomAdd (_ : Hdr) (t a b : BitVec 6) (so : BitVec 3) (s : State) := lift (atomWord 0 t a b so) s
/-- ATOM.FADD (R128, R273). -/
def execAtomFadd (_ : Hdr) (t a b : BitVec 6) (so : BitVec 3) (s : State) := lift (atomWord 1 t a b so) s
/-- ATOM.MIN (R273). -/
def execAtomMin (_ : Hdr) (t a b : BitVec 6) (so : BitVec 3) (s : State) := lift (atomWord 2 t a b so) s
/-- ATOM.MAX (R273). -/
def execAtomMax (_ : Hdr) (t a b : BitVec 6) (so : BitVec 3) (s : State) := lift (atomWord 3 t a b so) s
/-- ATOM.AND (R273). -/
def execAtomAnd (_ : Hdr) (t a b : BitVec 6) (so : BitVec 3) (s : State) := lift (atomWord 4 t a b so) s
/-- ATOM.OR (R273). -/
def execAtomOr (_ : Hdr) (t a b : BitVec 6) (so : BitVec 3) (s : State) := lift (atomWord 5 t a b so) s
/-- ATOM.XOR (R273). -/
def execAtomXor (_ : Hdr) (t a b : BitVec 6) (so : BitVec 3) (s : State) := lift (atomWord 6 t a b so) s
/-- ATOM.EXCH (R273). -/
def execAtomExch (_ : Hdr) (t a b : BitVec 6) (so : BitVec 3) (s : State) := lift (atomWord 7 t a b so) s
/-- ATOM.CAS (R273). -/
def execAtomCas (_ : Hdr) (t a b : BitVec 6) (so : BitVec 3) (s : State) := lift (atomWord 8 t a b so) s
/-- ATOM.INC (R273). -/
def execAtomInc (_ : Hdr) (t a b : BitVec 6) (so : BitVec 3) (s : State) := lift (atomWord 9 t a b so) s

/-- The first ordered ATOM of a warp whose next wait is over (R299): unsent, its release condition holds; sent, every vT has
landed. -/
def Mach.atomDue (m : Mach) (h w : Nat) : Option (FenceHold × AtomJob) :=
  let x := m.warp h w
  (x.fences.filterMap (fun f => f.atom.map (fun j => (f, j)))).find? (fun e =>
    if e.2.sent then !x.pends.any (fun p => p.id = e.2.pend)
    else m.fenceMet h w e.1.mask e.2.pend e.1.kind e.1.scope)
/-- ORDERED_ATOM_RELEASE (R168, R299). -/
def orderedRelease (h w : Nat) : Act := fun mem m =>
  match m.atomDue h w with
  | none => m
  | some (f, j) =>
    if !j.sent then
      let reg := ((m.warp h w).pends.find? (fun p => p.id = j.pend)).map (fun p => p.regs.headD 0)
      let m := if j.so = 5 then m.ticket.invalidateCommons h else m
      let m := m.sendAtom mem h w j j.so (hamDie h) (reg.getD 0) (m.warpCtx h w)
      if j.so = 4 then m.letGo h w f (m.now + 4)
      else
        let g : FenceHold → FenceHold := fun y => { y with atom := some { j with sent := true } }
        m.modWarp h w (fun x => { x with fences := updateFirst (fun y => y = f) g x.fences })
    else (m.invalidateCommons h).letGo h w f (m.now + 4)
/-- ORDERED_ATOM_RELEASE. -/
def execOrderedAtomRelease (ham warp : Nat) (s : State) := lift (orderedRelease ham warp) s

end Sys2Proof.Machine
end

