-- ==== Sys2Proof/Machine/Barrier.lean ====
section
/-! DEFINITION. Barrier registers: the BAR family, command arrivals, and cluster barriers with their messages (R82, R108 to R111,
R165, R181, R302, R303). -/
namespace Sys2Proof.Machine

/-- Barrier `b` of a block: its own state while it is local; while it is attached to a hosted one, CL and the parity that the block has
seen (R110, R111). -/
def Block.bar (x : Block) (b : Nat) : Bar := x.bars.get { exp := 0 } b
/-- Change barrier `b` of a block. -/
def Mach.modBar (m : Mach) (h n b : Nat) (f : Bar → Bar) : Mach :=
  m.modBlock h n (fun x => { x with bars := x.bars.set b (f (x.bar b)) })
/-- The state of barrier `b`: of a block's own, or of the one that the block of rank 0 hosts (R111). -/
def Block.barOf (x : Block) (host : Bool) (b : Nat) : Bar := if host then x.hosts.get { exp := 0 } b else x.bar b
/-- Change that state. -/
def Mach.modBarOf (m : Mach) (h n : Nat) (host : Bool) (b : Nat) (f : Bar → Bar) : Mach :=
  if host then m.modBlock h n (fun x => { x with hosts := x.hosts.set b (f (x.barOf true b)) }) else m.modBar h n b f
/-- The warp slots of a block. -/
def Mach.warpsOf (m : Mach) (h n : Nat) : List Nat :=
  ((m.ham h).warps.filter (fun e => e.2.block = n && !e.2.ended)).map (·.1)
/-- The lanes of a warp held on barrier `b`. -/
def Warp.onBar (x : Warp) (b : Nat) : Word := maskOf (fun l => (x.lane l).st == .held .bwait && (x.lane l).arg = b)
/-- A command of the block that is queued or running names a barrier with ARV = 1 (R110). -/
def Mach.namesBar (m : Mach) (h n b : Nat) : Bool :=
  let x := m.ham h
  x.chans.any (fun e => e.2.any (fun c => c.block = n && c.arv && c.bar = b)) ||
  x.qeng.any (fun c => c.block = n && c.arv && c.bar = b) ||
  x.eng.q.any (fun c => c.block = n && c.arv && c.bar = b)

/-! ## Messages (R111, R398) -/

/-- The journey of a cluster-barrier message; a message of the host's own block takes no time. -/
def Mach.barTrip (m : Mach) (x : Msg) : Trip × Mach :=
  if x.src = x.dst then ({ start := m.now * cycleUnits }, m) else m.messageTrip x.src x.dst
/-- Two messages between the same hamlets. -/
def Msg.along (x y : Msg) : Bool := !x.own && !y.own && x.src = y.src && x.dst = y.dst
/-- A message with the times that a journey gives it: messages between two hamlets keep their order (R111). -/
def Mach.timedMsg (m : Mach) (earlier : List Msg) (x : Msg) : Msg :=
  let t := (earlier.filter (fun y => y.id ≠ x.id && y.along x && y.waits.isNone)).foldl (fun t y => max t y.at') (m.tripEnd x.trip)
  { x with at' := t, due := ceilDiv t cycleUnits }
/-- Send a cluster-barrier message, or let it wait for its release, or behind one that waits (R111, R165). -/
def Mach.sendBar (m : Mach) (x : Msg) : Mach :=
  let (id, m) := m.fresh
  if x.waits.isSome ∨ m.msgs.any (fun y => y.along x && y.waits.isSome) then
    { m with msgs := m.msgs ++ [{ x with id, waits := some (x.waits.getD 0) }] }
  else
    let (trip, m) := m.barTrip x
    { m with msgs := m.msgs ++ [m.timedMsg m.msgs { x with id, trip }] }
/-- A waiting message that may set out: every message before it between its hamlets has, and its lanes' writes issued before it are
performed at its scope (R164, R165). An arrival is a release, so it is sent when a FENCE.REL at CLU, or at BLK for a barrier of the block's own,
would let go (DEDUCED, log 23). -/
def Mach.msgDue (m : Mach) : Option Msg :=
  m.msgs.find? (fun x => match x.waits with
    | none => false
    | some b => m.writesDone x.src x.warp x.act b (if x.own then 0 else 1) && !m.msgs.any (fun y => y.id < x.id && y.along x && y.waits.isSome))
/-- That message sets out. -/
def Mach.depart (m : Mach) (id : Nat) : Mach :=
  match m.msgs.find? (fun x => x.id = id) with
  | none => m
  | some x =>
    let (trip, m) := m.barTrip x
    { m with msgs := updateFirst (fun y => y.id = id) (fun y => m.timedMsg m.msgs { y with trip, waits := none }) m.msgs }

/-! ## Arrivals and flips (R110, R111) -/

/-- A flip reaches a block: its held lanes may issue 4 cycles later, and a wait that completes a cluster barrier's phase
invalidates the first level (R82). -/
def Mach.flipped (m : Mach) (h n b : Nat) : Mach :=
  let ws := m.warpsOf h n
  let some' := ws.any (fun w => (m.warp h w).onBar b != 0)
  let cl := ((m.block h n).bar b).cl
  let m := ws.foldl (fun m w => m.modWarp h w (fun x => x.release (x.onBar b) (m.now + 4))) m
  if some' && cl then m.invalidateCommons h else m
/-- A flip that a hosted barrier carries to a block: one that has made the barrier local takes none (R110, R111). -/
def Mach.flipTo (m : Mach) (h n b : Nat) (ph : Bool) : Mach :=
  if ((m.block h n).bar b).cl then (m.modBar h n b (fun y => { y with ph })).flipped h n b else m
/-- arrive(b, n) of R110 on a block's own state or on a hosted one, whose flip is carried to each block (R111). -/
def Mach.arrive (m : Mach) (h n : Nat) (host : Bool) (b k : Nat) : Mach :=
  let x := (m.block h n).barOf host b
  if x.cnt + k = x.exp then
    let m := m.modBarOf h n host b (fun x => { x with ph := !x.ph, cnt := 0, exp := ((x.exp : Int) + x.dlt).toNat, dlt := 0 })
    if host then
      (m.block h n).peers.foldl (fun m p =>
        if p = (h, n) then m
        else m.sendBar { id := 0, src := h, sblock := n, dst := p.1, dblock := p.2, bar := b, item := .flip (!x.ph), due := 0 })
        (m.flipTo h n b (!x.ph))
    else m.flipped h n b
  else m.modBarOf h n host b (fun x => { x with cnt := x.cnt + k })
/-- The host of a block's cluster barriers: rank 0 (R111). -/
def Block.host (x : Block) : Nat × Nat := x.peers.headD (0, 0)
/-- The barrier is hosted by another block. -/
def Block.hosted (x : Block) (b : Nat) : Bool := (x.bar b).cl && x.rank ≠ 0
/-- The barrier is hosted by the block itself, which is of rank 0. -/
def Block.hostsIt (x : Block) (b : Nat) : Bool := (x.bar b).cl && x.rank = 0
/-- A completing command arrives at a barrier of its block (R106, R108, R111). -/
def Mach.arriveCmd (m : Mach) (h n b : Nat) : Mach :=
  let x := m.block h n
  if x.hosted b then
    m.sendBar { id := 0, src := h, sblock := n, dst := x.host.1, dblock := x.host.2, bar := b, item := .arrive 1 false, due := 0 }
  else m.arrive h n (x.hostsIt b) b 1

/-! ## Checks (R110) -/

/-- A command that names a barrier with ARV = 1: of the block for its own barrier; for a hosted one of every block of the cluster that is
attached to it (R110, R111; DEDUCED, log 23). -/
def Mach.barNamed (m : Mach) (h n : Nat) (host : Bool) (b : Nat) : Bool :=
  if host then (m.block h n).peers.any (fun p => ((m.block p.1 p.2).bar b).cl && m.namesBar p.1 p.2 b) else m.namesBar h n b
/-- The checks of R110 of an item against a block's own state, or against a hosted one. -/
def Mach.barOk (m : Mach) (h n : Nat) (host : Bool) (b : Nat) (i : BarItem) : Bool :=
  let x := (m.block h n).barOf host b
  match i with
  | .arrive k _ => x.cnt + k ≤ x.exp
  | .barrd e => x.exp + x.dlt - e ≥ 1
  | .barrj e => x.exp + x.dlt + e ≤ 65535
  | .binit e _ => x.cnt = 0 && !m.barNamed h n host b && e ≠ 0
  | _ => true
/-- The effect of an item on that state. BINIT with CL = 0 leaves a hosted state as it is (R110); with CL = 1 it sets the parity that the
block of rank 0 sees as well, and each other block sees the new one with the next message to it (R111; DEDUCED, log 23). -/
def Mach.barDo (m : Mach) (h n : Nat) (host : Bool) (b : Nat) : BarItem → Mach
  | .arrive k _ => m.arrive h n host b k
  | .barrd e => m.modBarOf h n host b (fun x => { x with dlt := x.dlt - e })
  | .barrj e => m.modBarOf h n host b (fun x => { x with dlt := x.dlt + e })
  | .binit e cl =>
    if host && !cl then m
    else
      let m := m.modBarOf h n host b (fun _ => { exp := e, cl })
      if host && ((m.block h n).bar b).cl then m.modBar h n b (fun y => { y with ph := false }) else m
  | _ => m
/-- What a BINIT makes of the barrier of the block that issued it: local, or attached to the hosted one (R110). -/
def Mach.binitOwn (m : Mach) (h n b e : Nat) (cl : Bool) : Mach :=
  m.modBar h n b (fun _ => if cl then { exp := 0, cl := true } else { exp := e })
/-- The writes of the current warp's lanes so far are performed at the scope of a barrier: CLU, or BLK for one of the block's own (R164,
R165). -/
def Mach.released (m : Mach) (b : Nat) (act : Word) : Bool :=
  m.writesDone m.cur.ham m.cur.warp act m.nextId (if (m.cb.bar b).cl then 1 else 0)
/-- An arrival of the current lanes goes by a message: to another block's hamlet, or to the block's own barrier when it has to wait for
its release (R111, R165). -/
def Mach.arrivesFar (m : Mach) (b : Nat) (act : Word) : Bool := m.cb.hosted b || !m.released b act
/-- The current bundle sends an item to the host of a cluster barrier, and is held at its successor until the answer returns
(R111, R302). -/
def Mach.askHost (m : Mach) (b : Nat) (item : BarItem) (act : Word) (pend : Nat) : Mach :=
  let n := m.cw.block
  let x := m.cb
  let own := match item with | .arrive .. => !(x.bar b).cl | _ => false
  let to' := if own then (m.cur.ham, n) else x.host
  let waits := match item with
    | .arrive .. => if m.released b act then none else some m.nextId
    | _ => none
  let m := m.sendBar
    { id := 0, src := m.cur.ham, sblock := n, dst := to'.1, dblock := to'.2, bar := b, item, warp := m.cur.warp,
      lanes := m.cur.bundle, act, pc := m.cur.pc, word := m.cur.word, pend, own, waits, due := 0 }
  m.modCw (fun x => x.hold m.cur.bundle .hosted m.cur.succ b)
/-- Barrier misuse (R110, R302). -/
def Mach.trapBar (m : Mach) (b : Nat) : Mach := m.trapWord 5 1 (word b)

/-! ## The BAR family -/

/-- BINIT (R110, R302): on a barrier that is attached to a hosted one, or is to be, the host checks it. -/
def execBinit (_ : Hdr) (b : BitVec 4) (sr : BitVec 8) (g : BitVec 3) (s : State) :=
  lift (fun _ m =>
    let act := m.active g.toNat
    let h := m.cur.ham
    let n := m.cw.block
    let v := m.s sr.toNat
    let e := wbits v 0 16
    let cl := wbit v 16
    let x := m.cb
    let hosted := cl || (x.bar b.toNat).cl
    if act = 0 then m
    else if cl ∧ (b.toNat < 12 ∨ x.peers.length < 2) then m.trapBar b.toNat
    else if hosted ∧ x.rank ≠ 0 then m.askHost b.toNat (.binit e cl) act 0
    else if m.barOk h n hosted b.toNat (.binit e cl) then (m.barDo h n hosted b.toNat (.binit e cl)).binitOwn h n b.toNat e cl
    else m.trapBar b.toNat) s
/-- BARR (R110, R302). -/
def execBarr (_ : Hdr) (b : BitVec 4) (sr : BitVec 8) (g : BitVec 3) (s : State) :=
  lift (fun _ m =>
    let act := m.active g.toNat
    let n := m.cw.block
    let item := BarItem.arrive (popCount act) false
    if act = 0 then m
    else if m.arrivesFar b.toNat act then
      let (id, m) := m.varPend .s [sr.toNat] 0 [] none
      m.askHost b.toNat item act id
    else if m.barOk m.cur.ham n (m.cb.hostsIt b.toNat) b.toNat item then
      let (_, m) := m.varPend .s [sr.toNat] 0 [(sr.toNat, bword (m.cb.bar b.toNat).ph)] (some (m.landIn 4))
      m.barDo m.cur.ham n (m.cb.hostsIt b.toNat) b.toNat item
    else m.trapBar b.toNat) s
/-- BARRD and BARRJ (R110, R302). -/
def barChange (b : BitVec 4) (g : BitVec 3) (item : Mach → BarItem) : Act := fun _ m =>
  let act := m.active g.toNat
  let n := m.cw.block
  if act = 0 then m
  else if m.cb.hosted b.toNat then m.askHost b.toNat (item m) act 0
  else if m.barOk m.cur.ham n (m.cb.hostsIt b.toNat) b.toNat (item m) then
    m.barDo m.cur.ham n (m.cb.hostsIt b.toNat) b.toNat (item m)
  else m.trapBar b.toNat
/-- BARRD (R110, R302). -/
def execBarrd (_ : Hdr) (b : BitVec 4) (sr : BitVec 8) (g : BitVec 3) (s : State) :=
  lift (barChange b g (fun m => .barrd (wbits (m.s sr.toNat) 0 16))) s
/-- BARRJ (R110, R302). -/
def execBarrj (_ : Hdr) (b : BitVec 4) (sr : BitVec 8) (g : BitVec 3) (s : State) :=
  lift (barChange b g (fun m => .barrj (wbits (m.s sr.toNat) 0 16))) s
/-- BWAIT (R82, R110, R165): a wait that finds a cluster barrier's phase flipped acquires at once. -/
def execBwait (_ : Hdr) (b : BitVec 4) (sr : BitVec 8) (g : BitVec 3) (s : State) :=
  lift (fun _ m =>
    let act := m.active g.toNat
    let x := m.cb.bar b.toNat
    if act = 0 then m
    else if x.ph = wbit (m.s sr.toNat) 0 then m.modCw (fun y => y.hold act .bwait m.cur.succ b.toNat)
    else if x.cl then m.invalidateCommons m.cur.ham
    else m) s
/-- BSYNC (R110). -/
def execBsync (_ : Hdr) (b : BitVec 4) (g : BitVec 3) (s : State) :=
  lift (fun _ m =>
    let act := m.active g.toNat
    let n := m.cw.block
    let item := BarItem.arrive (popCount act) true
    if act = 0 then m
    else if m.arrivesFar b.toNat act then m.askHost b.toNat item act 0
    else if m.barOk m.cur.ham n (m.cb.hostsIt b.toNat) b.toNat item then
      let p := (m.cb.bar b.toNat).ph
      let m := m.barDo m.cur.ham n (m.cb.hostsIt b.toNat) b.toNat item
      let x := m.cb.bar b.toNat
      if x.ph = p then m.modCw (fun y => y.hold act .bwait m.cur.succ b.toNat)
      else if x.cl then m.invalidateCommons m.cur.ham
      else m
    else m.trapBar b.toNat) s

/-! ## Messages arriving (R111, R303) -/

/-- A message is taken. -/
def Mach.takeMsg (m : Mach) (id : Nat) : Mach := { m with msgs := m.msgs.filter (fun x => x.id ≠ id) }
/-- CLUSTER_BARRIER_MESSAGE (R111): the host applies the item and answers. A barrier whose host block has ended takes no item:
the sender's check fails (log 1). -/
def execClusterBarrierMessage (msg : Nat) (s : State) :=
  lift (fun _ m =>
    match m.msgs.find? (fun x => x.id = msg) with
    | none => m
    | some x =>
      let m := m.takeMsg msg
      let live := ((m.ham x.dst).blocks.get? x.dblock).isSome
      let ok := live && m.barOk x.dst x.dblock (!x.own) x.bar x.item
      let at' (m : Mach) : Bool := ((m.block x.dst x.dblock).barOf (!x.own) x.bar).ph
      let ph := at' m
      let m := if ok || (live && x.lanes = 0) then m.barDo x.dst x.dblock (!x.own) x.bar x.item else m
      if x.lanes = 0 then m
      else
        let sync := match x.item with | .arrive _ b => b | _ => false
        let init := match x.item with | .binit e cl => some (e, cl) | _ => none
        m.sendBar { x with
          src := x.dst, sblock := x.dblock, dst := x.src, dblock := x.sblock, waits := none, item := .answer ok ph (at' m ^^ ph) sync init }) s
/-- CLUSTER_FLIP_MESSAGE (R82, R111): the flip reaches a block, and acts there while its barrier is attached. -/
def execClusterFlipMessage (msg : Nat) (s : State) :=
  lift (fun _ m =>
    match m.msgs.find? (fun x => x.id = msg) with
    | none => m
    | some x =>
      let m := m.takeMsg msg
      match x.item with
      | .flip ph =>
        if ((m.ham x.dst).blocks.get? x.dblock).isSome then m.flipTo x.dst x.dblock x.bar ph else m
      | _ => m) s
/-- BARRIER_ANSWER (R111, R302): the held bundle goes on, waits, or traps. The active lanes of a BSYNC whose phase is open stay held, now
for the flip (R356 parks a lane at its release only). The answer shows the block the parity that the host has (DEDUCED, log 23). -/
def execBarrierAnswer (msg : Nat) (s : State) :=
  lift (fun _ m =>
    match m.msgs.find? (fun x => x.id = msg) with
    | none => m
    | some x =>
      let m := m.takeMsg msg
      match x.item with
      | .answer ok ph flip sync init =>
        let h := x.dst
        let held := x.lanes &&& (m.warp h x.warp).lanesIn (· == .held .hosted)
        if !ok then
          let m := m.modWarp h x.warp (fun y =>
            { y with pends := y.pends.filter (fun p => x.pend = 0 || p.id ≠ x.pend) }.release held m.now)
          m.takeTrapAt h x.warp m.now 5 1 x.word (word x.bar) 0 x.pc held false
        else
          let m := if x.pend = 0 then m else
            let reg := ((m.warp h x.warp).pends.find? (fun p => p.id = x.pend)).map (fun p => p.regs.headD 0)
            (m.resolve h x.warp x.pend [(reg.getD 0, bword ph)] m.now).modWarp h x.warp (fun y => (y.landDue m.now).capture m.now)
          let see : Bar → Bar := fun y => if y.cl && !x.own then { y with ph := ph ^^ flip } else y
          let m := match init with | some (e, cl) => m.binitOwn h x.dblock x.bar e cl | none => m.modBar h x.dblock x.bar see
          if !sync then m.modWarp h x.warp (fun y => y.release held m.now)
          else
            let m := m.modWarp h x.warp (fun y => y.release (held &&& ~~~x.act) m.now)
            if !flip then
              m.modWarp h x.warp (fun y => y.modLanes (held &&& x.act) (fun z => { z with st := .held .bwait, arg := x.bar }))
            else
              let m := m.modWarp h x.warp (fun y => y.release (held &&& x.act) (m.now + 4))
              if x.own then m else m.invalidateCommons h
      | _ => m) s

end Sys2Proof.Machine
end

