-- ==== Sys2Proof/Machine/Record.lean ====
section
/-! DEFINITION. Layout records and the boxes that they describe (R98, R100, R321, R344), and the range scoreboard (R112 to R115,
R280). -/
namespace Sys2Proof.Machine

/-! ## Records (R98) -/

/-- A layout record: BASE, element size, rank, index width, fill, extents, strides of dimensions 0 to 4, box extents, IDX. -/
structure Rec where
  base : Nat
  esz : Nat
  rank : Nat
  gidx : Bool
  gw : Nat
  fill : Nat
  ext : List Nat
  str : List Nat
  box : List Nat
  idx : Nat
  deriving DecidableEq, Repr
/-- The fields of a 64-byte record. -/
def recOf (b : List Byte) : Rec :=
  let c := natAt b 8 4
  let esz := 2 ^ bits c 0 3
  { base := natAt b 0 8, esz, rank := bits c 4 3, gidx := c.testBit 8, gw := if c.testBit 9 then 2 else 4, fill := natAt b 12 4,
    ext := (List.range 5).map (fun d => natAt b (0x10 + 4 * d) 4),
    str := esz :: (List.range 4).map (fun d => natAt b (0x24 + 4 * d) 4),
    box := (List.range 5).map (fun d => natAt b (0x34 + d) 1 + 1), idx := natAt b 0x3A 6 }
/-- R98: the record is valid. -/
def recOk (b : List Byte) : Bool :=
  let c := natAt b 8 4
  let r := recOf b
  bits c 0 3 ≤ 4 && 1 ≤ r.rank && r.rank ≤ 5 && !c.testBit 3 && !c.testBit 7 && bits c 10 22 = 0 &&
  bits r.base 48 16 = (if r.base.testBit 47 then 0xFFFF else 0) &&
  (List.range 5).all (fun d => if d < r.rank then r.ext.getD d 0 ≠ 0 else r.ext.getD d 0 = 0 && r.box.getD d 1 = 1) &&
  (List.range 5).all (fun d => if d < r.rank then r.str.getD d 0 % r.esz = 0 else r.str.getD d 0 = 0) &&
  natAt b 0x39 1 = 0 && (r.gidx || r.idx = 0)

/-! ## Boxes (R100) -/

/-- The elements of a box. -/
def Rec.count (r : Rec) : Nat := r.box.foldl (· * ·) 1
/-- The footprint of a command. -/
def Rec.footprint (r : Rec) : Nat := r.esz * r.count
/-- The box index of element `n`, dimension 0 fastest. -/
def boxIndex (box : List Nat) (n : Nat) : List Nat :=
  (box.foldl (fun (a : List Nat × Nat) x => (a.1 ++ [a.2 % x], a.2 / x)) ([], n)).1
/-- The address of element `n` of the box at an origin, as an exact integer, when it is in bounds; `idx` gives dimension 1 under a
gather. -/
def Rec.addr (r : Rec) (org : List Int) (idx : Option (List Nat)) (n : Nat) : Option Int :=
  let j := boxIndex r.box n
  let c (d : Nat) : Int :=
    match d, idx with
    | 1, some l => l.getD (j.getD 1 0) 0
    | _, _ => org.getD d 0 + j.getD d 0
  if (List.range r.rank).all (fun d => 0 ≤ c d && c d < r.ext.getD d 0) then
    some ((List.range 5).foldl (fun a d => a + c d * r.str.getD d 0) (r.base : Int))
  else none
/-- [a, a + n) lies within the canonical half of BASE (R100). -/
def canonical (high : Bool) (a : Int) (n : Nat) : Bool :=
  if high then 2 ^ 64 - 2 ^ 47 ≤ a && a + n ≤ 2 ^ 64 else 0 ≤ a && a + n ≤ 2 ^ 47
/-- The pattern of an out-of-bounds element (R98). -/
def Rec.fillBytes (r : Rec) : List Byte := ((List.range 4).flatMap (fun _ => leBytes 4 r.fill)).take r.esz
/-- The bounding range of a box's in-bounds elements in main memory (R321); a gather may touch every row. -/
def Rec.range (r : Rec) (org : List Int) (gather : Bool) : Option (Int × Int) :=
  let lo (d : Nat) : Int := if gather && d = 1 then 0 else max 0 (org.getD d 0)
  let hi (d : Nat) : Int :=
    if gather && d = 1 then r.ext.getD 1 0 - 1 else min (r.ext.getD d 0 - 1 : Int) (org.getD d 0 + r.box.getD d 1 - 1)
  let dims := List.range r.rank
  if dims.any (fun d => hi d < lo d) then none
  else
    some (dims.foldl (fun a d => a + lo d * r.str.getD d 0) (r.base : Int),
      dims.foldl (fun a d => a + hi d * r.str.getD d 0) (r.base : Int) + r.esz)
/-- A part of an access that lies in one line: where it starts in the access, its bytes, its address. -/
structure Seg where
  off : Nat
  len : Nat
  va : Int
  deriving DecidableEq, Repr
/-- The parts of `n` bytes at an address, split at line boundaries. -/
def segsOf (off : Nat) (va : Int) (n : Nat) : List Seg :=
  (List.range (n / 128 + 2)).filterMap (fun (i : Nat) =>
    let first := va / 128 + i
    let lo := max va (128 * first)
    let hi := min (va + n) (128 * first + 128)
    if lo < hi then some ⟨off + (lo - va).toNat, (hi - lo).toNat, lo⟩ else none)
/-- A signed word. -/
def sword (x : Word) : Int := x.toInt

/-! ## The parameter block of an engine command (R142) -/

/-- The fields of a parameter block. -/
structure Par where
  zero : Bool
  loadw : Bool
  drain : Bool
  arv : Bool
  wch : Nat
  ach : Nat
  afmt : Nat
  akb : Bool
  bfmt : Nat
  bkb : Bool
  nt : Nat
  acc : Nat
  rows : Nat
  code : Nat
  off : Nat
  dstr : Nat
  dop : Nat
  dtype : Nat
  zafter : Bool
  dslot : Nat
  dch : Nat
  org : List Word
  rptr : Nat
  cidx : Nat
  val : Nat
  boff : Nat
  bstr : Nat
  krows : Nat
  nnzmax : Nat
  deriving DecidableEq, Repr
/-- The fields of a block, for function 0 MMOP, 1 MMSP, 2 MMDRAIN. -/
def parOf (fn : Nat) (b : List Byte) : Par :=
  let w (o : Nat) := natAt b o 4
  let c := w 0
  let f := if fn = 2 then 0 else w 4
  let s := w 8
  let d := w 0x14
  { zero := fn ≠ 2 && c.testBit 0, loadw := fn = 0 && c.testBit 1, drain := fn = 2 || c.testBit 2, arv := c.testBit 3,
    wch := bits c 4 2, ach := bits c 6 2, afmt := bits f 0 4, akb := f.testBit 4, bfmt := bits f 8 4, bkb := f.testBit 12,
    nt := bits s 0 12 + 1, acc := bits s 12 9, rows := bits s 21 8 + 1, code := bits (w 0xC) 28 4, off := bits (w 0xC) 0 27,
    dstr := w 0x10, dop := bits d 0 2, dtype := bits d 4 2, zafter := d.testBit 6, dslot := bits d 8 3, dch := bits d 12 2,
    org := [wordAt b 0x18, wordAt b 0x1C], rptr := w 0x24, cidx := w 0x28, val := w 0x2C, boff := w 0x30, bstr := w 0x34,
    krows := w 0x38, nnzmax := w 0x3C }

/-! ## Intervals (R112) -/

/-- The 32-byte-aligned closure of [lo, hi). -/
def closure (space lo hi : Nat) : Itv := ⟨space, lo / 32 * 32, roundUp hi 32⟩
/-- Two intervals meet. -/
def Itv.meets (a b : Itv) : Bool := a.space = b.space && a.lo < b.hi && b.lo < a.hi
/-- The array byte of a block's shared offset, within its hamlet. -/
def arrOff (b : Block) (off : Nat) : Nat := sharedKey 0 b off - keyArray 0 0
/-- The pieces of shared offsets [off, off + n) that lie in one granule: offset and length. -/
def granPieces (off n : Nat) : List (Nat × Nat) :=
  (List.range (n / 8192 + 2)).filterMap (fun i =>
    let lo := max off ((off / 8192 + i) * 8192)
    let hi := min (off + n) ((off / 8192 + i + 1) * 8192)
    if lo < hi then some (lo, hi - lo) else none)
/-- The interval of `n` bytes at a local descriptor's place: shared offset (code 0) or window offset (code 1) (R102, R112). -/
def Mach.localItv (m : Mach) (h : Nat) (b : Block) (code off n : Nat) : Itv :=
  if code = 0 then
    let p := (granPieces off n).map (fun x => (arrOff b x.1, arrOff b x.1 + x.2))
    closure 0 ((minBy id (p.map (·.1))).getD 0) (maxOf (p.map (·.2)))
  else
    let x := (m.window h b.ctx).1 + off
    closure 1 x (x + n)

/-! ## Entries -/

/-- An interval overlap that makes a later operation wait for an older entry (R113). -/
def sbBlocks (rd wr : Option Itv) (e : SbEntry) : Bool :=
  let hit (a b : Option Itv) : Bool := match a, b with | some a, some b => a.meets b | _, _ => false
  hit wr e.rd || hit wr e.wr || hit rd e.wr
/-- The operation `id` waits for an older entry of the hamlet (R113). -/
def Hamlet.sbHeld (x : Hamlet) (id : Nat) : Bool :=
  match x.sb.find? (fun e => e.id = id) with
  | none => false
  | some e => x.sb.any (fun f => f.id < id && sbBlocks e.rd e.wr f)
/-- Take an entry (R112). -/
def Mach.sbTake (m : Mach) (h id block : Nat) (rd wr : Option Itv) : Mach :=
  if rd.isNone && wr.isNone then m
  else m.modHam h (fun x => { x with sb := x.sb ++ [{ id, block, rd, wr }] })
/-- Free an entry; a write interval of `late` was written in this cycle, and threads see it in the next (R104). -/
def Mach.sbFree (m : Mach) (h id : Nat) (late : Option Itv) : Mach :=
  m.modHam h (fun x =>
    { x with sb := x.sb.filter (fun e => e.id ≠ id), late := x.late ++ (match late with | some i => [i] | none => []) })
/-- Remove an entry's read interval (R112). -/
def Mach.sbReadDone (m : Mach) (h id : Nat) : Mach :=
  let f : SbEntry → SbEntry := fun e => { e with rd := none }
  m.modHam h (fun x => { x with sb := updateFirst (fun e => e.id = id) f x.sb })
/-- Every entry is taken (R112). -/
def Hamlet.sbFull (x : Hamlet) : Bool := x.sb.length ≥ 64
/-- The bytes of a command that threads can see: those of chunks written in earlier cycles (R104). -/
def Cmd.visible (c : Cmd) (now : Nat) : Nat := if c.last = now then (c.prog - 1) / 128 * 128 else c.prog
/-- The local destination of a copy: code and offset, when its write pointer tells how far it has come (R114). -/
def Cmd.dest (c : Cmd) : Option (Nat × Nat) :=
  let d := (c.words.headD 0).toNat
  if c.drain.isNone && (c.fn = 0 || c.fn = 2 || c.fn = 3) && d / 2 ^ 28 ≤ 1 then some (d / 2 ^ 28, d % 2 ^ 27) else none
/-- How far the drain of an engine command has come in local memory, as threads see it: destination code and the offset
below which everything is written (R114, R147). -/
def ECmd.drained (c : ECmd) (now : Nat) : Option (Nat × Nat) :=
  let p := parOf c.fn c.par
  let rowb := if p.dtype = 1 then 128 else 256
  let vis := if c.due > now then (c.pos - 1) / 128 * 128 else c.pos
  if c.started && p.dop = 0 then some (p.code, p.off + vis / rowb * p.dstr + vis % rowb) else none
/-- R114: the write pointer of a copy has passed the end of the 32-byte granule at a byte of the array or of the die's Commons. -/
def Mach.passed (m : Mach) (h block ctx : Nat) (ptr : Option (Nat × Nat)) (space a : Nat) : Bool :=
  match ptr with
  | none => false
  | some (code, off) =>
    code = space &&
    (if space = 0 then
      match findPos (fun p => p = a / 2 ^ 14) (m.block h block).pairs with
      | some i => i * 2 ^ 14 + a % 2 ^ 14 / 32 * 32 + 32 ≤ off
      | none => false
    else a / 32 * 32 + 32 ≤ (m.window h ctx).1 + off)
/-- The write pointer of the copy or drain that holds an entry has passed the granule of a byte. -/
def Mach.entryPassed (m : Mach) (h : Nat) (id space a : Nat) : Bool :=
  let x := m.ham h
  match x.chans.findSome? (fun e => e.2.find? (fun c => c.id = id)) with
  | some c => m.passed h c.block c.ctx (c.dest.map (fun d => (d.1, d.2 + c.visible m.now))) space a
  | none => match x.eng.q.find? (fun c => c.did = id) with
    | some c => m.passed h c.block c.ctx (c.drained m.now) space a
    | none => false
/-- R114: a thread access to these bytes, granule by granule, must wait. `store` for a store or an ATOM. -/
def Mach.sbWait (m : Mach) (h space : Nat) (store : Bool) (grans : List Nat) : Bool :=
  let x := m.ham h
  let on (g : Nat) (i : Option Itv) : Bool :=
    match i with | some i => i.space = space && i.lo < 32 * g + 32 && 32 * g < i.hi | none => false
  x.late.any (fun i => grans.any (fun g => on g (some i))) ||
  x.sb.any (fun e =>
    (store && grans.any (fun g => on g e.rd)) ||
    grans.any (fun g => on g e.wr && !m.entryPassed h e.id space (32 * g)))
/-- The 32-byte granules of [a, a + n). -/
def gransOf (a n : Nat) : List Nat := (List.range ((a + n - 1) / 32 + 1 - a / 32)).map (fun i => a / 32 + i)

end Sys2Proof.Machine
end

