-- ==== Sys2Proof/Machine/Copy.lean ====
section
/-! DEFINITION. The COPY family at issue: COPY, COPYS, COPYM, GATH, PREF, AMO, LAYSET, CPWAIT (R97 to R105, R112, R280, R289, R290,
R316 to R322, R343, R355), LAYSET_ARRIVAL and the arrival-time fault (R356). -/
namespace Sys2Proof.Machine

/-! ## Arrival-time faults (R356) -/

/-- TRAPD1 of the engine group (R177). -/
def engDetail (w : Word) (engine : Nat) : Word := word (engine + wbits w 3 4 * 2 ^ 4 + wbits w 7 8 * 2 ^ 8)
/-- An arrival-time fault: `mask` is the bundle at issue. -/
def Mach.lateFaulted (m : Mach) (h w group code : Nat) (word' d1 pc mask : Word) : Mach :=
  let x := m.warp h w
  let held := x.lanesIn (fun s => match s with | .held _ => true | _ => false)
  let ready := x.readyMask
  let m := if x.lateFault ≠ 0 then m else
    let x := if x.hmode then x else x.setCause group code word' d1 0 pc mask
    let x := x.park ready (if x.hmode then .doubleTrap else .trap)
    m.setWarp h w { x with lateFault := ready ||| held, parkAt := x.parkAt ||| held }
  m.fqPush h m.now
    { w0 := fqWord0 group code w (m.warpCtx h w) (if x.hmode then 3 else 2) false, w1 := mask, w2 := pc, w3 := 0, rep := .noReply }

/-! ## Plans (R102, R103, R289, R290, R317 to R320, R343) -/

/-- What a command that passes its checks will do: total bytes, intervals, copied record. -/
structure Plan where
  total : Nat
  rd : Option Itv := none
  wr : Option Itv := none
  rcd : List Byte := []
  deriving DecidableEq, Repr
/-- A local descriptor with a code up to `top` (R102): code and offset. -/
def descOf (d : Word) (top : Nat) : Option (Nat × Nat) :=
  let code := wbits d 28 4
  let off := wbits d 0 27
  if code > top ∨ wbit d 27 ∨ (code = 0 ∧ off ≥ 2 ^ 18) ∨ (code ≥ 2 ∧ off ≠ 0) then none else some (code, off)
/-- R103 step 2: a local footprint fits. -/
def Mach.fits (m : Mach) (h : Nat) (b : Block) (code off n : Nat) (dest : Bool) : Bool :=
  if code = 0 then off + n ≤ b.carve
  else
    let (base, sz, rb, rs) := m.window h b.ctx
    off + n ≤ sz && base + off + n ≤ m.commonsSize (m.partHam h) (hamDie h) && !(dest && rs ≠ 0 && rb < off + n && off < rb + rs)
/-- The bits of a word that must be 0 are. -/
def only (w mask : Word) : Bool := (w &&& ~~~mask) = 0
/-- The words of a command: 8 from s[S]. -/
def Mach.words (m : Mach) (s n : Nat) : List Word := (List.range n).map (fun i => m.s (s + i))
/-- The origin of a command (R102). -/
def orgOf (ws : List Word) : List Int := (List.range 5).map (fun d => sword (ws.getD (1 + d) 0))
/-- A FIFO target of COPYS. -/
def fifoTarget (w6 : Word) : Nat := wbits w6 4 4

/-- COPYS to a FIFO (R318). -/
def Mach.planPush (m : Mach) (h : Nat) (b : Block) (ws : List Word) : Except Nat Plan :=
  let w (i : Nat) := ws.getD i 0
  let n := (w 7).toNat
  match descOf (w 0) 1 with
  | none => .error 1
  | some (code, off) =>
    if !only (w 6) 0x1F0 || (List.range 5).any (fun d => w (1 + d) ≠ 0) || n = 0 || n % 32 ≠ 0 then .error 1
    else if !m.fits h b code off n false then .error 2
    else .ok { total := n, rd := some (m.localItv h b code off n) }
/-- COPYM (R319). -/
def Mach.planMulti (m : Mach) (h : Nat) (b : Block) (ws : List Word) (rcd : List Byte) : Except Nat Plan :=
  let w (i : Nat) := ws.getD i 0
  let n := (recOf rcd).footprint
  match descOf (w 0) 0 with
  | none => .error 1
  | some (_, off) =>
    let ranks := (List.range 16).filter (fun r => wbit (w 7) r)
    let ok (r : Nat) : Bool := match m.peerOf b r with | some (h', k) => off + n ≤ (m.block h' k).carve | none => false
    if !only (w 7) 0xFFFF || ranks = [] then .error 1
    else if !ranks.all ok then .error 2
    else .ok { total := n, wr := if ranks.contains b.rank then some (m.localItv h b 0 off n) else none, rcd }
/-- A record-driven command (R317 to R320, R343): function 0 COPY, 1 COPYS to main memory, 2 COPYM, 3 GATH, 4 PREF. -/
def Mach.planBox (m : Mach) (h : Nat) (b : Block) (fn : Nat) (ws : List Word) : Except Nat Plan :=
  let w (i : Nat) := ws.getD i 0
  match (m.cur.snap.map (·.slots) |>.getD b.slots).get? (wbits (w 6) 0 3) with
  | none => .error 1
  | some rcd =>
    let r := recOf rcd
    let n := r.footprint
    if !only (w 6) 0x107 then .error 1
    else if fn = 2 then m.planMulti h b ws rcd
    else if fn = 4 then (if w 0 ≠ 0 || w 7 ≠ 0 then .error 1 else .ok { total := 2 * r.count, rcd })
    else if fn ≠ 3 && w 7 ≠ 0 then .error 1
    else if fn = 3 && (!r.gidx || r.rank = 1 || r.idx % r.gw ≠ 0 || w 2 ≠ 0) then .error 1
    else match descOf (w 0) (if fn = 0 then 3 else 1) with
      | none => .error 1
      | some (code, off) =>
        if code ≥ 2 then (if n % 32 ≠ 0 then .error 1 else .ok { total := n, rcd })
        else if !m.fits h b code off n (fn ≠ 1) then .error 2
        else
          let i := m.localItv h b code off n
          if fn = 1 then .ok { total := n, rd := some i, rcd } else .ok { total := n, wr := some i, rcd }
/-- AMO (R289, R290). -/
def Mach.planAmo (m : Mach) (h : Nat) (b : Block) (ws : List Word) : Except Nat Plan :=
  let w (i : Nat) := ws.getD i 0
  let c := w 6
  let wide := wbit c 4
  let res := wbit c 6
  let n := if wide then 8 else 4
  let cas := wbits c 0 4 = 10
  let sign := if wbit (w 2) 15 then 0xFFFF else 0
  if !only c 0x17F || wbits c 0 4 > 11 || wbits (w 2) 16 16 ≠ sign || (!wide && w 4 ≠ 0) || (!cas && w 5 ≠ 0) ||
      (!(cas && wide) && w 7 ≠ 0) || (!res && w 0 ≠ 0) then .error 1
  else match descOf (w 0) 1 with
    | none => .error 1
    | some (code, off) =>
      if res && off % n ≠ 0 then .error 1
      else if res && !m.fits h b code off n true then .error 2
      else if (w 1).toNat % n ≠ 0 then .error 6
      else .ok { total := 0, wr := if res then some (m.localItv h b code off n) else none }
/-- R103, R290: the checks of a command at issue: a code of group 0x04, or its plan. -/
def Mach.plan (m : Mach) (h : Nat) (b : Block) (fn : Nat) (ws : List Word) : Except Nat Plan :=
  if fn = 5 then m.planAmo h b ws
  else if fn = 1 && (fifoTarget (ws.getD 6 0) = 2 || fifoTarget (ws.getD 6 0) = 3) then m.planPush h b ws
  else m.planBox h b fn ws

/-! ## Issue -/

/-- A word is a LAYSET to a slot. -/
def laysetTo (slot : Nat) (w : Word) : Bool := match instrOf w with | .layset _ _ n _ => n.toNat = slot | _ => false
/-- A LAYSET of the block to the slot has issued and not yet landed (R280): it is being read, or waits for the words of its group to take
effect. -/
def Mach.slotPending (m : Mach) (h n slot : Nat) : Bool :=
  (m.ham h).lays.any (fun y => y.block = n && y.slot = some slot) ||
  (m.ham h).warps.any (fun e => e.2.block = n &&
    (e.2.withheld.any (fun g => g.words.any (fun y => laysetTo slot y.2)) || e.2.fences.any (fun f => f.rest.any (fun y => laysetTo slot y.2))))
/-- The current word's channel command is not issuable: a full queue (R97), a slot that a LAYSET is to write (R280; a command that
has issued copied the slot then, R99), or no scoreboard entry for a command that needs one (R112). -/
def Mach.cmdStall (m : Mach) (fn : Nat) (ws : List Word) (chan : Nat) : Bool :=
  let x := m.ham m.cur.ham
  let b := m.cb
  let w6 := ws.getD 6 0
  let push := fn = 1 && fifoTarget w6 ≠ 0
  (x.chans.get [] chan).length ≥ 8 ||
  (fn ≠ 5 && !push && m.cur.snap.isNone && m.slotPending m.cur.ham m.cw.block (wbits w6 0 3)) ||
  (x.sbFull && (match m.plan m.cur.ham b fn ws with | .ok p => p.rd.isSome || p.wr.isSome | .error _ => false))
/-- A word of the COPY family with parameter words (R101 to R103, R112, R316). -/
def copyWord (fn : Nat) (hint : BitVec 2) (s : BitVec 8) (n : BitVec 4) (p : BitVec 2) (z : BitVec 1) : Act := fun _ m =>
  let act := m.activeAll z.toNat
  let ws := m.words s.toNat 8
  let h := m.cur.ham
  let b := m.cb
  if act = 0 then m
  else if m.cmdStall fn ws p.toNat then m.notIssued
  else match m.plan h b fn ws with
    | .error code => m.trapWord 4 code (engDetail m.cur.word p.toNat)
    | .ok plan =>
      let (id, m) := m.fresh
      let c : Cmd :=
        { id, fn, warp := m.cur.warp, block := m.cw.block, ctx := b.ctx, lane := (lowestLane act).getD 0, chan := p.toNat,
          hint := hint.toNat, bar := n.toNat, arv := wbit (ws.getD 6 0) 8, rcd := plan.rcd, words := ws, issue := m.now,
          total := plan.total }
      let m := m.modHam h (fun x => { x with chans := x.chans.set p.toNat (x.chans.get [] p.toNat ++ [c]) })
      m.sbTake h id m.cw.block plan.rd plan.wr
/-- COPY (R317). -/
def execCopy (_ : Hdr) (h1 : BitVec 2) (sr : BitVec 8) (n : BitVec 4) (p : BitVec 2) (z : BitVec 1) (s : State) :=
  lift (copyWord 0 h1 sr n p z) s
/-- COPYS (R318). -/
def execCopys (_ : Hdr) (h1 : BitVec 2) (sr : BitVec 8) (n : BitVec 4) (p : BitVec 2) (z : BitVec 1) (s : State) :=
  lift (copyWord 1 h1 sr n p z) s
/-- COPYM (R107, R319). -/
def execCopym (_ : Hdr) (h1 : BitVec 2) (sr : BitVec 8) (n : BitVec 4) (p : BitVec 2) (z : BitVec 1) (s : State) :=
  lift (copyWord 2 h1 sr n p z) s
/-- GATH (R343). -/
def execGath (_ : Hdr) (h1 : BitVec 2) (sr : BitVec 8) (n : BitVec 4) (p : BitVec 2) (z : BitVec 1) (s : State) :=
  lift (copyWord 3 h1 sr n p z) s
/-- PREF (R320). -/
def execPref (_ : Hdr) (h1 : BitVec 2) (sr : BitVec 8) (n : BitVec 4) (p : BitVec 2) (z : BitVec 1) (s : State) :=
  lift (copyWord 4 h1 sr n p z) s
/-- AMO (R289, R290). -/
def execAmo (_ : Hdr) (h1 : BitVec 2) (sr : BitVec 8) (n : BitVec 4) (p : BitVec 2) (z : BitVec 1) (s : State) :=
  lift (copyWord 5 h1 sr n p z) s

/-! ## CPWAIT (R105, R322) -/

/-- The block's write pointer on a channel has reached a target, as a signed difference. -/
def cwpReached (b : Block) (chan : Nat) (target : Word) : Bool := !wbit (b.cwp.get 0 chan - target) 31
/-- CPWAIT. -/
def execCpwait (_ : Hdr) (sr : BitVec 8) (p : BitVec 2) (z : BitVec 1) (s : State) :=
  lift (fun _ m =>
    let act := m.active z.toNat
    let target := m.s sr.toNat
    if act = 0 ∨ cwpReached m.cb p.toNat target then m
    else m.modCw (fun x => x.hold act .cpwait m.cur.succ p.toNat target)) s
/-- The lanes of a warp whose CPWAIT target is reached. -/
def Warp.cpDone (x : Warp) (b : Block) : Word :=
  maskOf (fun l => (x.lane l).st == .held .cpwait && cwpReached b (x.lane l).arg (x.lane l).val)
/-- Advance a block's write pointer, and release the lanes that wait for it (R104, R322). -/
def Mach.cwpAdd (m : Mach) (h n chan k : Nat) : Mach :=
  let m := m.modBlock h n (fun b => { b with cwp := b.cwp.set chan (b.cwp.get 0 chan + word k) })
  let b := m.block h n
  (m.warpsOf h n).foldl (fun m w => m.modWarp h w (fun x => x.release (x.cpDone b) (m.now + 4))) m

/-! ## LAYSET (R99, R355) -/

/-- Read 64 bytes at a local descriptor for the current word: a LAYSET record or a parameter block. The checks of R355 and R142
come first; bits [21:18] of a shared descriptor, which R102 requires to be 0 and R74 does not check, are among the first of them (DEDUCED,
log 23); `f` takes the outstanding read's number, with the bytes and the cycle where they are known. -/
def Mach.readBlock (mem : Memory) (m : Mach) (engine lane : Nat) (d : Word) (layRd : Nat → LayRead) : Mach :=
  let h := m.cur.ham
  let b := m.cb
  let addr := d &&& 0x07FFFFFF
  let l := laneBit lane
  let begin' (m : Mach) (bytes : Option (List Byte)) (due : Nat) : Nat × Mach :=
    let (id, m) := m.fresh
    (id, m.modHam h (fun y => { y with lays := y.lays ++ [{ layRd id with bytes, due }] }))
  if wbits d 28 4 > 1 ∨ wbit d 27 ∨ (wbits d 28 4 = 0 ∧ wbits d 18 4 ≠ 0) then m.trapWord 4 1 (engDetail m.cur.word engine)
  else if wbits d 28 4 = 0 then
    match m.sharedCheck b addr 64 with
    | some (_, code) => m.trapMem code l (fun _ => addr) (fun _ => 0) false
    | none =>
      let off := wbits addr 0 18
      let key := sharedKey h b off
      if m.sbWait h 0 false (gransOf (arrOff b off) 64) then m.notIssued
      else if m.bad key 64 then m.trapData l (fun _ => addr) (fun _ => 0) false
      else (begin' (m.seen key 64) (some (m.rdN mem key 64)) (m.now + 22)).2
  else
    match m.commonsCheck h b.ctx false addr 64 false with
    | some (_, code) => m.trapMem code l (fun _ => addr) (fun _ => 1) false
    | none =>
      let die := hamDie h
      let x := (m.window h b.ctx).1 + addr.toNat
      if m.sbWait h 1 false (gransOf x 64) then m.notIssued
      else
        let ro := m.readOnly h b.ctx addr.toNat
        match m.l1Serving mem h die x ro (m.begun b), m.pathRead h die x 64 with
        | some y, _ =>
          if m.bad (y.key h + x % 128) 64 then m.trapData l (fun _ => addr) (fun _ => 1) false
          else (begin' ((m.l1Use h y).seen (y.key h + x % 128) 64) (some (m.rdN mem (y.key h + x % 128) 64)) (m.now + 33)).2
        | none, some bytes => (begin' m (some bytes) (m.now + 33)).2
        | none, none =>
          let m := m.l1Missed h m.cur.warp 1 die (x / 128)
          let (id, m) := begin' m none 0
          let (rid, m) := m.fresh
          m.sendLoad { m.curReq .load 64 with
            id := rid, die, line := x / 128, home := (m.commonsAt (m.partHam h) die (x / 128 * 128)).1,
            ro, began := m.begun b, onPath := (m.pathOver h die x 64).map (fun e => (16 * lane + e.1, e.2)), lanes := [(lane, x, [])], addrs := [(lane, addr)], lay := some id }
/-- LAYSET. -/
def execLayset (_ : Hdr) (sr : BitVec 8) (n : BitVec 4) (z : BitVec 1) (s : State) :=
  lift (fun mem m =>
    let act := m.activeAll z.toNat
    match lowestLane act with
    | none => m
    | some lane =>
      m.readBlock mem 0 lane (m.s sr.toNat) (fun id =>
        { id, warp := m.cur.warp, block := m.cw.block, slot := some n.toNat, ecmd := none,
          lanes := m.cur.all ||| m.cur.bundle, pc := m.cur.pc, word := m.cur.word, bytes := none, due := 0 })) s
/-- A LAYSET's record may land: it has come, and no older LAYSET of its block to its slot is outstanding (R355). -/
def Mach.laysetDue (m : Mach) (h : Nat) (y : LayRead) : Bool :=
  y.slot.isSome && y.bytes.isSome && y.due ≤ m.now &&
  !(m.ham h).lays.any (fun z => z.id < y.id && z.block = y.block && z.slot = y.slot)
/-- LAYSET_ARRIVAL (R98, R99, R355, R356). -/
def execLaysetArrival (ham id : Nat) (s : State) :=
  lift (fun _ m =>
    match (m.ham ham).lays.find? (fun y => y.id = id) with
    | none => m
    | some y =>
      if !m.laysetDue ham y then m
      else
        let m := m.modHam ham (fun x => { x with lays := x.lays.filter (fun z => z.id ≠ id) })
        let b := y.bytes.getD []
        if recOk b then m.modBlock ham y.block (fun x => { x with slots := x.slots.set (y.slot.getD 0) b })
        else m.lateFaulted ham y.warp 4 1 y.word (engDetail y.word 0) y.pc y.lanes) s

end Sys2Proof.Machine
end

