-- ==== Sys2Proof/Machine/Channel.lean ====
section
/-! DEFINITION. The copy channels at work: COMMAND_START of a channel, COMMAND_CHUNK, AMO_PERFORM, CHUNK_ACKNOWLEDGEMENT, and what
reaches other blocks through REMOTE_SHARED_REQUEST (R97, R100, R104 to R107, R113, R136, R141, R155, R191, R289 to R293, R317 to
R321, R344). -/
namespace Sys2Proof.Machine

/-! ## Remote shared accesses (R72, R300, R358) -/

/-- A COPYM chunk has reached a block of another rank: its channel is told, and with the last chunk the block's own barrier receives
one arrival (R107, R319). A chunk's request carries the last chunk's barrier in `reg`, `op` 1. Where an earlier chunk to the block waits for
the Reeve (R106), the arrival waits for it, since it covers every write to the block (R174). -/
def Mach.landed (m : Mach) (r : Req) (live : Bool) : Mach :=
  match r.ack with
  | none => m
  | some (chan, cmd) =>
    let other (x : Req) : Bool := x.ham = r.ham && x.ack = r.ack && x.home = r.home && x.block = r.block
    let m := if !(live && r.op = 1) then m
      else if m.reqs.any other then { m with reqs := updateFirst other (fun x => { x with op := 1 }) m.reqs }
      else m.arriveCmd r.home r.block r.reg
    m.ackNow r.ham chan cmd
/-- The answer of a remote shared access leaves its target, so many hamlet cycles after it came (R300, R358, R398). -/
def Mach.answer (m : Mach) (r : Req) (cycles : Nat) (f : Req → Req) : Mach :=
  let (e, m) := m.entry (hamParish r.home)
  m.reply r (hamRouter r.home) [.units (cycles * cycleUnits), e, .net (hamParish r.home) 4] 4 f
/-- REMOTE_SHARED_REQUEST: a remote access is performed at the target block's array. A block that has ended since issue takes no
store and returns free values (R79, log 6). -/
def remoteShared (req : Nat) : Act := fun mem m =>
  match m.req req with
  | none => m
  | some r =>
    let offs := r.lanes.map (fun e => e.2.1)
    match (m.ham r.home).blocks.get? r.block with
    | none =>
      match r.kind with
      | .sstore => (m.endReq req).landed r false
      | _ =>
        let (vals, m) := r.lanes.foldl (fun (a : SMap Word × Mach) e =>
          (List.range (ceilDiv r.size 4)).foldl (fun (a : SMap Word × Mach) i =>
            let (x, m) := a.2.freeWord
            (a.1 ++ [(32 * (r.reg + i) + e.1, x)], m)) a) ([], m)
        m.answer r 0 (fun r => { r with vals })
    | some b =>
      let key (e : Nat × Nat × List Byte) := sharedKey r.home b e.2.1
      let lat := waysOf r.size offs
      match r.kind with
      | .sstore =>
        let bad := maskOf (fun l => r.lanes.any (fun e => e.1 = l && m.badStore (key e) e.2.2.length))
        if bad ≠ 0 then
          match r.ack with
          | some (chan, cmd) => m.chanFound r chan cmd badData
          | none => m.reqTrap r 9 1 bad
        else ((r.lanes.foldl (fun x e => x.store (key e) e.2.2) m).endReq req).landed r true
      | .srmw =>
        let bad := maskOf (fun l => r.lanes.any (fun e => e.1 = l && m.bad (key e) 4))
        if bad ≠ 0 then m.reqTrap r 9 1 bad
        else
          let (vals, m) := r.lanes.foldl (fun (a : SMap Word × Mach) e =>
            let (old, m) := a.2.rmwAt mem r.op (key e) (leWord e.2.2) (leWord (e.2.2.drop 4))
            (a.1 ++ [(32 * r.reg + e.1, old)], m)) ([], m)
          m.answer r (25 + lat) (fun r => { r with vals })
      | _ =>
        let bad := maskOf (fun l => r.lanes.any (fun e => e.1 = l && m.bad (key e) r.size))
        if bad ≠ 0 then m.reqTrap r 9 1 bad
        else
          let vals := r.lanes.flatMap (fun e => loadRegs r.reg e.1 (m.rdN mem (key e) r.size))
          (r.lanes.foldl (fun m e => m.seen (key e) r.size) m).answer r (21 + lat) (fun r => { r with vals })
/-- REMOTE_SHARED_REQUEST. -/
def execRemoteSharedRequest (req : Nat) (s : State) := lift (remoteShared req) s

/-! ## Commands -/

/-- The command at the head of a channel. -/
def Mach.chanHead (m : Mach) (h ch : Nat) : Option Cmd := ((m.ham h).chans.get [] ch).head?
/-- Change the command at the head of a channel. -/
def Mach.modHead (m : Mach) (h ch : Nat) (f : Cmd → Cmd) : Mach :=
  m.modHam h (fun x => { x with chans := x.chans.set ch (match x.chans.get [] ch with | c :: r => f c :: r | [] => []) })
/-- The FIFO that a command pushes into: 2 weight, 3 activation, 0 none. -/
def Cmd.fifo (c : Cmd) : Nat :=
  if c.drain.isSome then 0
  else if c.fn = 0 then (let k := wbits (c.words.headD 0) 28 4; if k ≥ 2 then k else 0)
  else if c.fn = 1 then fifoTarget (c.words.getD 6 0)
  else 0
/-- The command's record reaches main memory: it reads there, or it writes there (COPYS of target 0, a drain, an AMO). -/
def Cmd.writesMain (c : Cmd) : Bool := c.drain.isSome || c.fn = 5 || (c.fn = 1 && c.fifo = 0)
/-- The range of main memory that a command may touch (R321); none for a PREF or a push from local memory. -/
def Cmd.mainRange (c : Cmd) : Option (Int × Int) :=
  if c.drain.isSome || c.fn = 0 || c.fn = 2 || c.fn = 3 || (c.fn = 1 && c.fifo = 0) then
    (recOf c.rcd).range (orgOf c.words) (c.fn = 3)
  else if c.fn = 5 then
    let va : Int := (c.words.getD 1 0).toNat + wbits (c.words.getD 2 0) 0 16 * 2 ^ 32
    let va := if wbit (c.words.getD 2 0) 15 then va + (2 ^ 64 - 2 ^ 48) else va
    some (va, va + if wbit (c.words.getD 6 0) 4 then 8 else 4)
  else none
/-- The number that a command has had since its issue: a drain's is its engine command's (R153). -/
def Cmd.age (c : Cmd) : Nat := c.drain.getD c.id
/-- Two ranges of main memory overlap. -/
def rangesMeet (a b : Option (Int × Int)) : Bool := match a, b with | some a, some b => a.1 < b.2 && b.1 < a.2 | _, _ => false
/-- R321: a command waits for an older one of its lane whose main-memory range overlaps its own, when one of them writes. -/
def Cmd.laneWaits (c d : Cmd) : Bool :=
  d.age < c.age && d.warp = c.warp && d.block = c.block && d.lane = c.lane && (c.writesMain || d.writesMain) &&
  rangesMeet c.mainRange d.mainRange
/-- R321, R147: a command waits for an older engine command of its lane whose drain is to write overlapping main memory through another
channel. Through its own channel the drain can only follow it (R97; DEDUCED, log 23). -/
def Cmd.drainWaits (c : Cmd) (e : ECmd) : Bool :=
  let p := parOf e.fn e.par
  e.id < c.age && e.warp = c.warp && e.block = c.block && e.lane = c.lane && p.drain && p.code = 4 && !e.started &&
  p.dch ≠ c.chan && rangesMeet c.mainRange ((recOf e.rcd).range (p.org.map sword) false)
/-- A unit's command waits before its start: for older commands (R113), or for an ATOM of the hamlet that was issued before it to its bytes of
Commons and is still to be performed (R115). -/
def Mach.sbWaits (m : Mach) (h id : Nat) : Bool :=
  let x := m.ham h
  let meets (i : Option Itv) : Bool := match i with
    | some i => i.space = 1 && m.rmwBefore h id i.lo (i.hi - i.lo)
    | none => false
  x.sbHeld id || x.sb.any (fun e => e.id = id && (meets e.rd || meets e.wr))
/-- Every command of the hamlet's channels. -/
def Hamlet.cmds (x : Hamlet) : List Cmd := x.chans.flatMap (·.2)
/-- The context number of a slot, by which the engine knows its owner (R141). -/
def Mach.ctxNum (m : Mach) (h c : Nat) : Nat := (m.ctx h c).num
/-- The head of a channel may start now (R97, R113, R116, R136, R141, R321). An older push into the same FIFO goes first also where it is of
another context and waits for a switch, and before a push whose bytes are discarded (DEDUCED from "among waiting commands" of R136; a switch
that waits for such a push waits for ever; log 12). -/
def Mach.mayStart (m : Mach) (h ch : Nat) : Bool :=
  let x := m.ham h
  match m.chanHead h ch with
  | none => false
  | some c =>
    c.start.isNone && !(m.ctx h c.ctx).stopped && !m.sbWaits h c.id && !x.cmds.any (fun d => c.laneWaits d) && !x.eng.q.any (fun e => c.drainWaits e) &&
    (c.fifo = 0 ||
      (!x.cmds.any (fun d => d.fifo = c.fifo && (d.id < c.id || (d.start.isSome && d.id ≠ c.id))) &&
        (c.discard || (!x.eng.switching && x.eng.switchEnd ≤ m.now &&
          match x.eng.owner with | none => true | some o => o = m.ctxNum h c.ctx))))
/-- A context becomes the engine's owner, or stays so; the state that a restore has brought it is loaded (R141, R152). -/
def Mach.takeEngine (m : Mach) (h num : Nat) : Mach :=
  m.modHam h (fun x => match x.engSaved.get? num with
    | some s => { x with engSaved := x.engSaved.erase num, eng := { x.eng with
        owner := some num, fifoW := s.fifoW, fifoA := s.fifoA, shadow := s.shadow, active := s.active, acc := s.acc, tag := s.tag,
        accFails := s.accFails, flow := s.flow, stage := s.stage, stageLen := s.stageLen, stageDue := s.stageDue, dropW := s.dropW, dropA := s.dropA } }
    | none => { x with eng := { x.eng with owner := some num } })
/-- COMMAND_START of a channel: the first byte comes 20 cycles later, or when its source has come (R97). -/
def Mach.chanStart (m : Mach) (h ch : Nat) : Mach :=
  match m.chanHead h ch with
  | none => m
  | some c =>
    if !m.mayStart h ch then m
    else
      let pulls := c.drain.isNone && (c.fn = 0 || c.fn = 2 || c.fn = 3)
      let (due, m) := if pulls then m.someTime (m.now + 20) else (m.now + 20, m)
      let m := m.modHead h ch (fun c => { c with start := some m.now, due })
      if c.fifo = 0 then m
      else if (m.ham h).eng.owner.isSome then m else m.takeEngine h (m.ctxNum h c.ctx)

/-! ## Completion, faults (R106, R186) -/

/-- The bytes of a chunk that waits at its home or target stand there, if the network lets it through and its block lives. -/
def Mach.forced (m : Mach) (r : Req) : Mach :=
  if m.partOf r.router.2 ≠ some r.tag then m
  else if r.kind.home then r.lanes.foldl (fun m e => m.store (m.reqKey r e.2.1) e.2.2) m
  else match (m.ham r.home).blocks.get? r.block with
    | some b => r.lanes.foldl (fun m e => m.store (sharedKey r.home b e.2.1) e.2.2) m
    | none => m
/-- The command at the head of a channel is over: it completes, or is aborted (R104, R106). The chunks of an aborted command that are on
their way lie below its write pointer: they still reach their homes, and make no arrival. A chunk that waits there for a reply lies below it
as well: its bytes are copied data, in words that go on failing their check where it does not cover them (R106, R194; DEDUCED, log 23); one
that the network has refused reaches no byte (R22). -/
def Mach.cmdOver (m : Mach) (h ch : Nat) (ok : Bool) : Mach :=
  match m.chanHead h ch with
  | none => m
  | some c =>
    let b := m.block h c.block
    let late : Option Itv :=
      match c.dest with
      | some (code, off) => if c.last = m.now && c.total ≠ 0 then
          let done := (c.total - 1) / 128 * 128
          some (m.localItv h b code (off + done) (c.total - done)) else none
      | none => if c.fn = 5 && ok then ((m.ham h).sb.find? (fun e => e.id = c.id)).bind (·.wr) else none
    let m := m.modHam h (fun x => { x with chans := x.chans.set ch ((x.chans.get [] ch).drop 1) })
    let m := m.sbFree h c.id late
    let mine (r : Req) : Bool := r.ham = h && r.ack = some (ch, c.id)
    let m := (m.reqs.filter (fun r => mine r && r.stage = 9)).foldl (fun m r => m.forced r) m
    let m := { m with reqs := (m.reqs.filter (fun r => !(mine r && r.stage = 9))).map (fun r => if mine r && !ok then { r with op := 0 } else r) }
    match c.drain with
    | some e =>
      let f : ECmd → ECmd := fun y => { y with chanDone := some ok }
      m.modHam h (fun x => { x with eng := { x.eng with q := updateFirst (fun y => y.id = e) f x.eng.q } })
    | none =>
      let own := wbit (c.words.getD 7 0) b.rank
      let m := if ok && ((c.fn = 1 && c.fifo = 0) || (c.fn = 2 && !own)) then m.cwpAdd h c.block ch c.total else m
      if ok && c.arv && c.fn ≠ 2 then m.arriveCmd h c.block c.bar else m
/-- The warp that a command's reports name (R186). -/
def Mach.chanPause (m : Mach) (h ch : Nat) (c : Cmd) (cause : Cause) (va : Nat) (wr : Bool) : Mach :=
  let m := m.modHead h ch (fun c => { c with paused := true, found := none })
  m.fqPush h m.now
    { w0 := fqWord0 (cause / 256) (cause % 256) c.warp c.ctx (4 + ch) wr, w1 := word c.prog, w2 := word va,
      w3 := word (va / 2 ^ 32 % 2 ^ 16), rep := .chan ch c.id }

/-! ## Main memory (R100, R157, R191, R240) -/

/-- Where the parts of an access lie. -/
inductive Placed where
  | ok (l : List (Seg × Nat)) | miss (va : Nat) | held (pa : Nat) | fault (c : Cause) (va : Nat)
  deriving DecidableEq, Repr
/-- A virtual address as the walker takes it. -/
def vaNat (a : Int) : Nat := (a % 2 ^ 64).toNat
/-- Translate the parts of an access, in order: the first that faults, waits or misses decides (R100, R106, R191). -/
def Mach.placeSegs (m : Mach) (h ctx : Nat) (high : Bool) (acc : Access) : List Seg → Placed
  | [] => .ok []
  | s :: r =>
    let va := vaNat s.va
    if !canonical high s.va s.len then .fault noMapping va
    else match m.translate h ctx va acc with
      | .fault c => .fault c va
      | .miss => .miss va
      | .hit pa =>
        match m.reach (m.partHam h) pa (acc == .store) with
        | .fault c => .fault c va
        | .held => .held pa
        | .ok => match m.placeSegs h ctx high acc r with
          | .ok l => .ok ((s, pa) :: l)
          | x => x
/-- Read one part (R92, R240). -/
def Mach.segRead (mem : Memory) (m : Mach) (q pa n hint occ : Nat) : List Byte × Bool × Mach :=
  match m.target q pa with
  | .main _ => m.memRead mem q pa n hint occ
  | _ => m.devRead mem q pa n
/-- Write one part. -/
def Mach.segWrite (mem : Memory) (m : Mach) (q pa : Nat) (b : List Byte) (hint occ : Nat) : Bool × Mach :=
  match m.target q pa with
  | .main _ => m.memWrite mem q pa b hint occ
  | _ => m.devWrite mem q pa b
/-- Replace bytes of a list. -/
def patchAt (l : List Byte) (off : Nat) (b : List Byte) : List Byte := l.take off ++ b ++ l.drop (off + b.length)
/-- Read parts into a list of bytes; the first part with a word that fails its check (R194). -/
def Mach.readSegs (mem : Memory) (m : Mach) (h hint occ : Nat) (l : List (Seg × Nat)) (init : List Byte) :
    List Byte × Option Nat × Mach :=
  l.foldl (fun (a : List Byte × Option Nat × Mach) x =>
    let (b, e, m) := a.2.2.segRead mem (m.partHam h) x.2 x.1.len hint occ
    (patchAt a.1 x.1.off b, a.2.1.orElse (fun _ => if e then some (vaNat x.1.va) else none), m)) (init, none, m)
/-- A walk is started for a command (R192); with 64 in flight it tries again in the next cycle. -/
def Mach.chanWalk (m : Mach) (h ch : Nat) (c : Cmd) (va : Nat) (acc : Access) : Mach :=
  let (ok, m) := m.startWalk h c.ctx va (.chan ch c.id va) acc
  m.modHead h ch (fun c => if ok then { c with walking := true } else { c with due := m.now + 1 })
/-- A command waits for the next cycle. -/
def Mach.chanWait (m : Mach) (h ch : Nat) : Mach := m.modHead h ch (fun c => { c with due := m.now + 1 })

/-! ## Chunks (R104) -/

/-- Adjacent elements joined: (offset in the chunk, first address, bytes). -/
def joinElems (esz : Nat) (l : List (Nat × Option Int)) : List (Nat × Int × Nat) :=
  (l.foldl (fun (a : List (Nat × Int × Nat)) e =>
    match e.2, a with
    | none, _ => a
    | some va, (o, v, n) :: r => if o + n = e.1 ∧ v + n = va then (o, v, n + esz) :: r else (e.1, va, esz) :: a
    | some va, [] => [(e.1, va, esz)]) []).reverse
/-- The elements of a chunk, [lo, lo + n) of the packed box. -/
def Cmd.elems (c : Cmd) (lo n : Nat) : List (Nat × Option Int) :=
  let r := recOf c.rcd
  (List.range (n / r.esz)).map (fun i => (r.esz * i, r.addr (orgOf c.words) c.idx (lo / r.esz + i)))
/-- The parts of main memory that a chunk touches. -/
def Cmd.segs (c : Cmd) (lo n : Nat) : List Seg :=
  (joinElems (recOf c.rcd).esz (c.elems lo n)).flatMap (fun x => segsOf x.1 x.2.1 x.2.2)
/-- Local bytes at a descriptor's place: shared memory, or Commons with the hamlet's pending stores (R81, R115, R158); whether a
word fails its check. -/
def Mach.localRead (mem : Memory) (m : Mach) (h : Nat) (b : Block) (code off n : Nat) : List Byte × Bool :=
  if code = 0 then
    (granPieces off n).foldl (fun a p =>
      (a.1 ++ m.rdN mem (sharedKey h b p.1) p.2, a.2 || m.bad (sharedKey h b p.1) p.2)) ([], false)
  else
    let x := (m.window h b.ctx).1 + off
    let (l, e) := m.commonsRead mem (m.partHam h) (hamDie h) x n
    ((List.range n).map (fun i => (m.pathByte h (hamDie h) (x + i)).getD (l.getD i 0)), e)
/-- The read of those bytes corrects what it meets (R96). -/
def Mach.localSeen (m : Mach) (h : Nat) (b : Block) (code off n : Nat) : Mach :=
  if code = 0 then (granPieces off n).foldl (fun m p => m.seen (sharedKey h b p.1) p.2) m
  else m.seen (m.commonsKey (m.partHam h) (hamDie h) ((m.window h b.ctx).1 + off)) n
/-- Write shared memory of a block; none when a narrower store meets a word that fails its check. -/
def Mach.sharedPut (m : Mach) (h : Nat) (b : Block) (off : Nat) (data : List Byte) : Option Mach :=
  let ps := granPieces off data.length
  if ps.any (fun p => m.badStore (sharedKey h b p.1) p.2) then none
  else some (ps.foldl (fun m p => m.store (sharedKey h b p.1) ((data.drop (p.1 - off)).take p.2)) m)
/-- The pieces of [x, x + n) that lie in one line. -/
def linePieces (x n : Nat) : List (Nat × Nat) := (segsOf 0 (x : Int) n).map (fun s => (s.va.toNat, s.len))
/-- Write the own die's Commons through the store path, with acknowledgements to a channel's command (R81, R106); the lines
written, or none. -/
def Mach.commonsPut (m : Mach) (h : Nat) (b : Block) (off : Nat) (data : List Byte) (hint warp lane : Nat)
    (ack : Option (Nat × Nat)) : Option (Nat × Mach) :=
  let q := m.partHam h
  let x := (m.window h b.ctx).1 + off
  let ps := linePieces x data.length
  if ps.any (fun p => m.badStore (m.commonsKey q (hamDie h) p.1) p.2) then none
  else
    some (ps.length, m.enterPath q
      { id := 0, kind := .store, ham := h, warp, tag := q, home := 0, due := 0, die := hamDie h, hint, ctx := b.ctx, ack }
      (ps.map (fun p => (lane, p.1, (data.drop (p.1 - x)).take p.2))))
/-- The bytes that a FIFO holds. -/
def Fifo.length (f : Fifo) : Nat := f.data.length
/-- The first `n` bytes of a FIFO, and whether one of their words fails its check (R136, R194). -/
def Fifo.head (f : Fifo) (n : Nat) : List Byte × Bool := (f.data.take n, f.fails.any (fun w => 8 * w < n))
/-- A FIFO without its first `n` bytes. -/
def Fifo.drop (f : Fifo) (n : Nat) : Fifo :=
  { f with data := f.data.drop n, fails := (f.fails.filter (fun w => n ≤ 8 * w)).map (fun w => w - n / 8) }
/-- The first `n` bytes of a FIFO, with their failing words. -/
def Fifo.take (f : Fifo) (n : Nat) : Fifo := { data := f.data.take n, fails := f.fails.filter (fun w => 8 * w < n) }
/-- One piece of a stream before another. -/
def Fifo.before (f g : Fifo) : Fifo :=
  { g with data := f.data ++ g.data, fails := f.fails ++ g.fails.map (fun w => w + f.data.length / 8) }
/-- Bytes of a FIFO that may be taken in this cycle: those pushed in earlier cycles. -/
def Fifo.ready (f : Fifo) (now : Nat) : Nat := f.length - (if f.last.1 = now then f.last.2 else 0)
/-- Push bytes into a FIFO. -/
def Fifo.push (f : Fifo) (b : List Byte) (now : Nat) : Fifo := { f with data := f.data ++ b, last := (now, b.length) }
/-- The room of a FIFO for the next chunk (R136). -/
def Engine.room (e : Engine) (fifo n : Nat) : Bool :=
  if fifo = 2 then e.fifoW.length + n ≤ 16384 else e.fifoA.length + n ≤ 32768
/-- Discard bytes claimed by stopped commands as they stand in the FIFOs (R151); what is left of a tile on its way into the shadow is
the head of the weight FIFO again. -/
def Engine.discard (e : Engine) : Engine :=
  let ks := min e.dropW e.stage.length
  let e := if ks = 0 then e else
    { e with fifoW := (e.stage.drop ks).before e.fifoW, stage := {}, stageLen := 0, dropW := e.dropW - ks }
  { e with fifoW := e.fifoW.drop e.dropW, fifoA := e.fifoA.drop e.dropA, dropW := e.dropW - e.fifoW.length,
           dropA := e.dropA - e.fifoA.length }
/-- Push into a FIFO; the bytes of an owner that has left are discarded (R141). -/
def Mach.push (m : Mach) (h fifo : Nat) (c : Cmd) (data : List Byte) : Mach :=
  if c.discard then m
  else m.modHam h (fun x => { x with eng :=
    (if fifo = 2 then { x.eng with fifoW := x.eng.fifoW.push data m.now }
     else { x.eng with fifoA := x.eng.fifoA.push data m.now }).discard })
/-- Empty an accumulator row (R135). -/
def Engine.empty (e : Engine) (r : Nat) : Engine :=
  { e with
    tag := e.tag.erase r, acc := e.acc.filter (fun x => x.1 / 64 ≠ r), accFails := e.accFails.filter (fun w => w / 32 ≠ r)
    flow := e.flow.filter (fun f => f.row ≠ r) }
/-- The rows that a drain under ZAFTER has read between two positions become empty (R147). -/
def Engine.readRows (e : Engine) (z : Option (Nat × Nat)) (lo hi : Nat) : Engine :=
  match z with
  | none => e
  | some (r0, rowb) => ((List.range (hi / rowb)).drop (lo / rowb)).foldl (fun e i => e.empty (r0 + i)) e
/-- Send a chunk of COPYM to a block of another rank (R107, R242); messages to one hamlet keep their order, and none is dropped: a block that
has ended since takes no byte of it (R79). -/
def Mach.sendCopy (m : Mach) (h ch : Nat) (c : Cmd) (k off : Nat) (data : List Byte) (last : Bool) : Mach :=
  match (m.block h c.block).peers[k]? with
  | none => m
  | some (h', n) =>
    let (id, m) := m.fresh
    let (trip, m) := m.setOut (hamParish h) 18 (routeOf h' (hamRouter h) (hamRouter h'))
    let lanes := (granPieces off data.length).map (fun p => (c.lane, p.1, (data.drop (p.1 - off)).take p.2))
    let r : Req :=
      { id, kind := .sstore, ham := h, warp := c.warp, tag := m.partHam h, home := h', block := n, lanes, trip, due := 0,
        ctx := c.ctx, ack := some (ch, c.id), op := if last && c.arv then 1 else 0, reg := c.bar }
    m.post r
/-- The acknowledgement of main-memory parts (R106): as an LDC's result from each home; no fixed time where the slice forwards
the write or another unit takes it (R92). -/
def Mach.ackParts (m : Mach) (h hint ch id : Nat) (l : List (Seg × Nat)) : Mach :=
  l.foldl (fun m x =>
    let q := m.partHam h
    let pa := x.2
    let direct := match m.target q pa with | .main _ => m.homed q pa | _ => false
    let kept := hint ≠ 3 || (m.sliceLine (m.homeSlice q pa) pa).isSome
    let (t, m) := if direct then m.roundTrip h pa 28 else (doneAt (m.now + 1), m)
    let (t, m) := if direct && kept then (t, m) else m.openEnd t
    m.ackAfter h ch id t) m

/-- A chunk of the head command has been written: progress, write pointer, read interval, completion (R104, R106, R112). A code-4 drain goes
through its channel without a word of the write pointer: R104 counts the pushes of a COPYS, and R147 names no target (DEDUCED, log 12). -/
def Mach.chunkDone (m : Mach) (h ch n : Nat) (acks : Nat) : Mach :=
  match m.chanHead h ch with
  | none => m
  | some c =>
    let b := m.block h c.block
    let pulls := c.drain.isNone && (c.fn = 0 || c.fn = 2 || c.fn = 3)
    let isOver := c.prog + n ≥ c.total
    let (due, m) := if pulls && !isOver then m.someTime (m.now + 1) else (m.now + 1, m)
    let m := m.modHead h ch (fun c => { c with prog := c.prog + n, last := m.now, due, acks := c.acks + acks })
    let m := m.modHam h (fun x => { x with eng := x.eng.readRows c.zrows c.prog (c.prog + n) })
    let counts := c.drain.isNone && (c.fn = 0 || c.fn = 3 || (c.fn = 1 && c.fifo ≠ 0) || (c.fn = 2 && wbit (c.words.getD 7 0) b.rank))
    let m := if counts then m.cwpAdd h c.block ch n else m
    let m := if isOver && c.fn = 1 then m.sbReadDone h c.id else m
    if isOver && c.acks + acks = 0 then m.cmdOver h ch true else m
/-- Deliver a chunk's bytes inward: shared memory, Commons, a FIFO, or the ranks of a COPYM (R104, R317, R319). -/
def Mach.deliver (m : Mach) (h ch : Nat) (c : Cmd) (data : List Byte) : Mach :=
  let b := m.block h c.block
  let d := (c.words.headD 0).toNat
  let off := d % 2 ^ 27 + c.prog
  let n := data.length
  if c.fifo ≠ 0 then (m.push h c.fifo c data).chunkDone h ch n 0
  else if c.fn = 2 then
    let mask := c.words.getD 7 0
    let last := c.prog + n ≥ c.total
    let others := (List.range 16).filter (fun k => wbit mask k && k ≠ b.rank)
    match if wbit mask b.rank then m.sharedPut h b off data else some m with
    | none => m.chanPause h ch c badData (off % 2 ^ 32) true
    | some m =>
      let m := others.foldl (fun m k => m.sendCopy h ch c k off data last) m
      let m := if last && c.arv && wbit mask b.rank then m.arriveCmd h c.block c.bar else m
      m.chunkDone h ch n others.length
  else if d / 2 ^ 28 = 0 then
    match m.sharedPut h b off data with
    | none => m.chanPause h ch c badData off true
    | some m => m.chunkDone h ch n 0
  else
    match m.commonsPut h b off data c.hint c.warp c.lane (some (ch, c.id)) with
    | none => m.chanPause h ch c badData off true
    | some (k, m) => m.chunkDone h ch n k
/-- An inward chunk: COPY, COPYM, GATH (R100, R317, R319, R344). -/
def Mach.pullChunk (mem : Memory) (m : Mach) (h ch : Nat) (c : Cmd) (n : Nat) : Mach :=
  let r := recOf c.rcd
  match m.placeSegs h c.ctx (r.base.testBit 47) .load (c.segs c.prog n) with
  | .fault e va => m.chanPause h ch c e va false
  | .held pa => (m.hotWait pa).chanWait h ch
  | .miss va => m.chanWalk h ch c va .load
  | .ok l =>
    let init := (c.elems c.prog n).flatMap (fun _ => r.fillBytes)
    match m.readSegs mem h c.hint (m.occOf h c.ctx) l init with
    | (_, some va, _) => m.chanPause h ch c badData va false
    | (data, none, m) => m.deliver h ch c data
/-- The addition of an add-on-store, element by element (R128, R147): DTYPE 0 FP32, 2 FP64, 3 INT32. -/
def addBytes (dtype : Nat) (dst src : List Byte) : List Byte :=
  let n := if dtype = 2 then 8 else 4
  (List.range (src.length / n)).flatMap (fun i =>
    let a := natAt dst (n * i) n
    let b := natAt src (n * i) n
    leBytes n (if dtype = 3 then a + b else ((if dtype = 2 then F64 else F32).add .rne a b).1))
/-- The access of a write to main memory: an add-on-store reads too. -/
def Cmd.access (c : Cmd) : Access := if c.addTo.isSome then .amo else .store
/-- The sums that an add-on-store writes; none where an old word fails its check (R194). -/
def Mach.sums (mem : Memory) (m : Mach) (h : Nat) (c : Cmd) (l : List (Seg × Nat)) (data : List Byte) :
    Except Nat (List Byte × Mach) :=
  match c.addTo with
  | none => .ok (data, m)
  | some dtype =>
    match m.readSegs mem h c.hint (m.occOf h c.ctx) l (data.map (fun _ => 0)) with
    | (_, some va, _) => .error va
    | (old, none, m) => .ok (addBytes dtype old data, m)
/-- Write a chunk's bytes to main memory (R318); a chunk whose parts cannot all be written writes none. An add-on-store waits for
granules that another operation holds, and adds its whole tile (R148). -/
def Mach.putMain (mem : Memory) (m : Mach) (h ch : Nat) (c : Cmd) (data : List Byte) : Mach :=
  match m.placeSegs h c.ctx ((recOf c.rcd).base.testBit 47) c.access (c.segs c.prog data.length) with
  | .fault e va => m.chanPause h ch c e va true
  | .held pa => (m.hotWait pa).chanWait h ch
  | .miss va => m.chanWalk h ch c va c.access
  | .ok l => match m.sums mem h c l data with
   | .error va => m.chanPause h ch c badData va true
   | .ok (data, m0) =>
    let occ := m.occOf h c.ctx
    let m1 := m0.ackParts h c.hint ch c.id l
    let (bad, m2) := l.foldl (fun (a : Option Nat × Mach) x =>
      let (ok, m) := a.2.segWrite mem (m.partHam h) x.2 ((data.drop x.1.off).take x.1.len) c.hint occ
      (a.1.orElse (fun _ => if ok then none else some (vaNat x.1.va)), m)) (none, m1)
    match bad with
    | some va => m.chanPause h ch c badData va true
    | none =>
      m2.chunkDone h ch data.length l.length
/-- An outward chunk of COPYS (R318). -/
def Mach.outChunk (mem : Memory) (m : Mach) (h ch : Nat) (c : Cmd) (n : Nat) : Mach :=
  let b := m.block h c.block
  let d := (c.words.headD 0).toNat
  let off := d % 2 ^ 27 + c.prog
  match m.localRead mem h b (d / 2 ^ 28) off n with
  | (_, true) => m.chanPause h ch c badData off false
  | (data, false) =>
    let m := m.localSeen h b (d / 2 ^ 28) off n
    if c.fifo ≠ 0 then m.deliver h ch c data else m.putMain mem h ch c data
/-- The indices of a GATH are read before any byte is written (R344). -/
def Mach.readIndex (mem : Memory) (m : Mach) (h ch : Nat) (c : Cmd) : Mach :=
  let r := recOf c.rcd
  let k := r.box.getD 1 1
  let a : Int := r.idx + r.gw * (c.words.getD 7 0).toNat
  match m.placeSegs h c.ctx false .load (segsOf 0 a (k * r.gw)) with
  | .fault e va => m.chanPause h ch c e va false
  | .held pa => (m.hotWait pa).chanWait h ch
  | .miss va => m.chanWalk h ch c va .load
  | .ok l =>
    match m.readSegs mem h c.hint (m.occOf h c.ctx) l (leBytes (k * r.gw) 0) with
    | (_, some va, _) => m.chanPause h ch c badData va false
    | (b, none, m) => m.modHead h ch (fun c => { c with idx := some ((List.range k).map (fun i => natAt b (r.gw * i) r.gw)) })

/-! ## PREF (R320) -/

/-- The next line of the box not yet requested, from position `p`: an element's first byte (even) or last (odd). -/
def Cmd.nextLine (c : Cmd) : Nat → Nat → Option (Nat × Int)
  | 0, _ => none
  | k + 1, p =>
    let r := recOf c.rcd
    match r.addr (orgOf c.words) none (p / 2) with
    | none => c.nextLine k (p + 1)
    | some a =>
      let va := a + (if p % 2 = 0 then 0 else (r.esz - 1 : Nat))
      if c.lines.contains (vaNat va / 128) then c.nextLine k (p + 1) else some (p, va)
/-- One request of a PREF: a line that faults or that lies outside the package or partition is skipped. -/
def Mach.prefLine (mem : Memory) (m : Mach) (h ch : Nat) (c : Cmd) : Mach :=
  match c.nextLine (c.total - c.prog) c.prog with
  | none =>
    let m := m.modHead h ch (fun c => { c with prog := c.total })
    if c.acks = 0 then m.cmdOver h ch true else m
  | some (p, va) =>
    let line := vaNat va / 128
    let q := m.partHam h
    let skip (m : Mach) : Mach := m.modHead h ch (fun c => { c with prog := p, lines := line :: c.lines, found := none })
    if c.found.isSome then skip m
    else match m.placeSegs h c.ctx ((recOf c.rcd).base.testBit 47) .load [⟨0, 1, va⟩] with
      | .fault _ _ => skip m
      | .held pa => (m.hotWait pa).chanWait h ch
      | .miss va => m.chanWalk h ch c va .load
      | .ok l =>
        let pa := (l.map (·.2)).headD 0
        if !(match m.target q pa with | .main _ => m.homed q pa | _ => false) then skip m
        else
          let (t, m) := m.homeTime h pa
          let (_, m) := m.sliceBring mem (m.homeSlice q pa) pa c.hint (m.occOf h c.ctx) false
          let m := (skip m).modHead h ch (fun c => { c with due := m.now + 1, acks := c.acks + 1 })
          m.ackAfter h ch c.id t

/-! ## COMMAND_CHUNK -/

/-- The head of a channel has a chunk to write now: started, not paused, its sources here (R97, R106). -/
def Mach.chunkDue (m : Mach) (h ch : Nat) : Bool :=
  match m.chanHead h ch with
  | none => false
  | some c =>
    c.start.isSome && !c.paused && !c.walking && c.due ≤ m.now && !(m.ctx h c.ctx).stopped && (c.prog < c.total || c.found.isSome) &&
    c.fn ≠ 5 && c.drain.all (fun e => (m.ham h).eng.q.any (fun y => y.id = e && y.phase == .draining)) && (c.fifo = 0 || c.discard || (m.ham h).eng.room c.fifo (min 128 (c.total - c.prog)))
/-- COMMAND_CHUNK. -/
def commandChunk (h ch : Nat) : Act := fun mem m =>
  match m.chanHead h ch with
  | none => m
  | some c =>
    let n := min 128 (c.total - c.prog)
    if !m.chunkDue h ch then m
    else if c.drain.isNone && c.fn = 4 then m.prefLine mem h ch c
    else match c.found with
      | some (e, va, atHome) => m.chanPause h ch c e va (atHome || c.writesMain)
      | none =>
        if c.addTo.isSome then m.putMain mem h ch c c.src
        else if c.drain.isSome then m.putMain mem h ch c ((c.src.drop c.prog).take n)
        else if c.fn = 1 then m.outChunk mem h ch c n
        else if c.fn = 3 && c.idx.isNone then m.readIndex mem h ch c
        else m.pullChunk mem h ch c n
/-- COMMAND_CHUNK. -/
def execCommandChunk (ham chan : Nat) (s : State) := lift (commandChunk ham chan) s

/-! ## AMO (R289 to R293) -/

/-- The new value of an AMO's word of `n` bits. -/
def amoNew (op n old v c : Nat) : Nat :=
  let sg (x : Nat) : Int := (BitVec.ofNat n x).toInt
  match op with
  | 0 => (old + v) % 2 ^ n
  | 1 => ((if n = 64 then F64 else F32).add .rne old v).1
  | 2 => if sg v < sg old then v else old
  | 3 => if sg old < sg v then v else old
  | 4 => if v < old then v else old
  | 5 => if old < v then v else old
  | 6 => old &&& v
  | 7 => old ||| v
  | 8 => old ^^^ v
  | 9 => v
  | 10 => if old = c then v else old
  | _ => if old ≥ v then 0 else (old + 1) % 2 ^ n
/-- The operand of an AMO: address, bytes, operand, compare value. -/
def amoOperands (ws : List Word) : Nat × Nat × Nat × Nat :=
  let w (i : Nat) := (ws.getD i 0).toNat
  (w 1 + w 2 % 2 ^ 16 * 2 ^ 32, if wbit (ws.getD 6 0) 4 then 8 else 4, w 4 * 2 ^ 32 + w 3, w 7 * 2 ^ 32 + w 5)
/-- An AMO's point of performance (R292): where its word stands, the journey of the reply, the state that leads there. -/
def Mach.amoPlace (mem : Memory) (m : Mach) (h : Nat) (c : Cmd) (pa : Nat) : Nat × Trip × Mach :=
  let q := m.partHam h
  let occ := m.occOf h c.ctx
  let s := m.homeSlice q pa
  if !wbit (c.words.getD 6 0) 5 then
    let here := (m.sliceLine s pa).isSome
    match m.sliceBring mem s pa c.hint occ false true with
    | (some k, m) =>
      let (t, m) := m.roundTrip h pa 32
      let t := { t with spans := t.spans ++ [.units cycleUnits] }
      let (t, m) := if here then (t, m) else m.openEnd t
      (k + pa % 128, t, m.sliceDirty s pa)
    | (none, m) => (pa, doneAt (m.now + 1), m)
  else
    let m := match if m.homed q pa then m.sliceLine s pa else none with
      | some l =>
        let m := m.writeBack mem s l
        m.setSlice s { m.slice s with lines := (m.slice s).lines.filter (fun x => x.tag ≠ pa / 128) }
      | none => m
    let m := if pa / 2 ^ 40 = m.ownPkg then { m.llcTouch mem pa c.hint occ false true with resv := (c.id, 1 + s, pa / 128) :: m.resv }
      else m.sendFlit (pa / 2 ^ 40) 0 (Config.amoFlit c.words)
    let (t, m) := m.openEnd (doneAt (m.now + 1))
    (pa, t, m)
/-- The AMO at the head of a channel may act now: started, not paused, its word not reserved by another operation (R148, R292). -/
def Mach.amoDue (m : Mach) (h ch : Nat) : Bool :=
  match m.chanHead h ch with
  | none => false
  | some c =>
    c.fn = 5 && c.drain.isNone && c.start.isSome && !c.paused && !c.walking && c.due ≤ m.now && !(m.ctx h c.ctx).stopped &&
    c.acks = 0
/-- The result of a performed AMO is written (R291, R292): it completes then; a result in Commons when it has reached its home
(R106). -/
def Mach.amoResult (m : Mach) (h ch : Nat) (c : Cmd) : Mach :=
  let b := m.block h c.block
  let (_, n, _, _) := amoOperands c.words
  let d := (c.words.headD 0).toNat
  let off := d % 2 ^ 27
  let data := leBytes n c.old
  if !wbit (c.words.getD 6 0) 6 ∨ c.prog = 1 then m.cmdOver h ch true
  else if d / 2 ^ 28 = 0 then
    match m.sharedPut h b off data with
    | none => m.chanPause h ch c badData off true
    | some m => m.cmdOver h ch true
  else
    match m.commonsPut h b off data c.hint c.warp c.lane (some (ch, c.id)) with
    | none => m.chanPause h ch c badData off true
    | some (k, m) => m.modHead h ch (fun c => { c with acks := k, prog := 1 })
/-- AMO_PERFORM (R291 to R293). R293 gives group 0x04 code 0x06 to every address with bit 47 set, R12 and R240 give group 0x03 code 0x02
to one that no target has or that lies in a register aperture: R240 is followed where it names the address, R293 at the other addresses with
bit 47 set, those of the NVMe window and of Commons (DEDUCED, log 23). -/
def amoPerform (h ch : Nat) : Act := fun mem m =>
  match m.chanHead h ch with
  | none => m
  | some c =>
    let (va, n, v, cmp) := amoOperands c.words
    let q := m.partHam h
    if !m.amoDue h ch then m
    else match c.found with
      | some (e, _, _) => m.chanPause h ch c e va true
      | none =>
        if c.performed then m.amoResult h ch c
        else match m.translate h c.ctx va .amo with
          | .fault e => m.chanPause h ch c e va true
          | .miss => m.chanWalk h ch c va .amo
          | .hit pa =>
            let sys := wbit (c.words.getD 6 0) 5
            let there := match m.target q pa with
              | .nvme _ | .commons .. => true
              | .main p => !sys && p ≠ m.ownPkg
              | _ => false
            if there then m.chanPause h ch c 0x406 va true
            else if sys && m.stackWaits pa then (m.hotWait pa).chanWait h ch
            else match m.reach q pa true with
              | .fault e => m.chanPause h ch c e va true
              | .held => (m.hotWait pa).chanWait h ch
              | .ok =>
                let (k, t, m') := m.amoPlace mem h c pa
                if m.reserved c.id k then m.chanWait h ch
                else if m'.bad k n then m.chanPause h ch c badData va true
                else
                  let m' := if n = 8 then m'.seen k n else m'
                  let old := m'.rdNat mem k n
                  let new := leBytes n (amoNew (wbits (c.words.getD 6 0) 0 4) (8 * n) old v cmp)
                  let m := (m'.store k new).noteShadow pa new
                  let m := m.modHead h ch (fun c => { c with performed := true, old, acks := 1 })
                  m.ackAfter h ch c.id t
/-- AMO_PERFORM. -/
def execAmoPerform (ham chan : Nat) (s : State) := lift (amoPerform ham chan) s

/-! ## CHUNK_ACKNOWLEDGEMENT (R106) -/

/-- CHUNK_ACKNOWLEDGEMENT: the last acknowledgement completes the command. -/
def chunkAck (h ch id : Nat) : Act := fun _ m =>
  match m.chanHead h ch with
  | none => m
  | some c =>
    if c.id ≠ id then m
    else
      let m := m.modHead h ch (fun c => { c with acks := c.acks - 1, lastAck := m.now })
      let c := { c with acks := c.acks - 1 }
      if c.acks ≠ 0 then m
      else if c.drain.isNone && c.fn = 5 then
        { m with resv := m.resv.filter (fun r => r.1 ≠ id) }.amoResult h ch c
      else if c.prog ≥ c.total && c.found.isNone && !c.paused then m.cmdOver h ch true else m

end Sys2Proof.Machine
end

