-- ==== Sys2Proof/Machine/Quant.lean ====
section
/-! DEFINITION. The quantisation engine: QENQ, QWAIT, COMMAND_START (channels and this engine), QENG_COMPLETE (R129 to R133, R151,
R194, R372). -/
namespace Sys2Proof.Machine

/-! ## The words of QENQ (R130) -/

/-- ROWS and NB. -/
def qRows (ws : List Word) : Nat × Nat := (wbits (ws.getD 3 0) 0 16, wbits (ws.getD 3 0) 16 16)
/-- Bytes of a source element. -/
def qSrc (ws : List Word) : Nat := if wbits (ws.getD 5 0) 0 2 = 0 then 4 else 2
/-- DFMT. -/
def qDfmt (ws : List Word) : Nat := wbits (ws.getD 5 0) 4 3
/-- Bytes of a block's elements (R119). -/
def qBlock (ws : List Word) : Nat := if qDfmt ws = 0 ∨ qDfmt ws = 3 then 16 else 32
/-- The three footprints: source, elements, scales. -/
def qSizes (ws : List Word) : Nat × Nat × Nat :=
  let (rows, nb) := qRows ws
  ((rows - 1) * (ws.getD 4 0).toNat + 32 * nb * qSrc ws, rows * nb * qBlock ws, 4 * rows * nb)
/-- The smallest interval that covers two. -/
def Itv.join (a b : Itv) : Itv := ⟨a.space, min a.lo b.lo, max a.hi b.hi⟩
/-- The commands of a block in the engine's queue. -/
def Hamlet.qCount (x : Hamlet) (n : Nat) : Nat := (x.qeng.filter (fun c => c.block = n)).length
/-- The checks of R130, in order: a code of group 0x04, or the source and destination intervals. -/
def Mach.planQenq (m : Mach) (h n : Nat) (ws : List Word) : Except Nat (Itv × Itv) :=
  let b := m.block h n
  let w (i : Nat) := ws.getD i 0
  let (rows, nb) := qRows ws
  let (fs, fe, fc) := qSizes ws
  let c := w 5
  let stride := (w 4).toNat
  match descOf (w 0) 1, descOf (w 1) 1, descOf (w 2) 1 with
  | some (k0, o0), some (k1, o1), some (k2, o2) =>
    if k1 ≠ k2 || rows = 0 || rows > 4096 || nb = 0 || nb > 256 || stride % 4 ≠ 0 || stride < 32 * nb * qSrc ws ||
        !only c 0x773 || wbits c 0 2 > 1 || wbits c 4 3 > 4 || (!wbit c 9 && w 6 ≠ 0) || w 7 ≠ 0 then .error 1
    else if !m.fits h b k0 o0 fs false || !m.fits h b k1 o1 fe true || !m.fits h b k2 o2 fc true then .error 2
    else if (m.ham h).qCount n ≥ 16 then .error 5
    else .ok (m.localItv h b k0 o0 fs, (m.localItv h b k1 o1 fe).join (m.localItv h b k2 o2 fc))
  | _, _, _ => .error 1
/-- QENQ (R130, R372). -/
def execQenq (_ : Hdr) (sr : BitVec 8) (n : BitVec 4) (z : BitVec 1) (s : State) :=
  lift (fun _ m =>
    let act := m.activeAll z.toNat
    let ws := m.words sr.toNat 8
    let h := m.cur.ham
    let x := m.ham h
    if act = 0 then m
    else match m.planQenq h m.cw.block ws with
      | .error code => m.trapWord 4 code (engDetail m.cur.word 5)
      | .ok (rd, wr) =>
        if x.qeng.length ≥ 16 ∨ x.sbFull then m.notIssued
        else
          let (id, m) := m.fresh
          let c : QCmd :=
            { id, warp := m.cur.warp, block := m.cw.block, ctx := m.cb.ctx, bar := n.toNat, arv := wbit (ws.getD 5 0) 10,
              words := ws, issue := m.now }
          (m.modHam h (fun x => { x with qeng := x.qeng ++ [c] })).sbTake h id m.cw.block (some rd) (some wr)) s
/-- QWAIT (R133, R372). -/
def execQwait (_ : Hdr) (sr : BitVec 8) (z : BitVec 1) (s : State) :=
  lift (fun _ m =>
    let act := m.active z.toNat
    let n := m.s sr.toNat
    if act = 0 ∨ (m.ham m.cur.ham).qCount m.cw.block ≤ n.toNat then m
    else m.modCw (fun x => x.hold act .qwait m.cur.succ 0 n)) s
/-- The lanes of a warp held for a count that has been reached. -/
def Warp.counted (x : Warp) (why : Hold) (n : Nat) : Word :=
  maskOf (fun l => (x.lane l).st == .held why && n ≤ (x.lane l).val.toNat)
/-- Release the lanes of a block's warps that wait for a count (R133, R150). -/
def Mach.countWake (m : Mach) (h n : Nat) (why : Hold) (k : Nat) : Mach :=
  (m.warpsOf h n).foldl (fun m w => m.modWarp h w (fun x => x.release (x.counted why k) (m.now + 4))) m

/-! ## Quantising (R131, R132) -/

/-- One draw of a context's generator (R132). -/
def qDraw (g : Word) : Word :=
  let g := g ^^^ (g <<< 13)
  let g := g ^^^ (g >>> 17)
  g ^^^ (g <<< 5)
/-- A positive rational as `m × 2^e / (n × 2^f)`. -/
structure QRat where
  neg : Bool
  m : Nat
  e : Int
  n : Nat
  f : Int
/-- The floating format of DFMT 0 to 2. -/
def qFmt (d : Nat) : Fmt := if d = 0 then E2M1 else if d = 1 then E4M3 else E5M2
/-- A rational in units of 2^q, as a signed numerator over a denominator. -/
def QRat.over (y : QRat) (q : Int) : Int × Nat :=
  let k := y.e - y.f - q
  let num : Nat := y.m * 2 ^ k.toNat
  let den : Nat := y.n * 2 ^ (-k).toNat
  (if y.neg then -(num : Int) else num, den)
/-- The floor of a rational. -/
def floorDiv (a : Int) (d : Nat) : Int := a.fdiv d
/-- A rational rounded to an integer under RNE. -/
def rneInt (a : Int) (d : Nat) : Int :=
  let f := floorDiv a d
  let r := a - f * d
  if 2 * r > d ∨ (2 * r = d ∧ f % 2 = 1) then f + 1 else f
/-- R131: the encoding of an element, with the draw's bits `r` under stochastic rounding. -/
def quantise (dfmt : Nat) (sr : Bool) (r : Nat) (y : QRat) : Nat :=
  if dfmt ≤ 2 then
    let F := qFmt dfmt
    if y.m = 0 then F.sgn y.neg
    else
      let near := F.quot .rne y.neg y.m y.e y.n y.f
      if !sr || near.2 % 2 = 0 then near.1
      else
        let lo := (F.quot .rdn y.neg y.m y.e y.n y.f).1
        let hi := (F.quot .rup y.neg y.m y.e y.n y.f).1
        let l := (F.dec lo).scaled F.qmin
        let u := (F.dec hi).scaled F.qmin
        let (a, d) := y.over F.qmin
        if r * (u - l) * d < (a - l * d) * 2 ^ 24 then hi else lo
  else
    let w := if dfmt = 3 then 4 else 8
    let (a, d) := y.over 0
    let v := if !sr then rneInt a d
      else
        let l := floorDiv a d
        if a = l * d then l else if (r : Int) * d < (a - l * d) * 2 ^ 24 then l + 1 else l
    (v % 2 ^ w).toNat
/-- fmax of R131 as an integer times a power of two. -/
def qMax (d : Nat) : Nat := [6, 448, 57344, 7, 127].getD d 6
/-- The scale of a block of magnitude `m × 2^e`, m nonzero: its FP32 encoding. -/
def qScale (dfmt : Nat) (exact : Bool) (m : Nat) (e : Int) : Nat :=
  if exact then max (F32.quot .rup false m e (qMax dfmt) 0).1 1
  else
    let k := ((List.range 320).find? (fun i => m * 2 ^ (e + 149).toNat ≤ qMax dfmt * 2 ^ i)).getD 0
    (F32.round .rne false 1 ((k : Int) - 149)).1
/-- One block: element encodings, scale, and the generator after it. -/
def qBlockOf (ws : List Word) (g : Word) (xs : List FVal) : List Nat × Word × Word :=
  let c := ws.getD 5 0
  let sr := wbit c 9
  let dfmt := qDfmt ws
  let special := xs.any (fun x => match x with | .fin .. => false | _ => true)
  let top : Nat × Int := xs.foldl (fun a x => match x with
    | .fin _ m e => if FVal.cmp (.fin false a.1 a.2) (.fin false m e) = .lt then (m, e) else a
    | _ => a) (0, 0)
  let scale : Nat := if special then 0x7FC00000 else if top.1 = 0 then 0x3F800000 else qScale dfmt (wbit c 8) top.1 top.2
  let s : Nat × Int := match F32.dec scale with | .fin _ m e => (m, e) | _ => (1, 0)
  let (es, g) := xs.foldl (fun (a : List Nat × Word) x =>
    let g := if sr then qDraw a.2 else a.2
    let e := match x with
      | .fin neg m e => if special then 0 else quantise dfmt sr (wbits g 8 24) ⟨neg, m, e, s.1, s.2⟩
      | _ => 0
    (a.1 ++ [e], g)) ([], g)
  (es, word scale, g)
/-- The packed elements of a block (R118, R119). -/
def qPack (ws : List Word) (es : List Nat) : List Byte :=
  if qBlock ws = 16 then (List.range 16).map (fun i => BitVec.ofNat 8 (es.getD (2 * i) 0 + 16 * es.getD (2 * i + 1) 0))
  else es.map (BitVec.ofNat 8)

/-! ## Execution -/

/-- A command of the engine leaves its queue (R131, R133, R151). -/
def Mach.qengOver (m : Mach) (h : Nat) (ok : Bool) : Mach :=
  match (m.ham h).qeng with
  | [] => m
  | c :: r =>
    let late := ((m.ham h).sb.find? (fun e => e.id = c.id)).bind (·.wr)
    let m := (m.modHam h (fun x => { x with qeng := r })).sbFree h c.id (if ok then late else none)
    let m := if ok && c.arv then m.arriveCmd h c.block c.bar else m
    m.countWake h c.block .qwait ((m.ham h).qCount c.block)
/-- A local write of an engine: shared memory, or Commons through the store path with acknowledgements to unit `unit` (R81). -/
def Mach.localPut (m : Mach) (h : Nat) (b : Block) (code off : Nat) (data : List Byte) (warp unit id : Nat) : Option (Nat × Mach) :=
  if code = 0 then (m.sharedPut h b off data).map (fun m => (0, m))
  else m.commonsPut h b off data 0 warp 0 (some (unit, id))
/-- The blocks of a command. -/
def QCmd.blocks (c : QCmd) : Nat := (qRows c.words).1 * (qRows c.words).2
/-- The command at the head stops: its report has source 9 (R151, R186). -/
def Mach.qengStop (m : Mach) (h : Nat) (c : QCmd) (cause : Cause) (wr : Bool) : Mach :=
  (m.qengOver h false).fqPush h m.now
    { w0 := fqWord0 (cause / 256) (cause % 256) c.warp c.ctx 9 wr, w1 := word (c.pos * qBlock c.words), w2 := 0, w3 := 0,
      rep := .noReply }
/-- Block `c.pos` of a command is computed and written: the acknowledgements that its writes will bring, and the state; or whether a
write, not a read, met a word that fails its check (R131, R132, R194). The elements are written before the scale: where the two arrays
overlap, the scale's bytes stand (DESIGN CHOICE, log 12). -/
def Mach.quantBlock (mem : Memory) (m : Mach) (h : Nat) (c : QCmd) : Except Bool (Nat × Mach) :=
  let ws := c.words
  let b := m.block h c.block
  let nb := (qRows ws).2
  let i := c.pos
  let d (k : Nat) := (ws.getD k 0).toNat
  let (code, src) := (d 0 / 2 ^ 28, d 0 % 2 ^ 27 + i / nb * d 4 + i % nb * 32 * qSrc ws)
  match m.localRead mem h b code src (32 * qSrc ws) with
  | (_, true) => .error false
  | (bytes, false) =>
    let xs := (List.range 32).map (fun j =>
      let x := natAt bytes (qSrc ws * j) (qSrc ws)
      F32.dec (if qSrc ws = 2 then x * 2 ^ 16 else x))
    let seed := ws.getD 6 0
    let gen := (m.ctx h c.ctx).gen
    let (es, scale, g) := qBlockOf ws (if i = 0 && wbit (ws.getD 5 0) 9 && seed ≠ 0 then seed else gen) xs
    let m := m.localSeen h b code src (32 * qSrc ws)
    let put (m : Mach) (k at' : Nat) (data : List Byte) := m.localPut h b (d k / 2 ^ 28) (d k % 2 ^ 27 + at') data c.warp 4 c.id
    match put m 1 (i * qBlock ws) (qPack ws es) with
    | none => .error true
    | some (k1, m) => match put m 2 (4 * i) (leBytes 4 scale.toNat) with
      | none => .error true
      | some (k2, m) => .ok (k1 + k2, m.modHam h (fun x => { x with ctxs := x.ctxs.set c.ctx { x.ctxs.get default c.ctx with gen := g } }))
/-- Change the command at the head of the engine's queue. -/
def Mach.modQeng (m : Mach) (h : Nat) (f : QCmd → QCmd) : Mach :=
  m.modHam h (fun x => { x with qeng := match x.qeng with | c :: l => f c :: l | [] => [] })
/-- The command at the head of the engine's queue has a block to write now (R131). -/
def Mach.qengDue (m : Mach) (h : Nat) : Bool :=
  match (m.ham h).qeng with
  | c :: _ => c.start.isSome && (c.pos < c.blocks || c.fault.isSome) && c.due ≤ m.now && !(m.ctx h c.ctx).stopped
  | [] => false
/-- The command at the head is over when its blocks are written and have all been acknowledged (R131, R106). -/
def Mach.qengDone (m : Mach) (h : Nat) : Mach :=
  match (m.ham h).qeng with
  | c :: _ => if c.pos = c.blocks && c.acks = 0 then m.qengOver h true else m
  | [] => m
/-- QENG_COMPLETE: the blocks are written in ascending (row, block) order, one in a cycle, with one draw for each element under SR; the
read interval goes with the last read, and the command completes with the last block or acknowledgement (R112, R131, R132). A word that
fails its check stops the command with a fault-queue entry of source 9 (R151, R186, R194). -/
def qengComplete (h : Nat) : Act := fun mem m =>
  match (m.ham h).qeng with
  | [] => m
  | c :: _ =>
    if !m.qengDue h then m
    else match c.fault, m.quantBlock mem h c with
      | some x, _ => m.qengStop h c x true
      | none, .error wr => m.qengStop h c badData wr
      | none, .ok (k, m) =>
        let m := if c.pos + 1 = c.blocks then m.sbReadDone h c.id else m
        (m.modQeng h (fun c => { c with pos := c.pos + 1, acks := c.acks + k, due := m.now + 1 })).qengDone h
/-- QENG_COMPLETE. -/
def execQengComplete (ham : Nat) (s : State) := lift (qengComplete ham) s
/-- The head of the quantisation engine's queue may start (R113, R131). -/
def Mach.qengMayStart (m : Mach) (h : Nat) : Bool :=
  match (m.ham h).qeng with
  | c :: _ => c.start.isNone && !(m.ctx h c.ctx).stopped && !m.sbWaits h c.id
  | [] => false
/-- COMMAND_START (R97, R113, R131): units 0 to 3 are the channels, unit 4 the quantisation engine. -/
def execCommandStart (ham unit : Nat) (s : State) :=
  lift (fun _ m =>
    if unit < 4 then m.chanStart ham unit
    else if m.qengMayStart ham then m.modQeng ham (fun c => { c with start := some m.now, due := m.now + 24 })
    else m) s
/-- An acknowledgement reaches the quantisation engine (R81, R106, R131). -/
def Mach.qengAck (m : Mach) (h id : Nat) : Mach :=
  match (m.ham h).qeng with
  | c :: _ => if c.id ≠ id then m else (m.modQeng h (fun c => { c with acks := c.acks - 1 })).qengDone h
  | [] => m

end Sys2Proof.Machine
end

