-- ==== Sys2Proof/Machine/Tiles.lean ====
section
/-! DEFINITION. The arithmetic of the matrix engine: formats and tile shapes (R134), tile layouts (R137, R138), KB32 values (R119),
accumulator rows (R135), MMOP and MMSP sums (R128, R144, R145, R149), drained rows (R147, R148). -/
namespace Sys2Proof.Machine

/-! ## Formats (R134) -/

/-- Bits of an element of a format. -/
def mmBits (f : Nat) : Nat := [64, 16, 16, 8, 8, 4, 8, 4].getD f 0
/-- K of a weight tile. -/
def mmK (f : Nat) : Nat := [16, 128, 128, 128, 128, 256, 128, 128].getD f 0
/-- N of a weight tile. -/
def mmN (f : Nat) : Nat := if f = 0 then 32 else 64
/-- Cycles for an activation row. -/
def mmCycles (f : Nat) : Nat := if f = 1 ∨ f = 2 then 2 else 1
/-- The next multiple of 32 (R138). -/
def pad32 (n : Nat) : Nat := roundUp n 32
/-- Bytes of a weight tile (R138). -/
def weightLen (f : Nat) (kb : Bool) : Nat := 32 + mmK f * mmN f * mmBits f / 8 + if kb then 4 * mmN f * mmK f / 32 else 0
/-- Bytes of an activation tile's scales: `k` is the tile's K (R138). -/
def scaleLen (m k : Nat) (kb : Bool) : Nat := if kb then pad32 (4 * m * k / 32) else 0
/-- Bytes of an activation row. -/
def rowLen (f k : Nat) : Nat := k * mmBits f / 8
/-- Bytes of an activation tile (R138). -/
def activLen (f m k : Nat) (kb : Bool) : Nat := 32 + scaleLen m k kb + pad32 (m * rowLen f k)
/-- A weight tile's length from its header, and whether the header gives none (R136). -/
def tileLen (hd : List Byte) : Nat × Bool :=
  let fmt := natAt hd 1 1
  if natAt hd 0 1 ≠ 0x57 ∨ fmt / 32 ≠ 0 ∨ fmt % 16 ≥ 8 ∨ (hd.drop 2).any (fun b => b ≠ 0) then (32, true)
  else (weightLen (fmt % 16) (fmt / 16 % 2 = 1), false)
/-- The accumulator type of a command (R135): 1 FP32, 2 INT32, 3 FP64. -/
def accType (a b : Nat) (akb bkb : Bool) : Nat :=
  if a = 0 ∧ b = 0 then 3 else if a ≥ 6 ∧ b ≥ 6 ∧ !akb ∧ !bkb then 2 else 1

/-! ## Elements (R118, R119) -/

/-- Element `j` of a packed sequence. -/
def elemAt (a : Array Byte) (f off j : Nat) : Nat :=
  let byte (i : Nat) : Nat := (a.getD i 0).toNat
  if mmBits f = 4 then byte (off + j / 2) / 16 ^ (j % 2) % 16
  else (List.range (mmBits f / 8)).foldl (fun x i => x + byte (off + mmBits f / 8 * j + i) * 256 ^ i) 0
/-- The value of an element's encoding. -/
def elemVal (f x : Nat) : FVal :=
  match f with
  | 0 => F64.dec x
  | 1 => F16.dec x
  | 2 => BF16.dec x
  | 3 => E4M3.dec x
  | 4 => E5M2.dec x
  | 5 => E2M1.dec x
  | 6 => intVal (BitVec.ofNat 8 x).toInt
  | _ => intVal (BitVec.ofNat 4 x).toInt
/-- The integer of an INT8 or INT4 element. -/
def elemInt (f x : Nat) : Int := if f = 6 then (BitVec.ofNat 8 x).toInt else (BitVec.ofNat 4 x).toInt
/-- An element under its block's scale (R119). -/
def scaledVal (scale : Option Nat) (x : FVal) : FVal :=
  match scale with
  | none => x
  | some s => (FVal.mul (F32.dec s) x).1
/-- `k` elements from an offset, and the scales of their blocks from another. -/
def vector (a : Array Byte) (f off k : Nat) (scales : Option Nat) : List FVal :=
  (List.range k).map (fun j =>
    let s := scales.map (fun o => elemAt a 1 (o + 4 * (j / 32)) 0 + 65536 * elemAt a 1 (o + 4 * (j / 32)) 1)
    scaledVal s (elemVal f (elemAt a f off j)))

/-! ## Accumulator rows (R135) -/

/-- The latest results on their way to a row: later reads and writes of the row take effect after them (R144, R146). -/
def Engine.flowOf (e : Engine) (r : Nat) : Option Flow := e.flow.reverse.find? (fun f => f.row = r)
/-- A row's tag, as the reads and writes of later commands meet it. -/
def Engine.tagOf (e : Engine) (r : Nat) : Nat := match e.flowOf r with | some f => f.typ | none => e.tag.get 0 r
/-- A row's value: 64 words, an empty row reading as zero. -/
def Engine.rowWord (e : Engine) (r w : Nat) : Word :=
  match e.flowOf r with
  | some f => f.words.getD w 0
  | none => if e.tag.get 0 r = 0 then 0 else e.acc.get 0 (64 * r + w)
/-- A read of the row meets a word that fails its check (R194). -/
def Engine.rowFails (e : Engine) (r : Nat) : Bool := (e.flowOf r).isNone && e.tag.get 0 r ≠ 0 && e.accFails.any (fun w => w / 32 = r)
/-- Set a row's words and its tag; the write cures its words (R194). -/
def Engine.setRow (e : Engine) (r t : Nat) (ws : List Word) : Engine :=
  { e with
    tag := e.tag.set r t, acc := (List.range 64).foldl (fun a i => a.set (64 * r + i) (ws.getD i 0)) e.acc
    accFails := e.accFails.filter (fun w => w / 32 ≠ r), flow := e.flow.filter (fun f => f.row ≠ r) }
/-- The columns of a row of results that have been written by a cycle: column n in the 114 + n-th after the row's entry (R146). -/
def Flow.landed (f : Flow) (now : Nat) : Nat := min f.cols (now + 1 - (f.entry + 114))
/-- The columns of a row of results from `done` on that are due are written, with the row's tag at the first (R146, R194). -/
def Engine.landRow (e : Engine) (f : Flow) (now : Nat) : Engine :=
  let k := f.landed now
  let per := 64 / f.cols
  if k ≤ f.done then e
  else
    { e with
      tag := e.tag.set f.row f.typ
      acc := ((List.range (per * k)).drop (per * f.done)).foldl (fun a i => a.set (64 * f.row + i) (f.words.getD i 0)) e.acc
      accFails := e.accFails.filter (fun w => w / 32 ≠ f.row) }
/-- The results that have come to the accumulator memory by a cycle are written, in the order in which their rows entered (R144, R146). -/
def Engine.land (e : Engine) (now : Nat) : Engine :=
  let e' := e.flow.foldl (fun e f => e.landRow f now) e
  { e' with flow := (e.flow.map (fun f => { f with done := f.landed now })).filter (fun f => f.done < f.cols) }
/-- The exact sum of a segment's products, rounded once to FP32 (R128, R145). -/
def segment (xs ws : List FVal) : Nat :=
  let ps := List.zipWith FVal.mul xs ws
  (F32.sum .rne (ps.map (·.1)) (ps.any (·.2))).1
/-- A list in pieces of 16. -/
def pieces16 (l : List FVal) : List (List FVal) := (List.range (ceilDiv l.length 16)).map (fun g => (l.drop (16 * g)).take 16)
/-- R144: a row of products of one column in FP32. -/
def fp32Column (acc : Nat) (xs ws : List FVal) : Nat :=
  (List.zipWith segment (pieces16 xs) (pieces16 ws)).foldl (fun a s => (F32.add .rne a s).1) acc
/-- One activation row against a latched weight tile (R144): the new words of its accumulator row. -/
def mmRow (e : Engine) (l : Latch) (r typ afmt : Nat) (zero : Bool) (row scales : List Byte) (akb : Bool) : List Word :=
  let k := mmK l.fmt
  let n := mmN l.fmt
  let wd := l.data.toArray
  let xd := (row ++ scales).toArray
  let so := k * n * mmBits l.fmt / 8
  let old (w : Nat) : Word := if zero then 0 else e.rowWord r w
  if typ = 2 then
    (List.range n).map (fun c =>
      let s := (List.range k).foldl (fun (s : Int) j => s + elemInt afmt (elemAt xd afmt 0 j) * elemInt l.fmt (elemAt wd l.fmt 0 (c * k + j))) 0
      old c + BitVec.ofInt 32 s)
  else if typ = 3 then
    (List.range n).flatMap (fun c =>
      let a0 := (old (2 * c)).toNat + (old (2 * c + 1)).toNat * 2 ^ 32
      let a := (List.range k).foldl (fun a j => (F64.fma .rne (elemAt xd 0 0 j) (elemAt wd 0 0 (c * k + j)) a).1) a0
      [word a, word (a / 2 ^ 32)])
  else
    let xs := vector xd afmt 0 k (if akb then some row.length else none)
    (List.range n).map (fun c =>
      let ws := (List.range k).map (fun j =>
        let s := if l.kb then some (elemAt wd 1 (so + 4 * ((c * k + j) / 32)) 0 + 65536 * elemAt wd 1 (so + 4 * ((c * k + j) / 32)) 1) else none
        scaledVal s (elemVal l.fmt (elemAt wd l.fmt 0 (c * k + j))))
      word (fp32Column (old c).toNat xs ws))

/-! ## Drains (R147, R148) -/

/-- Bytes of an element of a DTYPE: 0 FP32, 1 BF16, 2 FP64, 3 INT32. -/
def dSize (d : Nat) : Nat := [4, 2, 8, 4].getD d 4
/-- The columns of a drained row. -/
def dCols (d : Nat) : Nat := if d = 2 then 32 else 64
/-- Bytes of a drained row. -/
def dRow (d : Nat) : Nat := dCols d * dSize d
/-- The tag that a DTYPE drains (R142). -/
def dTag (d : Nat) : Nat := [1, 1, 3, 2].getD d 1
/-- A drained row's bytes. -/
def Engine.rowBytes (e : Engine) (r dtype : Nat) : List Byte :=
  let ws := (List.range 64).map (e.rowWord r)
  if dtype = 1 then ws.flatMap (fun w => leBytes 2 (BF16.enc .rne (F32.dec w.toNat)).1) else wordsBytes ws

end Sys2Proof.Machine
end

