-- ==== Sys2Proof/Machine/Engine.lean ====
section
/-! DEFINITION. The matrix engine at issue: MMOP, MMSP, MMDRAIN, MMWAIT, the baton, the parameter block and its checks
(R135, R139 to R143, R150, R281, R282, R304, R356, R362 to R364); stops (R151). -/
namespace Sys2Proof.Machine

/-! ## The parameter block (R142) -/

/-- The permitted combinations of formats (R142); those of MMSP (R149). -/
def Par.permitted (p : Par) (fn : Nat) : Bool :=
  let pair := (p.afmt = p.bfmt && p.afmt ≤ 7) || ((p.afmt = 3 || p.afmt = 4) && (p.bfmt = 3 || p.bfmt = 4))
  if fn = 1 then
    pair && ([1, 2, 3, 4, 6].contains p.afmt) && !p.akb && !p.bkb
  else pair && (!p.akb || p.afmt ≥ 3) && (!p.bkb || p.bfmt ≥ 3)
/-- The accumulator type of a command. -/
def Par.typ (p : Par) : Nat := accType p.afmt p.bfmt p.akb p.bkb
/-- The bytes from the first to the last that a local drain covers. -/
def Par.span (p : Par) : Nat := (p.rows - 1) * p.dstr + dRow p.dtype
/-- The four footprints of MMSP (R149): offset and bytes. -/
def Par.arrays (p : Par) : List (Nat × Nat) :=
  [(p.rptr, 4 * (p.rows + 1)), (p.cidx, 4 * p.nnzmax), (p.val, mmBits p.afmt / 8 * p.nnzmax), (p.boff, p.krows * p.bstr)]
/-- R143 step 2: the words against R142, for function `fn`; `rcd` is the record of the drain's slot. -/
def parWords (fn : Nat) (b : List Byte) (rcd : Option (List Byte)) : Bool :=
  let p := parOf fn b
  let w (o : Nat) := natAt b o 4
  let zeros (lo n : Nat) : Bool := ((b.drop lo).take n).all (· = 0)
  let rowsOk := p.acc + p.rows ≤ 512 && bits (w 8) 29 3 = 0
  let fmtOk := fn = 2 || (bits (w 4) 5 3 = 0 && bits (w 4) 13 19 = 0 && p.permitted fn)
  let sparse := if fn = 1 then p.bstr % 4 = 0 && p.bstr ≥ 64 * (mmBits p.bfmt / 8) else zeros 0x24 28
  let record := match rcd with
    | none => false
    | some r =>
      let x := recOf r
      x.esz = dSize p.dtype && x.rank ≥ 2 && x.box.getD 0 1 = dCols p.dtype && x.box.getD 1 1 = p.rows
  let place :=
    if p.code = 4 then p.off = 0 && p.dstr = 0 && !(w 0xC).testBit 27 && record
    else (descOf (word (w 0xC)) 1).isSome && p.dstr % 32 = 0 && p.dstr ≥ dRow p.dtype
  let drain := !p.drain ||
    (place && p.dop ≤ 1 && !(p.dtype = 1 && p.dop = 1) && bits (w 0x14) 2 2 = 0 && !(w 0x14).testBit 7 && !(w 0x14).testBit 11 &&
      bits (w 0x14) 14 18 = 0)
  bits (w 0) 8 24 = 0 && zeros 0x20 4 && rowsOk && fmtOk && sparse && drain

/-! ## Issue -/

/-- The bytes of a command's operand reads from shared memory, and its drain's interval (R112, R147, R149). -/
def Mach.mmItvs (m : Mach) (h : Nat) (b : Block) (fn : Nat) (par : List Byte) (rcd : Option (List Byte)) :
    Option Itv × Option Itv :=
  let p := parOf fn par
  if !parWords fn par rcd then (none, none)
  else
    let rd : Option Itv := if fn ≠ 1 then none else
      (p.arrays.filter (fun a => a.2 ≠ 0 && a.1 + a.2 ≤ b.carve)).foldl (fun (o : Option Itv) a =>
        let i := m.localItv h b 0 a.1 a.2
        match o with | some x => some (x.join i) | none => some i) none
    let wr : Option Itv :=
      if p.drain && p.code ≤ 1 && m.fits h b p.code p.off p.span true then some (m.localItv h b p.code p.off p.span) else none
    (rd, wr)
/-- The layout record of a drain through a slot (R99, R142; log 13). -/
def drainRecord (b : Block) (fn : Nat) (par : List Byte) : Option (List Byte) := b.slots.get? (parOf fn par).dslot
/-- MMOP, MMSP, MMDRAIN at issue (R142, R143, R362): the block is read in the issue cycle and arrives 22 cycles later. Behind a FENCE or an
ordered ATOM of its group the command has taken its place and its entry with the group, and reads its block when it takes effect
(R282, R335). -/
def mmWord (fn : Nat) (hint : BitVec 2) (s : BitVec 8) (n : BitVec 4) (z : BitVec 1) : Act := fun mem m =>
  let act := m.activeAll z.toNat
  let h := m.cur.ham
  let b := m.cb
  let d := m.s s.toNat
  let off := wbits d 0 27
  let e := (m.ham h).eng
  let readable := wbits d 28 4 = 0 && !wbit d 27 && off % 64 = 0 && off + 64 ≤ b.carve
  match lowestLane act with
  | none => m
  | some lane =>
    let placed := (m.cur.snap.bind (·.mm)).bind (fun id => e.q.find? (fun c => c.id = id))
    if placed.isNone ∧ e.held.length ≥ 8 ∧ e.held.any (fun c => c.block ≠ m.cw.block) then m.notIssued
    else if readable && m.sbWait h 0 false (gransOf (arrOff b off) 64) then m.notIssued
    else if readable && m.bad (sharedKey h b off) 64 then m.trapData (laneBit lane) (fun _ => word off) (fun _ => 0) false
    else
      let par := if readable then m.rdN mem (sharedKey h b off) 64 else []
      let rcd := drainRecord b fn par
      let (rd, wr) := if readable then m.mmItvs h b fn par rcd else (none, none)
      let need := (if rd.isSome then 1 else 0) + (if wr.isSome then 1 else 0)
      if (m.ham h).sb.length + need > 64 then m.notIssued
      else
        let (c, m) := match placed with
          | some c => (c, m)
          | none => m.mmPlace fn hint.toNat n.toNat m.cur.pc m.cur.word
        let read (c : ECmd) : ECmd := { c with hint := hint.toNat, bar := n.toNat, par, rcd := rcd.getD [], lane }
        let m := m.modHam h (fun x => { x with
          lays := updateFirst (fun y => y.ecmd = some c.id) (fun y => { y with bytes := some par, due := m.now + 22 }) x.lays
          eng := { x.eng with q := updateFirst (fun d => d.id = c.id) read x.eng.q } })
        let adds := (parOf fn par).dop = 1
        (m.sbTake h c.id m.cw.block rd none).sbTake h c.did m.cw.block (if adds then wr else none) wr
/-- MMOP (R144, R362). -/
def execMmop (_ : Hdr) (h1 : BitVec 2) (sr : BitVec 8) (n : BitVec 4) (z : BitVec 1) (s : State) := lift (mmWord 0 h1 sr n z) s
/-- MMSP (R149, R362). -/
def execMmsp (_ : Hdr) (h1 : BitVec 2) (sr : BitVec 8) (n : BitVec 4) (z : BitVec 1) (s : State) := lift (mmWord 1 h1 sr n z) s
/-- MMDRAIN (R147, R363). -/
def execMmdrain (_ : Hdr) (h1 : BitVec 2) (sr : BitVec 8) (n : BitVec 4) (z : BitVec 1) (s : State) := lift (mmWord 2 h1 sr n z) s
/-- Engine commands of a block, from their issue (R364). -/
def Engine.count (e : Engine) (n : Nat) : Nat := (e.q.filter (fun c => c.block = n)).length
/-- MMWAIT (R150, R364). -/
def execMmwait (_ : Hdr) (sr : BitVec 8) (z : BitVec 1) (s : State) :=
  lift (fun _ m =>
    let act := m.active z.toNat
    let n := m.s sr.toNat
    if act = 0 ∨ n.toNat ≥ 8 ∨ (m.ham m.cur.ham).eng.count m.cw.block ≤ n.toNat then m
    else m.modCw (fun x => x.hold act .mmwait m.cur.succ 0 n)) s
/-- BATON.TAKE (R140, R304). -/
def execBatonTake (_ : Hdr) (z : BitVec 1) (s : State) :=
  lift (fun _ m =>
    let act := m.active z.toNat
    let h := m.cur.ham
    let w := m.cur.warp
    let e := (m.ham h).eng
    if act = 0 then m
    else if e.baton = some w ∨ e.bq.contains w then m.trapWord 5 4
    else if e.baton.isNone ∧ e.bq = [] then
      (m.modHam h (fun x => { x with eng := { x.eng with baton := some w } })).modCw (fun x =>
        x.modLanes act (fun y => { y with after := m.now + 4 }))
    else
      (m.modHam h (fun x => { x with eng := { x.eng with bq := x.eng.bq ++ [w] } })).modCw (fun x =>
        x.hold act .baton m.cur.succ)) s
/-- BATON.PASS (R140, R304). -/
def execBatonPass (_ : Hdr) (z : BitVec 1) (s : State) :=
  lift (fun _ m =>
    if m.active z.toNat = 0 then m
    else if (m.ham m.cur.ham).eng.baton ≠ some m.cur.warp then m.trapWord 5 4
    else m.passBaton m.cur.ham) s

/-! ## The end of a command (R106, R143, R150, R151) -/

/-- Change an engine. -/
def Mach.modEng (m : Mach) (h : Nat) (f : Engine → Engine) : Mach := m.modHam h (fun x => { x with eng := f x.eng })
/-- Change a command of the engine. -/
def Mach.modCmd (m : Mach) (h id : Nat) (f : ECmd → ECmd) : Mach :=
  m.modEng h (fun e => { e with q := updateFirst (fun c => c.id = id) f e.q })
/-- A command leaves the engine's queue: its entries are freed, and lanes that wait for the block's count may go on. -/
def Mach.mmGone (m : Mach) (h : Nat) (c : ECmd) (late : Option Itv) : Mach :=
  let m := m.modEng h (fun e => { e with q := e.q.filter (fun x => x.id ≠ c.id) })
  let m := (m.sbFree h c.id none).sbFree h c.did late
  m.countWake h c.block .mmwait ((m.ham h).eng.count c.block)
/-- The command's claim brings it the tile that is complete in the shadow: no claim of an earlier command of its context is left (R143). -/
def Engine.claimed (e : Engine) (ctx : Nat) : Bool := e.q.any (fun c => c.ctx = ctx && c.claimW > c.lackW)
/-- What a command's claim still brings it. -/
def ECmd.weights (c : ECmd) : Nat := c.claimW - c.lackW
/-- What a command's claim still brings it. -/
def ECmd.activations (c : ECmd) : Nat := c.claimA - c.lackA
/-- The bytes of a tile that the shadow holds complete at a cycle (R136, R143). -/
def Engine.complete (e : Engine) (now : Nat) : Nat :=
  match e.shadow with | some t => if t.ready ≤ now then t.bytes.length else 0 | none => 0
/-- The tile of the shadow is again the head of the weight stream, and the weight latches are empty. -/
def Engine.emptyLatches (e : Engine) : Engine :=
  match e.shadow with
  | some t => { e with fifoW := ({ data := t.bytes, fails := t.fails } : Fifo).before e.fifoW, shadow := none, active := none }
  | none => { e with active := none }
/-- R151: what a stopped command's claim still brings is consumed and discarded: first the shadow's tile, then the streams' next bytes as they come.
What the shadow holds beyond the claim is the head of the weight stream again. -/
def Engine.forgo (e : Engine) (w a : Nat) : Engine :=
  let k := match e.shadow with | some t => min w t.bytes.length | none => 0
  let e := match e.shadow with
    | some t => if w = 0 then e else
      { e with shadow := none, fifoW := (({ data := t.bytes, fails := t.fails } : Fifo).drop k).before e.fifoW }
    | none => e
  { e with dropW := e.dropW + (w - k), dropA := e.dropA + a }.discard
/-- The bytes that a command's claims have brought it so far, which a report gives as its progress. -/
def ECmd.progress (c : ECmd) : Nat :=
  let p := parOf c.fn c.par
  if c.fn = 0 && c.phase ≠ .draining then p.nt * activLen p.afmt p.rows (mmK p.bfmt) p.akb - c.claimA else c.pos
/-- R151: a command stops: the bytes it claimed are discarded, its report goes to the fault queue with source 8 unless its drain was
aborted (R147), and the next command runs. The weight latches are empty after an MMSP (R149). -/
def Mach.mmStop (m : Mach) (h : Nat) (c : ECmd) (cause : Option Cause) (wr : Bool := false) : Mach :=
  let m := m.modEng h (fun e => (if c.fn = 1 then e.emptyLatches else e).forgo c.weights c.activations)
  let m := m.mmGone h c none
  match cause with
  | none => m
  | some x =>
    m.fqPush h m.now
      { w0 := fqWord0 (x / 256) (x % 256) c.warp c.ctx 8 wr, w1 := word c.progress, w2 := 0, w3 := 0, rep := .noReply }

/-! ## Checks at arrival (R143) -/

/-- Row tags and the active latch's format of an engine. -/
def Engine.view (e : Engine) : (Nat → Nat) × Option (Nat × Bool) := (e.tagOf, e.active.map (fun l => (l.fmt, l.kb)))
/-- What the engine shows a context that becomes its owner: empty rows, or what a restore has brought (R135, R152). -/
def Hamlet.freshEng (x : Hamlet) (num : Nat) : (Nat → Nat) × Option (Nat × Bool) :=
  match x.engSaved.get? num with | some e => e.view | none => ((fun _ => 0), none)
/-- Row tags and the active latch's format as the commands of a list will leave them (R141, R143 step 4). -/
def foldState (ctx : Nat → Nat) (fresh : Nat → (Nat → Nat) × Option (Nat × Bool))
    (start : Option Nat × (Nat → Nat) × Option (Nat × Bool)) (l : List ECmd) :
    Option Nat × (Nat → Nat) × Option (Nat × Bool) :=
  l.foldl (fun a c =>
    let p := parOf c.fn c.par
    let mine := some (ctx c.ctx)
    let (tags, latch) := if a.1 = mine then a.2 else fresh (ctx c.ctx)
    let inRange (r : Nat) : Bool := p.acc ≤ r && r < p.acc + p.rows
    let tags := if c.fn = 2 then tags else fun r => if inRange r then p.typ else tags r
    let tags := if p.drain && p.zafter then fun r => if inRange r then 0 else tags r else tags
    let latch := if c.fn = 1 then none else if c.fn = 0 && (p.loadw || p.nt > 1) then some (p.bfmt, p.bkb) else latch
    (mine, tags, latch)) start
/-- Bytes that channel `ch`'s queued and running commands will still push into a FIFO (R143 step 5). -/
def Mach.toPush (m : Mach) (h ctx ch fifo : Nat) : Nat :=
  (((m.ham h).chans.get [] ch).filter (fun c => c.fifo = fifo && c.ctx = ctx && !c.discard)).foldl (fun t c => t + (c.total - c.prog)) 0
/-- The weight bytes that count as FIFO bytes: those of a tile not yet complete in the shadow among them (R281). -/
def Engine.weightBytes (e : Engine) (now : Nat) : Nat :=
  e.fifoW.length + e.stage.length +
  (match e.shadow with | some t => if t.ready ≤ now then 0 else t.bytes.length | none => 0)
/-- The bytes that earlier commands of a context still claim from the FIFOs and from what is to be pushed: weight bytes, without the tile
that the shadow holds complete for them, and activation bytes; bytes that can no longer come are claimed by none (R143, R281). `mine` when the
engine's bytes are the context's. -/
def Engine.claims (e : Engine) (ctx now : Nat) (mine : Bool) : Nat × Nat :=
  let l := e.q.filter (fun c => c.ctx = ctx)
  let own (n : Nat) : Nat := if mine then n else 0
  ((l.foldl (fun t c => t + c.weights) 0) - own (if e.claimed ctx then e.complete now else 0) + own e.dropW,
   (l.foldl (fun t c => t + c.activations) 0) + own e.dropA)
/-- R143: the checks of a command whose block has arrived: a cause, or its claims. -/
def Mach.mmCheck (m : Mach) (h : Nat) (c : ECmd) : Except Cause (Nat × Nat) :=
  let x := m.ham h
  let num := m.ctxNum h c.ctx
  let saved := x.engSaved.get? num
  let e : Engine := match saved with | some s => { s with q := x.eng.q } | none => x.eng
  let b := m.block h c.block
  let p := parOf c.fn c.par
  let k := mmK p.bfmt
  let before := e.q.takeWhile (fun x => x.id ≠ c.id)
  let rcd := if c.rcd = [] then none else some c.rcd
  let st := foldState (m.ctxNum h) x.freshEng (x.eng.owner, x.eng.view) before
  let mine : Bool := x.eng.owner = some num || saved.isSome
  let (tags, latch) := if st.1 = some num then st.2 else x.freshEng num
  let rows := (List.range p.rows).map (p.acc + ·)
  let tiles := if c.fn = 0 then p.nt - 1 + (if p.loadw then 1 else 0) else 0
  let wl := weightLen p.bfmt p.bkb
  let al := if c.fn = 0 then p.nt * activLen p.afmt p.rows k p.akb else 0
  let first := mine && tiles > 0 && e.complete m.now ≠ 0 && !e.claimed c.ctx
  let (usedW, usedA) := e.claims c.ctx m.now mine
  let toTake := if first then tiles - 1 else tiles
  if c.misuse then .error 0x504
  else if c.par = [] || !parWords c.fn c.par rcd then .error 0x401
  else if (p.drain && p.code ≤ 1 && !m.fits h b p.code p.off p.span true) ||
      (c.fn = 1 && p.arrays.any (fun a => a.1 + a.2 > b.carve)) then .error 0x402
  else if (c.fn = 0 && !p.loadw && latch ≠ some (p.bfmt, p.bkb)) ||
      (c.fn ≠ 2 && !p.zero && rows.any (fun r => tags r ≠ 0 && tags r ≠ p.typ)) ||
      (p.drain && (if c.fn = 2 then rows.any (fun r => tags r ≠ 0 && tags r ≠ dTag p.dtype) else p.typ ≠ dTag p.dtype)) then .error 0x404
  else if (toTake ≠ 0 && toTake * wl + usedW > (if mine then e.weightBytes m.now else 0) + m.toPush h c.ctx p.wch 2) ||
      (al ≠ 0 && al + usedA > (if mine then e.fifoA.length else 0) + m.toPush h c.ctx p.ach 3) then .error 0x403
  else if !c.entry then .error 0x405
  else .ok (tiles * wl, al)
/-- A parameter block may be checked: it has come, and every older engine command's block has been checked (R282). -/
def Mach.parDue (m : Mach) (h : Nat) (y : LayRead) : Bool :=
  y.ecmd.isSome && y.bytes.isSome && y.due ≤ m.now && !(m.ham h).lays.any (fun z => z.id < y.id && z.ecmd.isSome)
/-- PARAMETER_BLOCK_ARRIVAL (R143, R356). -/
def execParameterBlockArrival (ham id : Nat) (s : State) :=
  lift (fun _ m =>
    match (m.ham ham).lays.find? (fun y => y.id = id) with
    | none => m
    | some y =>
      if !m.parDue ham y then m
      else
        let m := m.modHam ham (fun x => { x with lays := x.lays.filter (fun z => z.id ≠ id) })
        match (m.ham ham).eng.q.find? (fun c => some c.id = y.ecmd) with
        | none => m
        | some c =>
          match m.mmCheck ham c with
          | .error x =>
            let d1 := if x / 256 = 4 then engDetail c.word 4 else 0
            (m.mmGone ham c none).lateFaulted ham c.warp (x / 256) (x % 256) c.word d1 c.pc c.lanes
          | .ok (w, a) =>
            m.modCmd ham c.id (fun c =>
              { c with phase := .queued, arv := (parOf c.fn c.par).arv, claimW := w, claimA := a, due := m.now })) s

end Sys2Proof.Machine
end

