-- ==== Sys2Proof/Machine/EngineRun.lean ====
section
/-! DEFINITION. The matrix engine at work: the shadow latch, the context switch, command starts, tiles, activation rows, sparse chunks,
drains, completion, recounts after an abort, and acknowledgements (R135, R136, R141, R144 to R152, R283). -/
namespace Sys2Proof.Machine

/-! ## The streams (R136) -/

/-- The shadow may take its next bytes now (R136). -/
def Engine.shadowDue (e : Engine) (now : Nat) : Bool :=
  e.shadow.isNone && !e.switching && e.dropW = 0 && e.stageDue ≤ now && (if e.stage.length = 0 then 32 else 1) ≤ e.fifoW.ready now
/-- SHADOW_LATCH_LOAD: the header in one cycle, then 128 bytes a cycle (R136, R146). -/
def Engine.shadowLoad (e : Engine) (now : Nat) : Engine :=
  if !e.shadowDue now then e
  else
    let n := if e.stage.length = 0 then 32 else min (min 128 (e.stageLen - e.stage.length)) (e.fifoW.ready now)
    let f := e.stage.before (e.fifoW.take n)
    let (len, bad) := tileLen (f.data.take 32)
    let e := { e with fifoW := e.fifoW.drop n }
    if f.length ≥ len then
      { e with stage := {}, stageLen := 0, stageDue := now + 1, shadow := some { bytes := f.data, bad, ready := now + 1, fails := f.fails } }
    else { e with stage := f, stageLen := len, stageDue := now + 1 }
/-- SHADOW_LATCH_LOAD. -/
def execShadowLatchLoad (ham : Nat) (s : State) := lift (fun _ m => m.modEng ham (fun e => e.shadowLoad m.now)) s

/-! ## Owner (R141) -/

/-- The command at the head of the engine's queue. -/
def Mach.engHead (m : Mach) (h : Nat) : Option ECmd := (m.ham h).eng.q.head?
/-- A push of an owner that has left has still to complete. -/
def Hamlet.leaving (x : Hamlet) : Bool := x.cmds.any (·.discard)
/-- The next part of a context switch may happen now. -/
def Mach.switchDue (m : Mach) (h : Nat) : Bool :=
  let x := m.ham h
  if x.eng.switching then !x.leaving
  else match m.engHead h, x.eng.owner with
    | some c, some o => c.phase == .queued && o ≠ m.ctxNum h c.ctx && !(m.ctx h c.ctx).stopped
    | _, _ => false
/-- ENGINE_CONTEXT_SWITCH: first the old owner's bytes go, and those that its pushes still bring; when these have completed the
rows and latches are emptied, for 128 cycles, and the command's context is the owner (R135, R141). -/
def engineContextSwitch (h : Nat) : Act := fun _ m =>
  let x := m.ham h
  if !m.switchDue h then m
  else if x.eng.switching then
    let m := m.modEng h (fun e =>
      { e with acc := [], tag := [], accFails := [], flow := [], active := none, owner := none, switching := false, switchEnd := m.now + 128 })
    match m.engHead h with
    | some c => m.takeEngine h (m.ctxNum h c.ctx)
    | none => m
  else
    m.modHam h (fun x => { x with
      chans := x.chans.map (fun e => (e.1, e.2.map (fun c =>
        { c with discard := c.discard || (c.fifo ≠ 0 && x.eng.owner = some (m.ctxNum h c.ctx)) })))
      eng := { x.eng with fifoW := {}, fifoA := {}, shadow := none, stage := {}, stageLen := 0, dropW := 0, dropA := 0, switching := true,
                          q := x.eng.q.map (fun c => if x.eng.owner = some (m.ctxNum h c.ctx) then { c with lackW := c.claimW, lackA := c.claimA } else c) } })
/-- ENGINE_CONTEXT_SWITCH. -/
def execEngineContextSwitch (ham : Nat) (s : State) := lift (engineContextSwitch ham) s

/-! ## Starts (R144, R146, R151) -/

/-- The head of the engine's queue may start now. The operand reads of an MMSP wait for older writes (R113, R149). -/
def Mach.engStartDue (m : Mach) (h : Nat) : Bool :=
  let e := (m.ham h).eng
  match e.q.head? with
  | some c =>
    c.phase == .queued && !e.switching && e.switchEnd ≤ m.now && !(m.ctx h c.ctx).stopped &&
    (match e.owner with | none => true | some o => o = m.ctxNum h c.ctx) && !(c.fn = 1 && m.sbWaits h c.id)
  | none => false
/-- Cycles of a sparse chunk (R149). -/
def chunkCycles (bfmt : Nat) : Nat := if mmBits bfmt = 16 then 128 else 64
/-- ENGINE_COMMAND_START. An MMOP's `row` is 0 before its tile's move and 1 before its tile's header. A command that a restore has
brought back goes on where it stood (R116, R152). -/
def engineCommandStart (h : Nat) : Act := fun _ m =>
  match m.engHead h with
  | none => m
  | some c =>
    if !m.engStartDue h then m
    else
      let p := parOf c.fn c.par
      let m := m.takeEngine h (m.ctxNum h c.ctx)
      if c.starved then m.mmStop h c (some 0x403)
      else m.modCmd h c.id (fun c =>
        match c.resume, c.fn with
        | some p, _ => { c with phase := p, resume := none, due := max c.due m.now }
        | none, 0 => { c with phase := .running, row := if p.loadw then 0 else 1, due := m.now + if p.loadw then 2 else 3 }
        | none, 1 => { c with phase := .running, due := m.now + chunkCycles p.bfmt }
        | none, _ => { c with phase := .draining, due := m.now })
/-- ENGINE_COMMAND_START. -/
def execEngineCommandStart (ham : Nat) (s : State) := lift (engineCommandStart ham) s

/-! ## MMOP (R144) -/

/-- The activation bytes that the command's current tile still lacks. -/
def ECmd.tileRest (c : ECmd) : Nat :=
  let p := parOf c.fn c.par
  let all := activLen p.afmt p.rows (mmK p.bfmt) p.akb
  c.claimA - (p.nt - c.tile - 1) * all
/-- R151: a starved command stops now: at a tile's boundary, or when its tile can no longer be filled. -/
def Mach.starvedNow (m : Mach) (h : Nat) (c : ECmd) : Bool :=
  c.starved && (c.phase == .running ||
    (c.phase == .rows &&
      (m.ham h).eng.fifoA.length + (List.range 4).foldl (fun t ch => t + m.toPush h c.ctx ch 3) 0 < c.tileRest))
/-- MMOP_TILE has a move now: a starved command stops, a tile moves to the active latch, or an activation header is there. -/
def Mach.tileDue (m : Mach) (h : Nat) : Bool :=
  let e := (m.ham h).eng
  match e.q.head? with
  | some c =>
    c.fn = 0 && (m.starvedNow h c || (c.phase == .running && c.due ≤ m.now && !(m.ctx h c.ctx).stopped &&
      (if c.row = 0 then
        match e.shadow with | some t => t.ready ≤ m.now | none => false
      else 32 ≤ e.fifoA.ready m.now)))
  | none => false
/-- The header of an activation tile fits a command (R137, R144). -/
def activOk (p : Par) (hd : List Byte) : Bool :=
  natAt hd 0 1 = 0x41 && natAt hd 1 1 = p.afmt + (if p.akb then 16 else 0) && natAt hd 2 1 = p.rows - 1 && (hd.drop 3).all (· = 0)
/-- MMOP_TILE: the shadow moves to the active latch, or the activation header is consumed, and is checked. -/
def mmopTile (h : Nat) : Act := fun _ m =>
  match m.engHead h with
  | none => m
  | some c =>
    let e := (m.ham h).eng
    let p := parOf c.fn c.par
    if !m.tileDue h then m
    else if m.starvedNow h c then m.mmStop h c (some 0x403)
    else if c.row = 0 then
      match e.shadow with
      | none => m
      | some t =>
        let hd := natAt t.bytes 1 1
        let fits := !t.bad && hd % 16 = p.bfmt && (hd / 16 = 1) = p.bkb
        let latch : Option Latch := if t.bad then none else some { fmt := hd % 16, kb := hd / 16 = 1, data := t.bytes.drop 32 }
        let f : ECmd → ECmd := fun c =>
          { c with row := 1, claimW := c.claimW - t.bytes.length, due := m.now + if c.tile = 0 then 1 else 0 }
        let m := (m.modEng h (fun e => { e with shadow := none, active := latch })).modCmd h c.id f
        if t.fails ≠ [] then m.mmStop h (f c) (some badData) else if fits then m else m.mmStop h (f c) (some 0x404)
    else
      let (hd, fails) := e.fifoA.head 32
      let f : ECmd → ECmd := fun c => { c with phase := .rows, row := 0, scales := [], claimA := c.claimA - 32, due := m.now + 1 }
      let m := (m.modEng h (fun e => { e with fifoA := e.fifoA.drop 32 })).modCmd h c.id f
      if fails then m.mmStop h (f c) (some badData) else if activOk p hd then m else m.mmStop h (f c) (some 0x404)
/-- MMOP_TILE. -/
def execMmopTile (ham : Nat) (s : State) := lift (mmopTile ham) s
/-- The next bytes of a tile: up to 128 of its scales, or one row. -/
def ECmd.takes (c : ECmd) : Nat :=
  let p := parOf c.fn c.par
  let left := scaleLen p.rows (mmK p.bfmt) p.akb - c.scales.length
  if left ≠ 0 then min 128 left else rowLen p.afmt (mmK p.bfmt)
/-- ACTIVATION_ROW_ENTRY has a move now. -/
def Mach.rowDue (m : Mach) (h : Nat) : Bool :=
  match m.engHead h with
  | some c => c.phase == .rows && c.due ≤ m.now && c.takes ≤ (m.ham h).eng.fifoA.ready m.now && !m.starvedNow h c
  | none => false
/-- A row of results sets out through the array: it is computed from what its accumulator row will hold then, and its columns are written
as they come (R146). -/
def Engine.enter (e : Engine) (now r typ n : Nat) (ws : List Word) : Engine :=
  { e with flow := e.flow ++ [{ entry := now, row := r, typ, cols := n, words := ws }] }
/-- ACTIVATION_ROW_ENTRY: scales, then a row enters the array and its accumulator row takes the products (R144 to R146). A word that fails
its check, in the FIFO or in the accumulator row, stops the command (R194). Where the stop of an earlier command has left the active latch
empty, a command without LOADW runs all the same: it consumes its activation bytes, and its rows and tags stay as they are (DESIGN CHOICE,
log 12). -/
def activationRowEntry (h : Nat) : Act := fun _ m =>
  match m.engHead h with
  | none => m
  | some c =>
    if !m.rowDue h then m
    else
      let p := parOf c.fn c.par
      let k := mmK p.bfmt
      let n := c.takes
      let r := p.acc + c.row
      let zero := p.zero && c.tile = 0
      let (data, fails) := (m.ham h).eng.fifoA.head n
      let m := m.modEng h (fun e => { e with fifoA := e.fifoA.drop n })
      let isScale := c.scales.length < scaleLen p.rows k p.akb
      if fails || (!isScale && !zero && (m.ham h).eng.rowFails r) then m.mmStop h { c with claimA := c.claimA - n } (some badData)
      else if isScale then
        m.modCmd h c.id (fun c => { c with scales := c.scales ++ data, claimA := c.claimA - n, due := m.now + 1 })
      else
        let per := 4 * k / 32
        let scales := if p.akb then (c.scales.drop (c.row * per)).take per else []
        let m := m.modEng h (fun e =>
          match e.active with
          | none => e
          | some l => e.enter m.now r p.typ (mmN l.fmt) (mmRow e l r p.typ p.afmt zero data scales p.akb))
        let isOver := c.row + 1 ≥ p.rows
        m.modCmd h c.id (fun c =>
          let c := { c with claimA := c.claimA - n }
          if !isOver then { c with row := c.row + 1, due := m.now + mmCycles p.bfmt }
          else if c.tile + 1 < p.nt then { c with phase := .running, tile := c.tile + 1, row := 0, due := m.now + 1 }
          else { c with phase := .draining, due := m.now + 113 + mmN p.bfmt })
/-- ACTIVATION_ROW_ENTRY. -/
def execActivationRowEntry (ham : Nat) (s : State) := lift (activationRowEntry ham) s

/-! ## MMSP (R149) -/

/-- MMSP_CHUNK has a move now. -/
def Mach.mmspDue (m : Mach) (h : Nat) : Bool :=
  match m.engHead h with
  | some c => c.fn = 1 && c.phase == .running && c.due ≤ m.now && !(m.ctx h c.ctx).stopped
  | none => false
/-- The runs of one row within 16-aligned groups of a chunk: row, and the positions of the run. -/
def runsOf (rows : List Nat) : List (Nat × List Nat) :=
  ((List.range rows.length).foldl (fun (a : List (Nat × List Nat)) q =>
    let r := rows.getD q 0
    match a with
    | (r', qs) :: t => if r = r' ∧ q % 16 ≠ 0 then (r', qs ++ [q]) :: t else (r, [q]) :: a
    | [] => [(r, [q])]) []).reverse
/-- A chunk of sparse products: `vals` gives each position's element, `brow` its B row. -/
def sparseRows (e : Engine) (p : Par) (rows : List Nat) (vals : List Nat) (brow : List (Array Byte)) : Engine :=
  (runsOf rows).foldl (fun e run =>
    let r := p.acc + run.1
    e.setRow r p.typ ((List.range 64).map (fun n =>
      let b (q : Nat) : Nat := elemAt (brow.getD q #[]) p.bfmt 0 n
      if p.typ = 2 then
        e.rowWord r n + BitVec.ofInt 32 (run.2.foldl (fun (t : Int) q => t + elemInt p.afmt (vals.getD q 0) * elemInt p.bfmt (b q)) 0)
      else
        let s := segment (run.2.map (fun q => elemVal p.afmt (vals.getD q 0))) (run.2.map (fun q => elemVal p.bfmt (b q)))
        word (F32.add .rne (e.rowWord r n).toNat s).1))) e
/-- MMSP starts its rows: from zero, or keeping them (R144, R149). -/
def Engine.beginRows (e : Engine) (p : Par) : Engine :=
  (List.range p.rows).foldl (fun e i =>
    let r := p.acc + i
    e.setRow r p.typ ((List.range 64).map (fun w => if p.zero then 0 else e.rowWord r w))) e
/-- MMSP_CHUNK: the next 128 nonzeros; after the last the weight latches are empty, and a tile of the weight stream that the shadow held is
the head of the stream again (R149; DEDUCED, log 12). -/
def mmspChunk (h : Nat) : Act := fun mem m =>
  match m.engHead h with
  | none => m
  | some c =>
    if !m.mmspDue h then m
    else
      let p := parOf c.fn c.par
      let b := m.block h c.block
      let read (off n : Nat) : List Byte × Bool := m.localRead mem h b 0 off n
      let (pb, bad0) := read p.rptr (4 * (p.rows + 1))
      let ptr (i : Nat) : Int := sword (wordAt pb (4 * i))
      let last := ptr p.rows
      let j0 := (ptr 0).toNat + 128 * c.tile
      let e := min (j0 + 128) last.toNat
      let final : Bool := (e : Int) ≥ last
      let falls := (List.range p.rows).find? (fun i => ptr (i + 1) < ptr i)
      let fall : Bool := match falls with | some i => final || ptr i < (e : Int) | none => false
      if bad0 then m.mmStop h c (some badData)
      else if decide (ptr 0 < 0) || decide (last > (p.nnzmax : Int)) || fall then m.mmStop h c (some 0x401)
      else
        let js := (List.range (e - j0)).map (j0 + ·)
        let (cb, bad1) := read (p.cidx + 4 * j0) (4 * js.length)
        let eb := mmBits p.afmt / 8
        let (vb, bad2) := read (p.val + eb * j0) (eb * js.length)
        let idx := (List.range js.length).map (fun q => natAt cb (4 * q) 4)
        if bad1 || bad2 then m.mmStop h c (some badData)
        else if idx.any (fun i => i ≥ p.krows) then m.mmStop h c (some 0x401)
        else
          let bs := idx.map (fun i => read (p.boff + i * p.bstr) (64 * (mmBits p.bfmt / 8)))
          if bs.any (·.2) then m.mmStop h c (some badData)
          else
            let rows := js.map (fun (j : Nat) => ((List.range p.rows).find? (fun i => (j : Int) < ptr (i + 1))).getD 0)
            if !(c.tile = 0 && p.zero) && rows.any (fun i => (m.ham h).eng.rowFails (p.acc + i)) then m.mmStop h c (some badData) else
            let vals := (List.range js.length).map (fun q => natAt vb (eb * q) eb)
            let reads := [(p.rptr, 4 * (p.rows + 1)), (p.cidx + 4 * j0, 4 * js.length), (p.val + eb * j0, eb * js.length)] ++
              idx.map (fun i => (p.boff + i * p.bstr, 64 * (mmBits p.bfmt / 8)))
            let m := reads.foldl (fun m x => m.localSeen h b 0 x.1 x.2) m
            let m := m.modEng h (fun g =>
              let g := if c.tile = 0 then g.beginRows p else g
              let g := sparseRows g p rows vals (bs.map (fun x => x.1.toArray))
              if final then g.emptyLatches else g)
            let m := if final then m.sbReadDone h c.id else m
            m.modCmd h c.id (fun c =>
              { c with tile := c.tile + 1, phase := if final then .draining else .running,
                       due := m.now + (if final then (if js = [] then 0 else 177) else chunkCycles p.bfmt) })
/-- MMSP_CHUNK. -/
def execMmspChunk (ham : Nat) (s : State) := lift (mmspChunk ham) s

/-! ## Drains (R147, R148, R283) -/

/-- The bytes of a drain. -/
def Par.drainLen (p : Par) : Nat := p.rows * dRow p.dtype
/-- The drain at the head may start now: the command's last accumulator write has come, its scoreboard entry waits for none, and
for main memory its channel has room. -/
def Mach.drainStartDue (m : Mach) (h : Nat) : Bool :=
  let x := m.ham h
  match m.engHead h with
  | some c =>
    let p := parOf c.fn c.par
    c.phase == .draining && p.drain && !c.started && c.due ≤ m.now && !m.sbWaits h c.did && !(m.ctx h c.ctx).stopped &&
    (p.code ≠ 4 || (x.chans.get [] p.dch).length < 8)
  | none => false
/-- DRAIN_START: the first chunk 4 cycles later; an add-on-store is one update, in the cycle of its last chunk; main memory through
channel DCH (R147, R148). Rows from one on that fails its check are not drained (R151, R194). -/
def drainStart (h : Nat) : Act := fun _ m =>
  match m.engHead h with
  | none => m
  | some c =>
    if !m.drainStartDue h then m
    else
      let p := parOf c.fn c.par
      let due := if p.dop = 1 then m.now + 3 + ceilDiv p.drainLen 128 else m.now + 4
      let e := (m.ham h).eng
      let rows := (findPos (fun i => e.rowFails (p.acc + i)) (List.range p.rows)).getD p.rows
      let m := m.modCmd h c.id (fun c => { c with started := true, due, short := rows < p.rows })
      if p.code ≠ 4 then m
      else if rows = 0 || (p.dop = 1 && rows < p.rows) then m.mmStop h c (some badData)
      else
        let (id, m) := m.fresh
        let d : Cmd :=
          { id, fn := 1, warp := c.warp, block := c.block, ctx := c.ctx, lane := c.lane, chan := p.dch, hint := c.hint, bar := c.bar,
            arv := false, rcd := c.rcd, words := [0, p.org.getD 0 0, p.org.getD 1 0, 0, 0, 0, 0, 0], issue := m.now,
            total := rows * dRow p.dtype, drain := some c.id,
            src := (List.range rows).flatMap (fun i => e.rowBytes (p.acc + i) p.dtype),
            addTo := if p.dop = 1 then some p.dtype else none,
            zrows := if p.zafter then some (p.acc, dRow p.dtype) else none }
        m.modHam h (fun x => { x with chans := x.chans.set p.dch (x.chans.get [] p.dch ++ [d]) })
/-- DRAIN_START. -/
def execDrainStart (ham : Nat) (s : State) := lift (drainStart ham) s
/-- The die offsets of the 256-byte granules of an add-on-store into Commons, ascending (R148). -/
def Mach.drainGrans (m : Mach) (h : Nat) (c : ECmd) (p : Par) : List Nat :=
  let x := (m.window h c.ctx).1 + p.off
  dedup ((List.range p.rows).flatMap (fun i =>
    let lo := x + i * p.dstr
    (List.range ((lo + dRow p.dtype - 1) / 256 + 1 - lo / 256)).map (fun k => 256 * (lo / 256 + k))))
/-- The Memory granule of a die offset. -/
def Mach.granKey (m : Mach) (h x : Nat) : Nat := m.commonsKey (m.partHam h) (hamDie h) x / 256
/-- The next granule that an add-on-store has still to reserve. -/
def Mach.nextGran (m : Mach) (h : Nat) (c : ECmd) (p : Par) : Option Nat :=
  (m.drainGrans h c p).find? (fun x => !m.resv.contains (c.did, 0, m.granKey h x))
/-- A reservation may be made now: no other operation holds the granule, and the hamlet's own stores to it have left the store path. -/
def Mach.reserveDue (m : Mach) (h : Nat) : Bool :=
  match m.engHead h with
  | some c =>
    let p := parOf c.fn c.par
    c.started && !c.reserved && p.code = 1 && p.dop = 1 &&
    (match m.nextGran h c p with
      | none => true
      | some x =>
        !m.reserved c.did (m.commonsKey (m.partHam h) (hamDie h) x) &&
        !m.reqs.any (fun r => r.ham = h && r.kind = .store && r.die = hamDie h && r.line / 2 = x / 256))
  | none => false
/-- DRAIN_RESERVE: the granule is reserved at its home, and its lines leave the hamlet's first level (R81, R148). -/
def drainReserve (h : Nat) : Act := fun _ m =>
  match m.engHead h with
  | none => m
  | some c =>
    if !m.reserveDue h then m
    else match m.nextGran h c (parOf c.fn c.par) with
      | none => m.modCmd h c.id (fun c => { c with reserved := true })
      | some x =>
        let m := { m with resv := m.resv ++ [(c.did, 0, m.granKey h x)] }
        (m.invalidateLine h (hamDie h) (x / 128)).invalidateLine h (hamDie h) (x / 128 + 1)
/-- DRAIN_RESERVE. -/
def execDrainReserve (ham : Nat) (s : State) := lift (drainReserve ham) s
/-- A local drain has bytes to write now. -/
def Mach.drainChunkDue (m : Mach) (h : Nat) : Bool :=
  match m.engHead h with
  | some c =>
    let p := parOf c.fn c.par
    c.started && c.fault.isNone && p.code ≤ 1 && c.pos < p.drainLen && c.due ≤ m.now && (p.code = 0 || p.dop = 0 || c.reserved) &&
    (p.dop = 1 || c.pos % dRow p.dtype ≠ 0 || !(m.ctx h c.ctx).stopped)
  | none => false
/-- Bytes of a drain have been written. -/
def Mach.drained (m : Mach) (h : Nat) (c : ECmd) (p : Par) (n acks : Nat) : Mach :=
  let z := if p.zafter then some (p.acc, dRow p.dtype) else none
  (m.modEng h (fun e => e.readRows z c.pos (c.pos + n))).modCmd h c.id (fun c =>
    { c with pos := c.pos + n, acks := c.acks + acks, due := m.now + 1 })
/-- The row bytes and place of each row of an add-on-store into local memory; the sums, or none where a word of the accumulator or an old
word fails its check. -/
def Mach.addRows (mem : Memory) (m : Mach) (h : Nat) (c : ECmd) (p : Par) : Option (List (Nat × List Byte)) :=
  let b := m.block h c.block
  (List.range p.rows).mapM (fun i =>
    let off := p.off + i * p.dstr
    let row := (m.ham h).eng.rowBytes (p.acc + i) p.dtype
    let (old, bad) := if p.code = 0 then m.localRead mem h b 0 off row.length
      else m.commonsRead mem (m.partHam h) (hamDie h) ((m.window h c.ctx).1 + off) row.length
    if bad || (m.ham h).eng.rowFails (p.acc + i) then none else some (off, addBytes p.dtype old row))
/-- The acknowledgements of an add-on-store into Commons set out: one from the home of each line (R106, R148). -/
def Mach.drainAcks (m : Mach) (h id : Nat) (lines : List Nat) : Mach :=
  lines.foldl (fun m line =>
    let (t, m) := m.sliceTrip h (m.commonsAt (m.partHam h) (hamDie h) (128 * line)).1 (lineBridge line) 28
    m.ackAfter h 5 id t) m
/-- DRAIN_CHUNK: 128 bytes of a store, or the whole of an add-on-store (R147, R148). -/
def drainChunk (h : Nat) : Act := fun mem m =>
  match m.engHead h with
  | none => m
  | some c =>
    if !m.drainChunkDue h then m
    else
      let p := parOf c.fn c.par
      let b := m.block h c.block
      let q := m.partHam h
      let rowb := dRow p.dtype
      if p.dop = 0 then
        let data := (((m.ham h).eng.rowBytes (p.acc + c.pos / rowb) p.dtype).drop (c.pos % rowb)).take 128
        let off := p.off + c.pos / rowb * p.dstr + c.pos % rowb
        let r := if p.code = 0 then (m.sharedPut h b off data).map (fun m => (0, m))
          else m.commonsPut h b off data c.hint c.warp c.lane (some (5, c.id))
        if (m.ham h).eng.rowFails (p.acc + c.pos / rowb) then m.mmStop h c (some badData)
        else match r with
        | none => m.mmStop h c (some badData) true
        | some (k, m) => m.drained h c p data.length k
      else
        let free (m : Mach) : Mach := { m with resv := m.resv.filter (fun r => r.1 ≠ c.did) }
        match m.addRows mem h c p with
        | none => (free m).mmStop h c (some badData)
        | some rows =>
          let lines := if p.code = 0 then [] else
            dedup (rows.flatMap (fun x => (linePieces ((m.window h c.ctx).1 + x.1) x.2.length).map (fun y => y.1 / 128)))
          let m := rows.foldl (fun m x =>
            let m := m.localSeen h b p.code x.1 x.2.length
            if p.code = 0 then (m.sharedPut h b x.1 x.2).getD m
            else
              let base := (m.window h c.ctx).1 + x.1
              (linePieces base x.2.length).foldl (fun m y =>
                (m.commonsWrite q (hamDie h) y.1 ((x.2.drop (y.1 - base)).take y.2)).2) m) m
          ((free m).drainAcks h c.id lines).drained h c p p.drainLen lines.length
/-- DRAIN_CHUNK. -/
def execDrainChunk (ham : Nat) (s : State) := lift (drainChunk ham) s

/-! ## Completion (R106, R146, R150) -/

/-- The head has completed, or its drain was aborted. -/
def Mach.engDone (m : Mach) (h : Nat) : Bool :=
  match m.engHead h with
  | some c =>
    let p := parOf c.fn c.par
    c.phase == .draining &&
    (if !p.drain then c.due ≤ m.now
     else c.fault.isSome || c.started && (if p.code = 4 then c.chanDone.isSome else c.pos ≥ p.drainLen && c.acks = 0))
  | none => false
/-- ENGINE_COMMAND_COMPLETE: its entries are freed, and with ARV the barrier receives an arrival. -/
def engineCommandComplete (h : Nat) : Act := fun _ m =>
  match m.engHead h with
  | none => m
  | some c =>
    if !m.engDone h then m
    else if c.chanDone = some false then m.mmStop h c none
    else if c.fault.isSome then m.mmStop h c c.fault true
    else if c.short then m.mmStop h c (some badData)
    else
      let p := parOf c.fn c.par
      let late := if p.drain && p.code ≤ 1 && c.due > m.now then
          let lo := if p.dop = 1 then 0 else (p.rows - 1) * p.dstr + dRow p.dtype - 128
          some (m.localItv h (m.block h c.block) p.code (p.off + lo) (p.span - lo))
        else none
      let m := m.mmGone h c late
      if c.arv then m.arriveCmd h c.block c.bar else m
/-- ENGINE_COMMAND_COMPLETE. -/
def execEngineCommandComplete (ham : Nat) (s : State) := lift (engineCommandComplete ham) s

/-! ## After an aborted push (R151) -/

/-- Bytes that pushes of the engine's owner will still bring into a FIFO. -/
def Mach.ownPush (m : Mach) (h fifo : Nat) : Nat :=
  let x := m.ham h
  (x.cmds.filter (fun c => c.fifo = fifo && !c.discard && x.eng.owner = some (m.ctxNum h c.ctx))).foldl (fun t c => t + (c.total - c.prog)) 0
/-- The weight bytes that an engine holds outside its active latch, and its activation bytes. -/
def Engine.stock (e : Engine) : Nat × Nat :=
  (e.fifoW.length + e.stage.length + (match e.shadow with | some t => t.bytes.length | none => 0), e.fifoA.length)
/-- What supplies a command's claims: FIFO and shadow bytes of its context and the bytes still to be pushed, less those that the claims of
stopped commands will still discard. -/
def Mach.supply (m : Mach) (h : Nat) (c : ECmd) : Nat × Nat :=
  let saved := (m.ham h).engSaved.get? (m.ctxNum h c.ctx)
  let e := saved.getD (m.ham h).eng
  let mine := saved.isSome || (e.owner = some (m.ctxNum h c.ctx) && !e.switching)
  let push (fifo : Nat) : Nat := (List.range 4).foldl (fun t ch => t + m.toPush h c.ctx ch fifo) 0
  if mine then (e.stock.1 + push 2 - e.dropW, e.stock.2 + push 3 - e.dropA) else (push 2, push 3)
/-- FIFO_UNDERFLOW_RECOUNT: every command whose remaining claim exceeds its supply less the claims of earlier commands is starved, and claims
only what can still come. What was to be discarded for a stopped command and can no longer come is not awaited. -/
def Mach.recount (m : Mach) (h : Nat) : Mach :=
  let m := m.modEng h (fun e => { e with
    dropW := min e.dropW (e.stock.1 + m.ownPush h 2), dropA := min e.dropA (e.stock.2 + m.ownPush h 3) })
  let mark (done : List ECmd) (c : ECmd) : ECmd :=
    let before := done.filter (fun d => d.ctx = c.ctx)
    let (w, a) := m.supply h c
    let w := w - before.foldl (fun t d => t + d.weights) 0
    let a := a - before.foldl (fun t d => t + d.activations) 0
    { c with starved := c.starved || c.claimW > w || c.claimA > a, lackW := max c.lackW (c.claimW - w), lackA := max c.lackA (c.claimA - a) }
  m.modEng h (fun e => { e with q := e.q.foldl (fun l c => l ++ [mark l c]) [] })

/-! ## Acknowledgements (R106) -/

/-- An acknowledgement reaches the engine. -/
def Mach.engAck (m : Mach) (h id : Nat) : Mach := m.modCmd h id (fun c => { c with acks := c.acks - 1 })
/-- CHUNK_ACKNOWLEDGEMENT: units 0 to 3 are the channels, 4 the quantisation engine, 5 the matrix engine. -/
def execChunkAcknowledgement (ham chan cmd : Nat) (s : State) :=
  lift (fun mem m =>
    let m := { m with acks := dropFirst (fun a => a.ham = ham && a.chan = chan && a.cmd = cmd && a.due ≤ m.now) m.acks }
    if chan < 4 then chunkAck ham chan cmd mem m else if chan = 4 then m.qengAck ham cmd else m.engAck ham cmd) s

end Sys2Proof.Machine
end

