-- ==== Sys2Proof/Machine/Reeve.lean ====
section
/-! DEFINITION. What the Reeve of a hamlet does to its warps: replies to faults (R106, R188, R190, R293), FQCTL, SCSTAT and RESUMECMD
(R187, R196, R197), the warp window and WCTL (R217, R223, R224), and the end of a save's wait (R184). -/
namespace Sys2Proof.Machine

/-! ## Replies (R188) -/

/-- A reply to this entry acts: the entry lies in [HEAD, TAIL) and has not been answered (R188). -/
def Mach.fqOpen (m : Mach) (h e : Nat) : Bool :=
  let head := m.regField (hamReg h 0x630) 0 9
  (List.range (min 256 (m.fqCount h))).any (fun k => (head + k) % 256 = e) &&
  (match (m.ham h).fqMeta.get? e with | some (_, done) => !done | none => false)
/-- What an entry reports, once it has been marked as answered. -/
def Mach.fqAnswer (m : Mach) (h e : Nat) : Report × Mach :=
  match (m.ham h).fqMeta.get? e with
  | some (r, _) => (r, m.modHam h (fun x => { x with fqMeta := x.fqMeta.set e (r, true) }))
  | none => (.noReply, m)
/-- A retry of a channel's fault (R106, R293): the channel resumes at the line, and writes that wait aside go again. -/
def Mach.chanRetry (m : Mach) (h ch id : Nat) : Mach :=
  match m.chanHead h ch with
  | some c =>
    if c.id ≠ id then m
    else
      let m := m.modHead h ch (fun c => { c with paused := false, found := none, due := m.now })
      let aside (r : Req) : Bool := r.ham = h && r.ack = some (ch, id) && r.stage = 9
      let again := m.reqs.filter aside
      let m := { m with reqs := m.reqs.filter (fun r => !aside r) }
      again.foldl (fun m r =>
        match r.kind with
        | .sstore =>
          let (trip, m) := m.setOut (hamParish h) 18 (routeOf r.home (hamRouter h) (hamRouter r.home))
          m.post { r with stage := 0, trip }
        | _ => m.sendHome r) m
  | none => m
/-- An abort of a channel's command (R106, R151, R293). -/
def Mach.chanAbort (m : Mach) (h ch id : Nat) : Mach :=
  match m.chanHead h ch with
  | some c =>
    if c.id ≠ id then m
    else
      let m := { m with resv := m.resv.filter (fun r => r.1 ≠ id) }.cmdOver h ch false
      if c.fifo ≠ 0 then m.recount h else m
  | none => m
/-- A write of FQREPLY with ACTION 0, retry (R187, R188). -/
def Mach.replyRetry (m : Mach) (ham entry : Nat) : Mach :=
  if !m.fqOpen ham (entry % 256) then m
  else match m.fqAnswer ham (entry % 256) with
    | (.log w id, m) => m.logRetry ham w id
    | (.fetch w lanes, m) =>
      m.modWarp ham w (fun x => (lanesOf lanes).foldl (fun x l =>
        if (x.lane l).st == .parked .fetch then x.releaseLane m.now l else x) x)
    | (.chan ch id, m) => m.chanRetry ham ch id
    | (.noReply, m) => m
/-- FQREPLY_RETRY. -/
def execFqreplyRetry (ham entry : Nat) (s : State) := lift (fun _ m => m.replyRetry ham entry) s
/-- A write of FQREPLY with ACTION 1, abort (R187, R188). -/
def Mach.replyAbort (m : Mach) (ham entry : Nat) : Mach :=
  if !m.fqOpen ham (entry % 256) then m
  else match m.fqAnswer ham (entry % 256) with
    | (.log w id, m) => m.logAbort ham w id
    | (.chan ch id, m) => m.chanAbort ham ch id
    | (_, m) => m
/-- FQREPLY_ABORT. -/
def execFqreplyAbort (ham entry : Nat) (s : State) := lift (fun _ m => m.replyAbort ham entry) s
/-- A write of FQCTL.HEAD (R186, R187): the Reeve consumes entries; reports that waited are written. -/
def Mach.headWrite (m : Mach) (ham head : Nat) : Mach :=
  (m.setField (hamReg ham 0x630) 0 9 head).fqFlush ham ((m.ham ham).fqWait.length)
/-- FQCTL_HEAD_WRITE. -/
def execFqctlHeadWrite (ham head : Nat) (s : State) := lift (fun _ m => m.headWrite ham head) s

/-! ## System calls (R196, R197) -/

/-- A record lands: its words stand in its slot and FULL is set (R186, R196). -/
def Mach.recordLand (m : Mach) (h slot : Nat) (ws : List Word) : Mach :=
  (m.store (keyArray h (39 * 8192 + 0x1000 + 0x320 * slot)) (wordsBytes ws)).setField (hamReg h 0x638) slot 1 1
/-- The records of a hamlet whose cycle has come. -/
def Mach.recordsDue (m : Mach) (h : Nat) : Mach :=
  let due := (m.ham h).scWait.filter (fun e => e.2.1 ≤ m.now)
  let m := due.foldl (fun m e => m.recordLand h e.1 e.2.2) m
  if due = [] then m else m.modHam h (fun x => { x with scWait := x.scWait.filter (fun e => ! (e.2.1 ≤ m.now)) })
/-- A write of SCSTAT (R196): a slot whose record has landed is freed; any other is left reserved. -/
def Mach.scFree (m : Mach) (ham bits : Nat) : Mach :=
  let a := hamReg ham 0x638
  let full := m.reg a
  let v := word bits &&& full
  (m.setReg a (full &&& ~~~v)).modHam ham (fun x => { x with scRes := x.scRes.filter (fun j => !wbit v j) })
/-- SCSTAT_FREE. -/
def execScstatFree (ham bits : Nat) (s : State) := lift (fun _ m => m.scFree ham bits) s
/-- A write of RESUMECMD (R184, R187, R197). -/
def Mach.resumeCmd (m : Mach) (ham : Nat) (value : Word) : Mach :=
  let w := wbits value 0 6
  let stop := m.stopOn ham w
  let pc := if wbit value 8 then some (m.reg (hamReg ham 0x644)) else none
  if ((m.ham ham).warps.get? w).isNone then m
  else m.modWarp ham w (fun x => x.resume m.now stop (m.reg (hamReg ham 0x640)) pc)
/-- RESUMECMD. -/
def execResumecmd (ham : Nat) (value : Word) (s : State) := lift (fun _ m => m.resumeCmd ham value) s

/-! ## The warp record and the window (R217, R223) -/

/-- The lane-state byte of R217. -/
def laneByte (s : LaneState) : Nat :=
  match s with
  | .ready => 0
  | .exited => 3
  | .absent => 3 + 4 * 0x3F
  | .held h => 1 + 4 * (match h with
      | .quad => 1 | .waitk => 2 | .ksync => 3 | .bwait => 4 | .tret => 5 | .fence => 6 | .cpwait => 7 | .qwait => 8
      | .mmwait => 9 | .baton => 10 | .hosted => 11 | .atom => 12)
  | .parked p => 2 + 4 * (match p with
      | .syscall => 1 | .trap => 2 | .nonTrap => 3 | .logged => 4 | .fetch => 5 | .stop => 6 | .doubleTrap => 7)
/-- The word of four bytes. -/
def packed (f : Nat → Nat) : Word := word (f 0 % 256 + f 1 % 256 * 2 ^ 8 + f 2 % 256 * 2 ^ 16 + f 3 % 256 * 2 ^ 24)
/-- The bytes of an operand-log entry (R217): each lane's address and data, whose words a SPILL takes from its lines in turn. -/
def LogEntry.bytes (e : LogEntry) : List Byte :=
  let addr (l : Nat) : Nat := if e.io then e.addrs.get 0 l else if wbit e.mask l then e.addrs.get 0 0 + 4 * l else 0
  let bytes (l : Nat) : List Byte := if e.io then e.data.get [] l else (List.range 4).flatMap (fun i => e.data.get [] (32 * i + l))
  let addrs := (List.range 32).flatMap (fun l => leBytes 6 (addr l))
  let data := (List.range 32).flatMap (fun l => (bytes l ++ leBytes 16 0).take 16)
  (wordsBytes [e.word, e.mask, e.faulted, BitVec.ofNat 32 e.reg] ++ addrs ++ data ++ leBytes 48 0).take 768
/-- The word at an offset of a warp's record (R217). -/
def Warp.recordWord (x : Warp) (off : Nat) : Word :=
  if off < 0x2000 then x.v.get 0 (off / 4)
  else if off < 0x2280 then x.s.get 0 ((off - 0x2000) / 4)
  else if off < 0x22B0 then x.k.get 0 ((off - 0x2280) / 4)
  else if off < 0x22C0 then x.arr.get 0 (8 + (off - 0x22B0) / 4)
  else if off < 0x22E0 then packed (fun i => (x.fxr (off - 0x22C0 + i)).toNat)
  else if off < 0x2360 then (x.lane ((off - 0x22E0) / 4)).at'
  else if off < 0x2380 then packed (fun i => laneByte (x.lane (off - 0x2360 + i)).st)
  else if off < 0x23C0 then
    match (off - 0x2380) / 4 with
    | 0 => x.fpmode
    | 1 => x.trapcause
    | 2 => x.trapd0
    | 3 => x.trapd1
    | 4 => x.trapd2
    | 5 => x.trappc
    | 6 => x.trapmask
    | 7 => x.tvec
    | 8 => x.leasev
    | 9 => word (x.streak % 128)
    | 10 => bword x.hmode
    | 11 => x.saved
    | 12 => word x.spillPtr
    | 13 => word (x.spillPtr / 2 ^ 32 % 2 ^ 16)
    | 14 => x.clk
    | _ => 0
  else if off < 0x2FC0 then
    match x.log.find? (fun e => e.num = (off - 0x23C0) / 768) with
    | some e => wordAt e.bytes ((off - 0x23C0) % 768)
    | none => 0
  else 0
/-- A read of a warp window (R223): an empty slot reads zero. -/
def Mach.windowRead (m : Mach) (h w off : Nat) : Word :=
  if off = 0x3000 then m.reg (wctlReg h w) &&& 7
  else match (m.ham h).warps.get? w with
    | some x => if x.ended || off ≥ 0x2FC0 then 0 else x.recordWord off
    | none => 0
/-- A lane is parked. -/
def Lane.isParked (y : Lane) : Bool := match y.st with | .parked _ => true | _ => false
/-- A window write: the warp after it, and whether a field was refused (R223). A word of FX holds four lanes, each taken or refused
for itself. -/
def Warp.windowWrite (x : Warp) (off : Nat) (v : Word) : Warp × Bool :=
  let take (ok : Bool) (y : Warp) : Warp × Bool := if ok then (y, false) else (x, true)
  let still : Bool := x.readyMask = 0
  let l := off / 4 % 32
  let reg (file : RFile) (r : Nat) (mask : Word) (key : Nat) : Warp :=
    x.land { id := 0, file, regs := [r], mask, vals := [(key, v)], issue := 0, land := none, var := false }
  if off < 0x2000 then take (x.lane l).isParked (reg .v (off / 128) (laneBit l) (off / 4))
  else if off < 0x2280 then take still (reg .s ((off - 0x2000) / 4) 0 ((off - 0x2000) / 4))
  else if off < 0x2284 then (x, true)
  else if off < 0x22B0 then take still (reg .k ((off - 0x2280) / 4) 0xFFFFFFFF ((off - 0x2280) / 4))
  else if off < 0x22C0 then (x, true)
  else if off < 0x22E0 then
    (List.range 4).foldl (fun a i =>
      let l := off - 0x22C0 + i
      if (x.lane l).isParked then ({ a.1 with fx := a.1.fx.set l (BitVec.ofNat 32 (wbits v (8 * i) 5)) }, a.2) else (a.1, true)) (x, false)
  else if off < 0x2360 then
    let l := (off - 0x22E0) / 4
    take (x.lane l).isParked (x.modLane l (fun y => { y with pc := v &&& 0xFFFFFFFC }))
  else if off = 0x2380 then take (still && wbits v 0 3 < 5) { x with fpmode := v &&& 0x00011F07 }
  else if off = 0x2394 then take still { x with trappc := v &&& 0xFFFFFFFC }
  else if off = 0x239C then take (still && v.toNat % 12 = 0) { x with tvec := v }
  else (x, true)

/-! ## WCTL (R224) -/

/-- Every ready lane of a warp under STOP is parked at a group boundary: once no word of an issued group is withheld (R224, R326). -/
def Warp.halt (x : Warp) : Warp := if x.withheld = [] then x.park x.readyMask .stop else x
/-- STOP ends: the lanes that it parked become ready, and the recorded resumes take effect, but for those of lanes that a handler
keeps parked (R184, R224). -/
def Warp.unhalt (x : Warp) (now : Nat) : Warp :=
  let x := x.modLanes (x.lanesIn (· == .parked .stop)) (fun y => { y with st := .ready, after := now })
  let (apply, keep) := x.resumes.partition (fun e => !x.hmode || wbit (x.kr 0) e.1)
  { x.applyResumes (now + 4) apply with resumes := keep }
/-- WCTL_STOP (R224). -/
def Mach.wctlStop (m : Mach) (h w : Nat) (on : Bool) : Mach :=
  let was := m.stopOn h w
  let m := m.setField (wctlReg h w) 1 1 (if on then 1 else 0)
  if ((m.ham h).warps.get? w).isNone then m
  else if on then m.modWarp h w Warp.halt
  else if was then m.modWarp h w (fun x => x.unhalt m.now) else m
/-- WCTL_STOP. -/
def execWctlStop (ham warp : Nat) (on : Bool) (s : State) := lift (fun _ m => m.wctlStop ham warp on) s
/-- WCTL_STEP (R224). -/
def Mach.wctlStep (m : Mach) (h w : Nat) (on : Bool) : Mach := m.setField (wctlReg h w) 0 1 (if on then 1 else 0)
/-- WCTL_STEP. -/
def execWctlStep (ham warp : Nat) (on : Bool) (s : State) := lift (fun _ m => m.wctlStep ham warp on) s
/-- WCTL_CLRH (R224): ignored while a handler lane is ready or held, or outside handler mode. -/
def Mach.wctlClrh (m : Mach) (h w : Nat) : Mach :=
  let x := m.warp h w
  let busy := x.kr 0 &&& x.lanesIn (fun s => match s with | .ready => true | .held _ => true | _ => false)
  if ((m.ham h).warps.get? w).isNone || !x.hmode || busy ≠ 0 then m
  else
    let m := m.setWarp h w (x.leaveHandler m.now none (m.stopOn h w))
    if m.stopOn h w then m.modWarp h w Warp.halt else m
/-- WCTL_CLRH. -/
def execWctlClrh (ham warp : Nat) (s : State) := lift (fun _ m => m.wctlClrh ham warp) s
/-- A write of the whole of WCTL (R10, R224). -/
def Mach.wctlWrite (m : Mach) (h w : Nat) (v : Word) : Mach :=
  let m := if wbit v 2 then m.setField (wctlReg h w) 2 1 0 else m
  let m := if wbit v 3 then m.wctlClrh h w else m
  (m.wctlStop h w (wbit v 1)).wctlStep h w (wbit v 0)
/-- WARP_WINDOW_WRITE (R223): an accepted field, WCTL, or a refused write, which sets WERR; an empty slot and the reserved ranges
ignore it. -/
def Mach.windowWrite (m : Mach) (h w off : Nat) (v : Word) : Mach :=
  if off = 0x3000 then m.wctlWrite h w v
  else match (m.ham h).warps.get? w with
    | none => m
    | some x =>
      if x.ended || off ≥ 0x2FC0 then m
      else
        let (y, refused) := x.windowWrite off v
        let m := m.setWarp h w y
        if refused then m.setField (wctlReg h w) 2 1 1 else m
/-- WARP_WINDOW_WRITE. -/
def execWarpWindowWrite (ham warp off : Nat) (value : Word) (s : State) :=
  lift (fun _ m => m.windowWrite ham (warp % 64) (off / 4 * 4) value) s

/-! ## A save's wait (R184, R216) -/

/-- A warp in handler mode has waited 16,384 cycles for a save. -/
def Mach.saveWaitOver (m : Mach) (h w : Nat) : Bool :=
  match (m.warp h w).saveWait with | some t => t + 16384 ≤ m.now | none => false
/-- HANDLER_MODE_SAVE_WAIT_EXPIRY (R184): the save goes on with the warp in handler mode. -/
def execHandlerModeSaveWaitExpiry (ham warp : Nat) (s : State) :=
  lift (fun _ m =>
    if m.saveWaitOver ham warp then m.modWarp ham warp (fun x => { x with saveWait := none, stopped := true }) else m) s

end Sys2Proof.Machine
end

