-- ==== Sys2Proof/Machine/Active.lean ====
section
/-! DEFINITION. The active set and the counters of a warp (R37, R53 to R60, R397). -/
namespace Sys2Proof.Machine

/-! ## Budget (R56) -/

/-- The pairs that count as shared carve: those of blocks whose placement is complete (R78). -/
def Hamlet.carved (x : Hamlet) : Nat := (x.pairs.filter (fun p => (x.blocks.get default p.2).eligible)).length
/-- R56: ⌊lines × OVERSUB ÷ 16⌋. -/
def Mach.budget (m : Mach) (h : Nat) : Nat := (2496 - 128 * (m.ham h).carved) * m.regField (hamReg h 0x300) 20 6 / 16
/-- The warps of the active set. -/
def Hamlet.activeWarps (x : Hamlet) : SMap Warp := x.warps.filter (fun e => e.2.active && !e.2.ended)
/-- R56: a warp fits, or the active set is empty. -/
def Mach.fitsActive (m : Mach) (h : Nat) (w : Warp) : Bool :=
  let l := (m.ham h).activeWarps
  l = [] || (l.foldl (fun t e => t + e.2.lease) 0) + w.lease ≤ m.budget h
/-- A warp that could join: ready, inactive and eligible (R57, R58, R78). -/
def Mach.canJoin (m : Mach) (h : Nat) (x : Warp) : Bool :=
  !x.active && !x.ended && x.readyMask ≠ 0 && (m.block h x.block).eligible && !x.stopped

/-! ## Joining and leaving (R57, R58) -/

/-- The warp that a forced join serves: its wait counter has reached 4,096, earliest placement first (R58). -/
def Mach.forcedWarp (m : Mach) (h : Nat) : Option Nat :=
  (minBy (fun e => e.2.placed) ((m.ham h).warps.filter (fun e => m.canJoin h e.2 && e.2.waitCnt ≥ 4096))).map (·.1)
/-- The warp that may join now: the earliest placed that fits, unless a forced join is due (R57, R58). -/
def Mach.joinWarp (m : Mach) (h : Nat) : Option Nat :=
  if (m.forcedWarp h).isSome then none
  else (minBy (fun e => e.2.placed) ((m.ham h).warps.filter (fun e => m.canJoin h e.2 && m.fitsActive h e.2))).map (·.1)
/-- No warp has joined in this cycle yet. -/
def Mach.mayJoin (m : Mach) (h : Nat) : Bool := (m.ham h).joined ≠ some m.now
/-- A warp becomes active. -/
def Mach.join (m : Mach) (h w : Nat) : Mach :=
  (m.modHam h (fun x => { x with joined := some m.now })).modWarp h w (fun x =>
    { x with active := true, activated := m.now, waitCnt := 0, idle := 0 })
/-- ACTIVE_SET_JOIN (R57). -/
def execActiveSetJoin (ham warp : Nat) (s : State) :=
  lift (fun _ m => if m.mayJoin ham && m.joinWarp ham = some warp then m.join ham warp else m) s
/-- The active warp of longest tenure: the earliest activation, the lowest quarter and slot on a tie (R58). -/
def Hamlet.oldest (x : Hamlet) : Option Nat := (minBy (fun e => e.2.activated) (sortBy (·.1) x.activeWarps)).map (·.1)
/-- FORCED_JOIN (R58): a warp that does not fit displaces the active warp of longest tenure. -/
def execForcedJoin (ham warp : Nat) (s : State) :=
  lift (fun _ m =>
    if !(m.mayJoin ham && m.forcedWarp ham = some warp) then m
    else
      let out := if m.fitsActive ham (m.warp ham warp) then none else (m.ham ham).oldest
      let m := match out with
        | some w => m.modWarp ham w (fun x => { x with active := false, waitCnt := 0 })
        | none => m
      m.join ham warp) s
/-- A warp leaves the active set now: it has had no ready lane for 64 consecutive cycles, or a save has stopped it (R57, R216). -/
def Warp.leaves (x : Warp) : Bool := x.active && (x.ended || x.idle ≥ 64)
/-- ACTIVE_SET_LEAVE (R57). -/
def execActiveSetLeave (ham warp : Nat) (s : State) :=
  lift (fun _ m => if (m.warp ham warp).leaves then m.modWarp ham warp (fun x => { x with active := false, waitCnt := 0, idle := 0 }) else m) s

/-! ## Leases (R53, R54) -/

/-- The number of bits set in a line-touch filter. -/
def filterCount (f : BitVec 256) : Nat := ((List.range 256).filter (fun i => f.getLsbD i)).length
/-- LEASE_REESTIMATE (R54): at every 1,024th active cycle. The filter and the count are cleared then even where no re-estimate takes place:
with MEASURE 0, and for a declared lease (DEDUCED, log 23). -/
def execLeaseReestimate (ham warp : Nat) (s : State) :=
  lift (fun _ m =>
    let measure := wbit (m.reg (hamReg ham 0x300)) 0
    m.modWarp ham warp (fun x =>
      if x.actCycles < 1024 then x
      else
        { x with lease := if measure && !x.decl then max (filterCount x.filter) 1 else x.lease, filter := 0, actCycles := 0 })) s

/-! ## Counters (R37, R59, R397) -/

/-- PASSED_OVER_EXPIRY (R59): the warp is preferred from now on until it issues. -/
def execPassedOverExpiry (ham warp : Nat) (s : State) :=
  lift (fun _ m => m.modWarp ham warp (fun x => if x.passed ≥ 4096 then { x with prefer := true } else x)) s
/-- STREAK_EXPIRY (R37): the warp's next issue uses its second run. -/
def execStreakExpiry (ham warp : Nat) (s : State) :=
  lift (fun _ m => m.modWarp ham warp (fun x => if x.streak ≥ 64 then { x with second := true } else x)) s
/-- YIELD_EXPIRY (R397): 64 cycles have passed. -/
def execYieldExpiry (ham warp : Nat) (s : State) :=
  lift (fun _ m => m.modWarp ham warp (fun x =>
    match x.yieldUntil with | some t => if t ≤ m.now then { x with yieldUntil := none } else x | none => x)) s
/-- The counters of one warp over one cycle: `ready` says that it has a ready lane, `wait` that it could join (R54, R57, R58). -/
def Warp.count (x : Warp) (wait : Bool) : Warp :=
  let idle := if x.active && x.readyMask = 0 then x.idle + 1 else 0
  { x with waitCnt := if wait then x.waitCnt + 1 else 0, idle, actCycles := if x.active then x.actCycles + 1 else x.actCycles }
/-- The counters of a hamlet's warps over one cycle. -/
def Mach.countHam (m : Mach) (h : Nat) : Mach :=
  m.modHam h (fun x => { x with warps := x.warps.map (fun e => (e.1, if e.2.ended then e.2 else e.2.count (m.canJoin h e.2))) })

end Sys2Proof.Machine
end

