-- ==== Sys2Proof/Machine/Place.lean ====
section
/-! DEFINITION. Placement of blocks and clusters, loading of contexts, the start and the end of blocks (R30 to R33, R43, R47, R50, R51,
R76 to R79, R83, R203, R209, R211). -/
namespace Sys2Proof.Machine

/-! ## Room (R32) -/

/-- Warps of a block of a launch (R31). -/
def Launch.warps (l : Launch) : Nat := ceilDiv l.lanes 32
/-- Pairs of a block of a launch (R77). -/
def Launch.pairs (l : Launch) : Nat := l.carve / 2 ^ 14
/-- The slots of a quarter that hold no warp, ascending. A slot is free once its warp has ended, before its block has (R32 does not say
when it becomes free; DESIGN CHOICE, log 23). -/
def Hamlet.freeSlots (x : Hamlet) (q : Nat) : List Nat :=
  (List.range 16).filter (fun i => match x.warps.get? (16 * q + i) with | some w => w.ended | none => true)
/-- The pairs of a hamlet that belong to the first level, ascending (R77). -/
def Hamlet.freePairs (x : Hamlet) : List Nat := (List.range 16).filter (fun p => (x.pairs.get? p).isNone)
/-- The slot in which a context is resident. -/
def Hamlet.ctxSlot (x : Hamlet) (num : Nat) : Option Nat := (x.ctxs.find? (fun e => e.2.num = num)).map (·.1)
/-- The lowest free context slot (R51). -/
def Hamlet.freeCtx (x : Hamlet) : Option Nat := ((List.range 4).filter (fun c => (x.ctxs.get? c).isNone)).head?
/-- The context slots whose context is under pre-emption take no block (R216). -/
def Mach.placementStopped (m : Mach) (num : Nat) : Bool :=
  m.suspended.contains num || (match m.pre with | some p => p.ctx = num | none => false)
/-- The number of blocks of a launch that a hamlet has room for now (R32). -/
def Mach.roomFor (m : Mach) (h : Nat) (l : Launch) : Nat :=
  let x := m.ham h
  let slots := (List.range 4).foldl (fun t q => t + (x.freeSlots q).length) 0
  let byPairs := if l.pairs = 0 then 64 else x.freePairs.length / l.pairs
  if m.partOf (hamParish h) ≠ some l.part || ((x.ctxSlot l.ctx).isNone && x.freeCtx.isNone) then 0
  else min (slots / l.warps) byPairs
/-- The hamlets of a parish, ascending. -/
def hamsOf (p : Nat) : List Nat := (List.range 16).map (16 * p + ·)
/-- The hamlets of a parish that can take a block of the launch. -/
def Mach.placeable (m : Mach) (p : Nat) (l : Launch) : List Nat := (hamsOf p).filter (fun h => m.roomFor h l ≥ 1)
/-- The parishes of the launch's partition that can take a whole cluster (R33). -/
def Mach.parishRoom (m : Mach) (l : Launch) : List Nat :=
  (m.parishesOf l.part).filter (fun p => (m.placeable p l).length ≥ l.clb)
/-- Draw an element of a list that no rule orders (log 19). -/
def Mach.pick (m : Mach) (l : List Nat) (d : Nat) : Nat × Mach :=
  let (i, m) := m.freeBelow l.length
  (l.getD i d, m)
/-- Draw `n` distinct elements. -/
def Mach.pickN (m : Mach) : Nat → List Nat → List Nat × Mach
  | 0, _ => ([], m)
  | n + 1, l =>
    let (x, m) := m.pick l 0
    let (r, m) := m.pickN n (l.filter (· ≠ x))
    (x :: r, m)

/-! ## Contexts (R51, R203) -/

/-- The bytes of a context descriptor (R203). -/
def Mach.descriptor (mem : Memory) (m : Mach) (num : Nat) : List Byte × Mach :=
  let base := wbits (m.reg (stwReg 0x3100)) 18 14 * 2 ^ 18 + wbits (m.reg (stwReg 0x3104)) 0 16 * 2 ^ 32
  let (b, _, m) := m.memReadN mem noPart (base + 64 * num) 64 0 0 2
  (b, m)
/-- Load a context into a slot of a hamlet (R50, R51). -/
def Mach.loadCtx (m : Mach) (h c : Nat) (l : Launch) (d : List Byte) : Mach :=
  let set (m : Mach) (off v : Nat) : Mach := m.setReg (hamReg h off) (word v)
  let m := set m (0x610 + 8 * c) (natAt d 0 4)
  let m := set m (0x614 + 8 * c) (natAt d 4 4)
  let m := set m (0x310 + 4 * c) (max (l.weight % 256) 1 + (if (natAt d 8 4).testBit 16 then 2 ^ 16 else 0))
  let m := set m (0x320 + 8 * c) ((word (natAt d 0xC 4) &&& 0x07FF07FF).toNat)
  let m := set m (0x324 + 8 * c) ((word (natAt d 0x10 4) &&& 0x07FF07FF).toNat)
  let m := set m (0x600 + 4 * c) ((word (natAt d 0x14 4) &&& 0x1BE).toNat)
  let m := set m (0x700 + 4 * c) (natAt d 0x18 4)
  let m := (List.range 4).foldl (fun m i => m.setField (hamReg h (0x40C + 0x40 * c + 0x10 * i)) 0 1 0) m
  m.modHam h (fun x => { x with
    ctxs := x.ctxs.set c { num := l.ctx, tenant := l.tenant, occ := l.occ, queue := l.queue, part := l.part }
    dfc := x.dfc.filter (fun e => e.1 % 4 ≠ c) })
/-- The slot of the launch's context on a hamlet, loading it where it is not resident. -/
def Mach.bringCtx (mem : Memory) (m : Mach) (h : Nat) (l : Launch) : Nat × Mach :=
  match (m.ham h).ctxSlot l.ctx with
  | some c => (c, m)
  | none =>
    let c := (m.ham h).freeCtx.getD 0
    let (d, m) := m.descriptor mem l.ctx
    (c, m.loadCtx h c l d)

/-! ## Blocks (R31, R32, R47, R77, R78) -/

/-- Zero the bytes of [a, a + n) that are not zero. -/
def Mach.zero (mem : Memory) (m : Mach) (a n : Nat) : Mach :=
  let at' := (mem.map (·.1) ++ m.wr.map (·.1)).filter (fun k => a ≤ k && k < a + n)
  { at'.foldl (fun m k => m.st k 0) m with
    poison := m.poison.filter (fun w => !(a ≤ 8 * w && 8 * w < a + n)), flips := m.flips.filter (fun w => !(a ≤ 8 * w && 8 * w < a + n)) }
/-- The pairs of a new block leave the first level (R78): dirty lines are written back, the others dropped, the granules zeroed; the
number of dirty lines. They are not evicted in favour of another line, and no victim tag records them (R55; DEDUCED, log 23). -/
def Mach.takePairs (mem : Memory) (m : Mach) (h : Nat) (pairs : List Nat) : Nat × Mach :=
  let gone := (m.ham h).l1.filter (fun x => pairs.contains (x.gran / 2))
  let m := gone.foldl (fun m x => m.l1Drop mem h x) m
  let m := pairs.foldl (fun m p => m.zero mem (keyArray h (p * 2 ^ 14)) (2 ^ 14)) m
  ((gone.filter (·.dirty)).length, m)
/-- The quarter with the most free slots, the lower on a tie (R32). -/
def Hamlet.firstQuarter (x : Hamlet) : Nat :=
  let n (q : Nat) := (x.freeSlots q).length
  (List.range 4).foldl (fun b q => if n q > n b then q else b) 0
/-- The quarter of a block's warp: (q0 + w) mod 4, or the next that is not full (R32). -/
def Hamlet.quarterFor (x : Hamlet) (q0 w : Nat) : Option Nat :=
  ((List.range 4).map (fun i => (q0 + w + i) % 4)).find? (fun q => x.freeSlots q ≠ [])
/-- The present lanes of a block's warp (R31). -/
def presentMask (lanes w : Nat) : Word := word (2 ^ min 32 (lanes - 32 * w) - 1)
/-- A warp as a launch starts it (R47, R53, R83). -/
def Launch.warp (l : Launch) (n w linear placed : Nat) : Warp :=
  let k0 := presentMask l.lanes w
  { block := n, idx := w, placed, s := (List.range 32).map (fun i => (i, l.args.getD i 0)), k := [(0, k0)], fpmode := l.fpmode,
    lanes := (lanesOf k0).map (fun i => (i, { st := .ready, pc := word l.entry })), decl := l.decl,
    lease := if l.decl then l.lease else 16, spillPtr := (l.spillBase + 128 * l.spill * (linear * l.warps + w)) % 2 ^ 48 }
/-- The barriers of a block at its start (R108): a cluster of two or more blocks shares B12 to B15. -/
def Launch.barsAtStart (l : Launch) : SMap Bar :=
  (List.range 16).map (fun b =>
    let cl : Bool := b ≥ 12 && l.clb ≥ 2
    let x : Bar := { exp := if cl then l.lanes * l.clb else l.lanes, cl }
    (b, x))
/-- Place one warp of a block in a slot. -/
def Mach.placeWarp (m : Mach) (h n q0 w linear : Nat) (l : Launch) : Mach :=
  let x := m.ham h
  match x.quarterFor q0 w with
  | none => m
  | some q =>
    let (slot, m) := m.pick (x.freeSlots q) 0
    let m := m.modHam h (fun x => { x with placeCnt := x.placeCnt + 1 })
    m.setWarp h (16 * q + slot) (l.warp n w linear x.placeCnt)
/-- Place one block of a cluster (R32, R33, R78, R209). -/
def Mach.placeBlock (mem : Memory) (m : Mach) (h launch : Nat) (l : Launch) (cluster rank : Nat) (peers : List (Nat × Nat)) : Mach :=
  let (c, m) := m.bringCtx mem h l
  let x := m.ham h
  let n := x.nextBlock
  let pairs := x.freePairs.take l.pairs
  let m := m.modHam h (fun x =>
    { x with nextBlock := n + 1, pairs := pairs.foldl (fun (a : SMap Nat) p => a.set p n) x.pairs })
  let (d, m) := m.takePairs mem h pairs
  let linear := cluster * l.clb + rank
  let b : Block :=
    { launch, ctx := c, peers, rank, bx := cluster % l.gx * l.clb + rank, by' := cluster / l.gx % l.gy,
      bz := cluster / l.gx / l.gy, clusterId := cluster, lanes := l.lanes, carve := l.carve, pairs,
      spill := l.spill, bars := l.barsAtStart, hosts := if rank = 0 then l.barsAtStart.filter (·.2.cl) else [], dealing := l.card.isSome, eligAt := m.now + 8 + d + 16 * pairs.length }
  let m := m.setBlock h n b
  let q0 := (m.ham h).firstQuarter
  (List.range l.warps).foldl (fun m w => m.placeWarp h n q0 w linear l) m
/-- Place a cluster on distinct hamlets of one parish, ascending by rank (R33). -/
def Mach.placeOn (mem : Memory) (m : Mach) (launch : Nat) (l : Launch) (hams : List Nat) : Mach :=
  let hams := sortBy id hams
  let peers := hams.map (fun h => (h, (m.ham h).nextBlock))
  let m := (List.range hams.length).foldl (fun m r => m.placeBlock mem (hams.getD r 0) launch l l.placed r peers) m
  { m with launches := m.launches.set launch { l with placed := l.placed + 1 } }
/-- The clusters of a launch. -/
def Launch.clusters (l : Launch) : Nat := l.gx * l.gy * l.gz
/-- The next cluster of a launch may be placed now (R33, R209, R216). -/
def Mach.placeDue (m : Mach) (launch : Nat) : Bool :=
  match m.launches.get? launch with
  | some l => l.placed < l.clusters && !l.heldStart && !m.placementStopped l.ctx && m.parishRoom l ≠ []
  | none => false
/-- CLUSTER_PLACEMENT (R33): no rule says which of the parishes with room, nor which hamlets of it (log 19). -/
def clusterPlacement (launch : Nat) : Act := fun mem m =>
  match m.launches.get? launch with
  | none => m
  | some l =>
    if !m.placeDue launch then m
    else
      let (p, m) := m.pick (m.parishRoom l) 0
      let (hams, m) := m.pickN l.clb (m.placeable p l)
      m.placeOn mem launch l hams
/-- CLUSTER_PLACEMENT. -/
def execClusterPlacement (launch : Nat) (s : State) := lift (clusterPlacement launch) s
/-- The block's warps become eligible now (R78); a muster's part waits for its start token (R219). -/
def Mach.eligDue (m : Mach) (h n : Nat) : Bool :=
  match (m.ham h).blocks.get? n with
  | some b => !b.eligible && b.eligAt ≤ m.now && !(m.launches.get default b.launch).heldStart
  | none => false
/-- BLOCK_WARPS_ELIGIBLE (R78). -/
def execBlockWarpsEligible (ham block : Nat) (s : State) :=
  lift (fun _ m => if m.eligDue ham block then m.modBlock ham block (fun b => { b with eligible := true }) else m) s

/-! ## Ends (R43, R51, R79, R116) -/

/-- A block ends now: its warps have ended, and its commands, reads and scoreboard entries are done (R43, R116). -/
def Mach.endDue (m : Mach) (h n : Nat) : Bool :=
  let x := m.ham h
  match x.blocks.get? n with
  | some b =>
    b.eligible && x.warps.all (fun e => e.2.block ≠ n || e.2.ended) && !x.cmds.any (fun c => c.block = n) &&
    !x.qeng.any (fun c => c.block = n) && !x.eng.q.any (fun c => c.block = n) && !x.sb.any (fun e => e.block = n) &&
    !x.lays.any (fun y => y.block = n)
  | none => false
/-- A block leaves its hamlet: its pairs return to the first level as empty ways (R79). -/
def Mach.dropBlock (m : Mach) (h n : Nat) : Mach :=
  m.modHam h (fun x => { x with
    blocks := x.blocks.erase n, warps := x.warps.filter (fun e => e.2.block ≠ n), pairs := x.pairs.filter (fun p => p.2 ≠ n) })
/-- Every block of a launch has ended. -/
def Mach.launchOver (m : Mach) (id : Nat) : Bool :=
  match m.launches.get? id with
  | some l => l.placed = l.clusters && l.endedBlocks = l.clusters * l.clb
  | none => true
/-- Every record of a job card has been ended by TASKEND (R208). -/
def Mach.cardOver (m : Mach) (id : Nat) : Bool :=
  match m.cards.get? id with
  | some c => c.endedRecords ≥ c.records && c.shipped.isNone
  | none => true
/-- A packet in progress that runs blocks is complete (R208). -/
def Mach.packetOver (m : Mach) (p : Packet) : Bool :=
  p.begun && !p.done && !p.halted && p.launches ≠ [] && p.launches.all m.launchOver && (match p.card with | some c => m.cardOver c | none => true)
/-- The launch hardware puts the completion of a packet in its completion queue (R204, R220). -/
def Mach.finish (m : Mach) (q idx : Nat) : Mach :=
  let f : Packet → Packet := fun p => { p with done := true }
  match m.queues.get? q with
  | some x =>
    { m with queues := m.queues.set q { x with packets := updateFirst (fun p => p.idx = idx) f x.packets }, cqueue := m.cqueue ++ [(q, idx)] }
  | none => m
/-- The packets that have become complete go to the completion queue. -/
def Mach.harvest (m : Mach) : Mach :=
  let isOver := m.queues.flatMap (fun e => (e.2.packets.filter m.packetOver).map (fun p => (e.1, p.idx)))
  isOver.foldl (fun m e => m.finish e.1 e.2) m
/-- End the chunks of a block that a predicate selects (R211, R390). -/
def Mach.endChunks (m : Mach) (card h n : Nat) (p : Chunk → Bool) : Mach :=
  match m.cards.get? card with
  | none => m
  | some c =>
    let hit (k : Chunk) : Bool := k.ham = h && k.block = n && !k.ended && p k
    let done := ((c.chunks.filter hit).map (·.count)).foldl (· + ·) 0
    let c := { c with chunks := c.chunks.filter (fun k => !hit k), endedRecords := c.endedRecords + done }
    { m with cards := m.cards.set card c }
/-- The job card of a block's launch. -/
def Mach.cardOf (m : Mach) (b : Block) : Option Nat := (m.launches.get? b.launch).bind (·.card)
/-- BLOCK_END (R43, R79, R209, R390). -/
def execBlockEnd (ham block : Nat) (s : State) :=
  lift (fun _ m =>
    if !m.endDue ham block then m
    else
      let b := m.block ham block
      let m := match m.cardOf b with | some c => m.endChunks c ham block (fun _ => true) | none => m
      let m := m.dropBlock ham block
      match m.launches.get? b.launch with
      | some l => { m with launches := m.launches.set b.launch { l with endedBlocks := l.endedBlocks + 1 } }.harvest
      | none => m) s
/-- The context slot named by word 0 of a fault-queue entry or SYSCALL record (R186, R196). -/
def ctxField (w : Word) : Nat := wbits w 22 2
/-- A SYSCALL record or fault-queue entry of a context slot is pending (R51). -/
def Mach.reportsPending (mem : Memory) (m : Mach) (h c : Nat) : Bool :=
  let x := m.ham h
  let head := m.regField (hamReg h 0x630) 0 9
  let word0 (off : Nat) : Word := leWord (m.rdN mem (keyArray h (39 * 8192 + off)) 4)
  x.fqWait.any (fun e => ctxField e.2.w0 = c) || x.scWait.any (fun e => ctxField (e.2.2.headD 0) = c) ||
  (List.range (min 256 (m.fqCount h))).any (fun k => ctxField (word0 (16 * ((head + k) % 256))) = c) ||
  (List.range 5).any (fun j => wbit (m.reg (hamReg h 0x638)) j && ctxField (word0 (0x1000 + 0x320 * j)) = c)
/-- A context leaves its slot now (R51). -/
def Mach.leaveDue (mem : Memory) (m : Mach) (h c : Nat) : Bool :=
  let x := m.ham h
  match x.ctxs.get? c with
  | some k =>
    !x.blocks.any (fun e => e.2.ctx = c) && !x.cmds.any (fun d => d.ctx = c) && !x.qeng.any (fun d => d.ctx = c) &&
    !x.eng.q.any (fun d => d.ctx = c) && !m.reportsPending mem h c && !(match m.pre with | some p => p.ctx = k.num | none => false)
  | none => false
/-- The slot of a context becomes free (R51). The spill lines of its warps stay until they are evicted or their pairs are carved (R78, R81,
R279). -/
def Mach.freeCtxSlot (m : Mach) (h c : Nat) : Mach := m.modHam h (fun x => { x with ctxs := x.ctxs.erase c })
/-- CONTEXT_LEAVE (R51). -/
def execContextLeave (ham slot : Nat) (s : State) :=
  lift (fun mem m => if m.leaveDue mem ham slot then m.freeCtxSlot ham slot else m) s

end Sys2Proof.Machine
end

