-- ==== Sys2Proof/Machine/Queue.lean ====
section
/-! DEFINITION. Command queues: the front-end's accesses, doorbells, the check and the start of a packet, and the moves of LAUNCH, BATCH,
WAITSEM, SIGNAL, COPYQ, FENCEQ and QMARK (R200 to R211, R232), and what the steward does to a queue (R200, R202). -/
namespace Sys2Proof.Machine

/-! ## Accesses of the front-end (R200, R240; log 20) -/

/-- The outcome of an access or of a move of the front-end: done, a fault, or a wait for a HOT stack or a held line. -/
inductive Fe (α : Type) where
  | ok (a : α) (m : Mach) | fault | held (pa : Nat)

/-- One access after another. -/
def Fe.bind {α β : Type} (x : Fe α) (f : α → Mach → Fe β) : Fe β :=
  match x with
  | .ok a m => f a m
  | .fault => .fault
  | .held pa => .held pa

/-- A 64-bit virtual address is canonical under Sv48. -/
def canonical64 (va : Nat) : Bool := va < 2 ^ 47 || (2 ^ 64 - 2 ^ 47 ≤ va && va < 2 ^ 64)
/-- Translate for the front-end, in the space of a context number (R191, R203). -/
def Mach.feXlat (mem : Memory) (m : Mach) (num va : Nat) (a : Access) : Fe Nat :=
  let (d, m) := m.descriptor mem num
  let vpn := va % 2 ^ 48 / 4096
  if !canonical64 va ∨ bits (natAt d 4 4) 28 4 ≠ 9 then .fault
  else match m.walkFrom mem noPart vpn 4 (bits (natAt d 4 4) 0 12 * 2 ^ 32 + natAt d 0 4) with
    | (.held pa, _) => .held pa
    | (.fault _, _) => .fault
    | (.leaf flags ppn pages aligned, m) =>
      match leafCheck flags aligned a with
      | some _ => .fault
      | none => .ok ((ppn / 2 ^ pages * 2 ^ pages + vpn % 2 ^ pages) * 4096 + va % 4096) m
/-- Read `n` bytes, line by line; `k` bounds the lines. Data that fail their check are a fault (log 20). -/
def Mach.feRead (mem : Memory) (m : Mach) (num va n : Nat) : Nat → Fe (List Byte)
  | 0 => .ok [] m
  | k + 1 =>
    if n = 0 then .ok [] m
    else
      let j := min n (128 - va % 128)
      (m.feXlat mem num va .load).bind fun pa m =>
        match m.reach noPart pa with
        | .held => .held pa
        | .fault _ => .fault
        | .ok =>
          let (b, bad, m) := m.devRead mem noPart pa j
          if bad then .fault else (m.feRead mem num (va + j) (n - j) k).bind fun r m => .ok (b ++ r) m
/-- Write bytes, line by line; `k` bounds the lines. -/
def Mach.feWrite (mem : Memory) (m : Mach) (num va : Nat) (b : List Byte) (a : Access) : Nat → Fe Unit
  | 0 => .ok () m
  | k + 1 =>
    if b = [] then .ok () m
    else
      let j := min b.length (128 - va % 128)
      (m.feXlat mem num va a).bind fun pa m =>
        match m.reach noPart pa true with
        | .held => .held pa
        | .fault _ => .fault
        | .ok =>
          let (good, m) := m.devWrite mem noPart pa (b.take j)
          if good then m.feWrite mem num (va + j) (b.drop j) a k else .fault

/-! ## Queues and their state blocks (R201, R204) -/

/-- Queue `q`. -/
def Mach.queue (m : Mach) (q : Nat) : Queue := m.queues.get default q
/-- Change queue `q`. -/
def Mach.modQueue (m : Mach) (q : Nat) (f : Queue → Queue) : Mach := { m with queues := m.queues.set q (f (m.queue q)) }
/-- Change the packet of a queue with this index. -/
def Mach.modPacket (m : Mach) (q idx : Nat) (f : Packet → Packet) : Mach :=
  m.modQueue q (fun x => { x with packets := updateFirst (fun p => p.idx = idx) f x.packets })
/-- The functions that own a tenant (R239). -/
def Mach.funcsOf (m : Mach) (tenant : Nat) : List Nat :=
  (List.range 257).filter (fun f => wbit (m.reg (pciReg (4 * f))) 8 && m.regField (pciReg (4 * f)) 0 8 = tenant)
/-- Raise a host event at every function that owns the tenant (R232, R239). -/
def Mach.hostEvent (m : Mach) (tenant kind : Nat) (w2 w3 : Word) : Mach :=
  (m.funcsOf tenant).foldl (fun m f =>
    let x := m.funcs.get {} f
    { m with funcs := m.funcs.set f { x with events := x.events ++ [(kind, w2, w3)] } }) m
/-- The 32 bytes of the QSB (R204). -/
def Queue.qsbBytes (x : Queue) : List Byte :=
  wordsBytes [word x.ridx, word x.cidx, word x.seq, word ((if x.halt then 1 else 0) + 256 * x.err), word x.errIdx, word x.errSeq,
    word x.stateSeq, word x.mustate]
/-- Write the QSB (R204): STATESEQ rises. Until a doorbell has read QSBVA the queue has none to write (log 20), nor has the package's own steal
queue, 1024 (R212; log 20). -/
def Mach.qsbPut (mem : Memory) (m : Mach) (q : Nat) : Fe Unit :=
  if q ≥ 1024 ∨ !(m.queue q).known then .ok () m else
  let m := m.modQueue q (fun x => { x with stateSeq := (x.stateSeq + 1) % 2 ^ 32 })
  let x := m.queue q
  m.feWrite mem x.shadow.ctx x.qsb x.qsbBytes .store 2
/-- Write the QSB; one that faults halts the queue at its next packet, which only the front-end then knows (R200; log 20). -/
def Mach.qsbWrite (mem : Memory) (m : Mach) (q : Nat) : Fe Unit :=
  match m.qsbPut mem q with
  | .fault =>
    let m := m.modQueue q (fun x => { x with stateSeq := (x.stateSeq + 1) % 2 ^ 32 })
    let x := m.queue q
    if x.halt then .ok () m
    else
      let seq := (x.seq + 1) % 2 ^ 32
      .ok () ((m.modQueue q (fun x => { x with halt := true, err := 7, errIdx := x.ridx % 2 ^ x.l, errSeq := seq })).hostEvent
        x.shadow.tenant 1 (word q) (word seq))
  | r => r
/-- Halt a queue at a packet (R207, R232). A queue that has halted already keeps its first error, and the packet waits too (log 20). -/
def Mach.haltAt (mem : Memory) (m : Mach) (q err idx seq : Nat) : Fe Unit :=
  let was := (m.queue q).halt
  let f : Packet → Packet := fun p => { p with halted := true, again := false }
  let m := m.modQueue q (fun x => { x with packets := updateFirst (fun p => p.idx = idx) f x.packets })
  if was then .ok () m
  else
    let m := m.modQueue q (fun x => { x with halt := true, err, errIdx := idx % 2 ^ x.l, errSeq := seq % 2 ^ 32 })
    (m.hostEvent (m.queue q).shadow.tenant 1 (word q) (word seq)).qsbWrite mem q
/-- Halt a queue at its next packet, whose SEQ may not have been read (log 20). -/
def Mach.haltNext (mem : Memory) (m : Mach) (q err : Nat) : Fe Unit :=
  m.haltAt mem q err (m.queue q).ridx ((m.queue q).seq + 1)
/-- The end of a front-end's move: a fault halts the queue with error 0x07 at the packet (R200, R207); a wait leaves all as it was
and tries again in the next cycle. -/
def Mach.feEnd (mem : Memory) (m : Mach) (q idx seq : Nat) (r : Fe Unit) : Mach :=
  let again (m : Mach) : Mach := m.modQueue q (fun x => { x with due := m.now + 1 })
  match r with
  | .ok _ m => m
  | .held pa => again (m.hotWait pa)
  | .fault => match m.haltAt mem q 7 idx seq with | .ok _ m => m | .held pa => again (m.hotWait pa) | .fault => again m

/-! ## Doorbells (R202, R205) -/

/-- Reread the QCB (R202): BASE and L take effect while RIDX = WIDX, and the old ring stays where they are not legal (log 20). -/
def Mach.reread (mem : Memory) (m : Mach) (q : Nat) : Fe Unit :=
  let x := m.queue q
  (m.feXlat mem x.shadow.ctx x.qcb .load).bind fun pa m =>
    (m.feRead mem x.shadow.ctx x.qcb 64 2).bind fun b m =>
      let base := natAt b 0 8
      let l := natAt b 8 4
      let take : Bool := x.ridx = x.widx && 4 ≤ l && l ≤ 16 && base % 64 = 0
      .ok () (m.modQueue q (fun x => { x with
        qcbPa := some pa, known := true, base := if take then base else x.base, l := if take then l else x.l, widx := natAt b 0xC 4,
        qsb := natAt b 0x10 8, rung := false }))
/-- The steward creates a queue: it names the QCB and loads the privileged fields (R200). A QCB that does not translate halts it. -/
def createQueue (q qcb : Nat) (fields : Shadow) : Act := fun mem m =>
  if q ≥ 1024 ∨ (m.queues.get? q).isSome then m
  else
    let m := { m with queues := m.queues.set q { qcb, steward := fields, shadow := fields } }
    match m.feXlat mem fields.ctx qcb .load with
    | .ok pa m => m.modQueue q (fun x => { x with qcbPa := some pa })
    | .held _ => m
    | .fault => m.feEnd mem q 0 1 .fault
/-- The steward changes its copy of the shadowed fields: the change takes effect at the next packet start (R202). -/
def Mach.loadShadow (m : Mach) (q : Nat) (fields : Shadow) : Mach :=
  if (m.queues.get? q).isNone then m else m.modQueue q (fun x => { x with steward := fields })
/-- A doorbell is served (R205). A QCB that faults halts the queue, and the doorbell is gone (R200). -/
def Mach.serveRing (mem : Memory) (m : Mach) (q : Nat) : Mach :=
  let x := m.queue q
  match m.reread mem q with
  | .fault => m.feEnd mem q x.ridx (x.seq + 1)
      ((m.haltAt mem q 7 x.ridx (x.seq + 1)).bind fun _ m => .ok () (m.modQueue q (fun x => { x with rung := false })))
  | r => m.feEnd mem q x.ridx (x.seq + 1) r
/-- A RING doorbell (R205). -/
def Mach.ring (mem : Memory) (m : Mach) (q : Nat) : Mach :=
  if (m.queues.get? q).isNone then m else (m.modQueue q (fun x => { x with rung := true })).serveRing mem q
/-- QDB_RING (R205). -/
def execQdbRing (queue : Nat) (s : State) := lift (fun mem m => m.ring mem queue) s
/-- RESUME (R205): HALT clears, and a packet that had started and halted the queue is read again. -/
def Mach.resumeQueue (mem : Memory) (m : Mach) (q : Nat) : Mach :=
  let x := m.queue q
  if (m.queues.get? q).isNone ∨ (!x.halt && !x.packets.any (·.halted)) then m
  else
    let reopen : Packet → Packet := fun p => { p with again := p.halted }
    let m := m.modQueue q (fun x => { x with halt := false, packets := x.packets.map reopen })
    m.feEnd mem q x.ridx (x.seq + 1) (m.qsbWrite mem q)
/-- QDB_RESUME (R205). -/
def execQdbResume (queue : Nat) (s : State) := lift (fun mem m => m.resumeQueue mem queue) s

/-! ## The check of a packet (R206 to R209, R218) -/

/-- The error of the first condition that holds, 0 for none. -/
def firstErr : List (Bool × Nat) → Nat
  | [] => 0
  | (c, e) :: r => if c then e else firstErr r
/-- Every byte of [lo, 64) is 0. -/
def tailZero (b : List Byte) (lo : Nat) : Bool := (b.drop lo).all (· == 0)
/-- The header, but for its SEQ (R206). -/
def headErr (b : List Byte) : Nat :=
  let op := natAt b 0 1
  firstErr [
    (op = 0 ∨ op > 8, 1),
    (natAt b 1 1 ≥ 2 ∨ natAt b 3 1 ≠ 0 ∨ (natAt b 2 1 ≠ 0 ∧ op ≠ 5 ∧ op ≠ 7), 2)]
/-- The context of a queue does not serve a launch (R203). -/
def Mach.contextBad (mem : Memory) (m : Mach) (x : Shadow) : Bool :=
  let (d, _) := m.descriptor mem x.ctx
  !(natAt d 0x1C 4).testBit 0 ||
  m.hams.any (fun e => e.2.ctxs.any (fun c => c.2.num = x.ctx &&
    (c.2.tenant ≠ x.tenant || c.2.occ ≠ x.occ || m.regField (hamReg e.1 (0x310 + 4 * c.1)) 0 8 ≠ max (x.weight % 256) 1)))
/-- A LAUNCH body (R209, R80). -/
def Mach.launchErr (mem : Memory) (m : Mach) (x : Shadow) (b : List Byte) : Nat :=
  let w28 := natAt b 0x28 4
  let w2c := natAt b 0x2C 4
  let part := natAt b 0x34 4
  let lease := bits w2c 16 12
  let carve := bits w28 16 10
  firstErr [
    (natAt b 0x27 1 ≠ 0 ∨ bits w28 11 5 ≠ 0 ∨ bits w28 26 6 ≠ 0 ∨ bits w2c 13 3 ≠ 0 ∨ bits w2c 29 3 ≠ 0 ∨
      word (natAt b 0x30 4) &&& ~~~(0x00011F07 : Word) ≠ 0 ∨ part ≥ 64 ∨ !tailZero b 0x38, 2),
    (natAt b 8 8 % 12 ≠ 0 ∨ natAt b 0x10 8 % 64 ≠ 0 ∨ natAt b 0x18 8 % 128 ≠ 0 ∨ natAt b 0x20 2 = 0 ∨ natAt b 0x22 2 = 0 ∨
      natAt b 0x24 2 = 0 ∨ natAt b 0x26 1 = 0 ∨ natAt b 0x26 1 > 16 ∨ bits w28 0 11 = 0 ∨ bits w28 0 11 > 1024 ∨
      bits w2c 0 13 > 4096 ∨ bits w2c 0 13 % 16 ≠ 0 ∨ (if w2c.testBit 28 then lease = 0 ∨ lease > 2496 else lease ≠ 0) ∨
      natAt b 0x30 4 % 8 > 4 ∨ part > 39, 3),
    (carve > 256 ∨ carve % 16 ≠ 0, 4),
    (m.parishesOf part = [] ∨ !x.partmask.testBit part ∨ m.contextBad mem x, 5)]
/-- The bodies of the other packets, but for the packets that they name (R208, R218). -/
def bodyErr (x : Shadow) (b : List Byte) : Nat :=
  let parts := natAt b 2 1
  let part (i : Nat) := natAt b (8 + 8 * i) 8
  let named := (List.range (min parts 7)).map part
  let src := natAt b 8 8
  let dst := natAt b 0x10 8
  let n := natAt b 0x18 4
  match natAt b 0 1 with
  | 2 => firstErr [
      (natAt b 0x1D 1 ≠ 0 ∨ !tailZero b 0x20, 2),
      (src % 64 ≠ 0 ∨ natAt b 0x1C 1 < 4 ∨ natAt b 0x1C 1 > 128 ∨ natAt b 0x1C 1 % 4 ≠ 0 ∨ natAt b 0x1E 2 = 0, 3)]
  | 3 => firstErr [(natAt b 0x18 4 ≥ 4 ∨ !tailZero b 0x20, 2), (src % 8 ≠ 0, 3)]
  | 4 => firstErr [(natAt b 0x18 4 ≥ 2 ∨ !tailZero b 0x1C, 2), (src % 8 ≠ 0, 3)]
  | 5 => firstErr [
      (named.any (fun p => p ≥ 2 ^ 54) ∨ (parts ≤ 7 ∧ !tailZero b (8 + 8 * parts)), 2),
      (parts = 0 ∨ parts > 7 ∨ named.any (fun p => p % 64 ≠ 0) ∨ (dedup (named.map (fun p => bits p 48 6))).length ≠ named.length, 3),
      (!x.muster ∨ named.any (fun p => !x.partmask.testBit (bits p 48 6)), 5)]
  | 6 => firstErr [(!tailZero b 0x1C, 2), (n = 0 ∨ (src < dst + n ∧ dst < src + n), 3)]
  | 7 => firstErr [(!tailZero b 8, 2), (natAt b 2 1 ≠ 3 ∧ natAt b 2 1 ≠ 4, 3)]
  | 8 => firstErr [(!tailZero b 8, 2)]
  | _ => 0
/-- The argument block of a LAUNCH is readable. -/
def Mach.argsErr (mem : Memory) (m : Mach) (x : Shadow) (b : List Byte) : Fe Nat :=
  let e := m.launchErr mem x b
  if e ≠ 0 then .ok e m else (m.feRead mem x.ctx (natAt b 0x10 8) 128 3).bind fun _ m => .ok 0 m
/-- A LAUNCH packet that another packet names: a template or a muster's part (R208, R218). -/
def Mach.namedErr (mem : Memory) (m : Mach) (x : Shadow) (va : Nat) (part : Option Nat) : Fe Nat :=
  (m.feRead mem x.ctx va 64 2).bind fun b m =>
    if headErr b ≠ 0 then .ok (headErr b) m
    else if natAt b 0 1 ≠ 1 then .ok 3 m
    else if part.any (· ≠ natAt b 0x34 4) then .ok 3 m
    else m.argsErr mem x b
/-- The virtual address of a muster's part: 48 bits, sign-extended (R218). -/
def partVa (p : Nat) : Nat := let v := p % 2 ^ 48; if v < 2 ^ 47 then v else v + (2 ^ 64 - 2 ^ 48)
/-- The parts of a muster: partition and LAUNCH VA, in ascending partition (R218, R219). -/
def musterParts (b : List Byte) : List (Nat × Nat) :=
  sortBy (·.1) ((List.range (natAt b 2 1)).map (fun i => (bits (natAt b (8 + 8 * i) 8) 48 6, partVa (natAt b (8 + 8 * i) 8))))
/-- R207: the error of a packet, 0 for none. The order is header, SEQ, then the body by the table (log 20). -/
def Mach.packetErr (mem : Memory) (m : Mach) (x : Shadow) (seq : Nat) (b : List Byte) : Fe Nat :=
  let e := firstErr [(headErr b ≠ 0, headErr b), (word (natAt b 4 4) ≠ word (seq + 1), 6), (bodyErr x b ≠ 0, bodyErr x b)]
  if e ≠ 0 then .ok e m
  else match natAt b 0 1 with
    | 1 => m.argsErr mem x b
    | 2 => m.namedErr mem x (natAt b 8 8) none
    | 5 => (musterParts b).foldl (fun r p => r.bind fun e m => if e ≠ 0 then .ok e m else m.namedErr mem x p.2 (some p.1)) (.ok 0 m)
    | _ => .ok 0 m

/-! ## PACKET_START (R204, R206, R207) -/

/-- The front-end can act for the queue: a doorbell to serve, a halted packet to read again, or a packet to start. Nothing starts after a
WAITSEM that has not completed, since every later packet observes the writes before its signal (R210; log 20). -/
def Mach.startDue (m : Mach) (q : Nat) : Bool :=
  match m.queues.get? q with
  | some x =>
    x.due ≤ m.now && !x.rebuild && (x.rung || (!x.halt && x.packets.any (·.again)) ||
      (!x.halt && word x.ridx ≠ word x.widx && !x.packets.any (fun p => p.op = 3 && !p.done) && (!x.barred || x.cidx = x.ridx)))
  | none => false
/-- A packet of this body, with the shadowed fields that it starts with (R202). -/
def newPacket (idx : Nat) (b : List Byte) (sh : Shadow) : Packet :=
  { idx, seq := natAt b 4 4, op := natAt b 0 1, body := b, tenant := sh.tenant, weight := sh.weight, occ := sh.occ,
    partmask := sh.partmask, ctx := sh.ctx }
/-- The shadowed fields that a packet started with. -/
def Packet.fields (p : Packet) (sh : Shadow) : Shadow :=
  { sh with tenant := p.tenant, weight := p.weight, occ := p.occ, partmask := p.partmask, ctx := p.ctx }
/-- A packet that has halted its queue is read again from the ring and checked; it then runs from its beginning (R205, R207). -/
def Mach.reopen (mem : Memory) (m : Mach) (q : Nat) (p : Packet) : Mach :=
  let x := m.queue q
  let sh := p.fields x.shadow
  m.feEnd mem q p.idx p.seq
    ((m.feRead mem sh.ctx (x.base + 64 * (p.idx % 2 ^ x.l)) 64 2).bind fun b m =>
      match m.packetErr mem sh (p.seq + 2 ^ 32 - 1) b with
      | .held pa => .held pa
      | .fault => m.haltAt mem q 7 p.idx (natAt b 4 4)
      | .ok e m => if e ≠ 0 then m.haltAt mem q e p.idx (natAt b 4 4) else .ok () (m.modPacket q p.idx (fun p => newPacket p.idx b sh)))
/-- PACKET_START: fetch the next packet under the steward's copy, check it, and accept it: RIDX and SEQ advance with it. -/
def packetStart (q : Nat) : Act := fun mem m =>
  let x := m.queue q
  let start : Mach :=
    let sh := x.steward
    let m := m.modQueue q (fun x => { x with shadow := sh, barred := false })
    m.feEnd mem q x.ridx (x.seq + 1)
      ((m.feRead mem sh.ctx (x.base + 64 * (x.ridx % 2 ^ x.l)) 64 2).bind fun b m =>
        let op := natAt b 0 1
        let bar : Bool := natAt b 1 1 % 2 = 1 || op = 3 || op = 4 || op = 7 || op = 8
        if bar && x.cidx ≠ x.ridx then .ok () (m.modQueue q (fun x => { x with barred := true }))
        else match m.packetErr mem sh x.seq b with
          | .held pa => .held pa
          | .fault => m.haltAt mem q 7 x.ridx (natAt b 4 4)
          | .ok e m =>
            if e ≠ 0 then m.haltAt mem q e x.ridx (natAt b 4 4)
            else
              let p := newPacket x.ridx b sh
              (m.modQueue q (fun x => { x with
                ridx := (x.ridx + 1) % 2 ^ 32, seq := p.seq, packets := x.packets ++ [p] })).qsbWrite mem q)
  if !m.startDue q then m
  else if x.rung then m.serveRing mem q
  else match if x.halt then none else x.packets.find? (·.again) with
    | some p => m.reopen mem q p
    | none => start
/-- PACKET_START. -/
def execPacketStart (queue : Nat) (s : State) := lift (packetStart queue) s

/-! ## The moves of the packets (R208 to R211) -/

/-- The first packet of a queue with this opcode that has started and not yet acted. -/
def Mach.opening (m : Mach) (q op : Nat) : Option Packet :=
  match m.queues.get? q with
  | some x => if x.due > m.now then none else x.packets.find? (fun p => p.op = op && !p.begun && !p.done && !p.halted)
  | none => none
/-- The launch of a LAUNCH packet's body with its argument words (R209). -/
def launchOf (q : Nat) (p : Packet) (b : List Byte) (args : List Byte) (card : Option Nat) (held : Bool) : Launch :=
  let w28 := natAt b 0x28 4
  let w2c := natAt b 0x2C 4
  { queue := q, ctx := p.ctx, tenant := p.tenant, weight := p.weight, occ := p.occ, entry := natAt b 8 8 % 2 ^ 48,
    args := (List.range 32).map (fun i => wordAt args (4 * i)), spillBase := natAt b 0x18 8 % 2 ^ 48,
    gx := natAt b 0x20 2, gy := natAt b 0x22 2, gz := natAt b 0x24 2, clb := natAt b 0x26 1, lanes := bits w28 0 11,
    carve := bits w28 16 10 * 1024, spill := bits w2c 0 13, lease := bits w2c 16 12, decl := w2c.testBit 28,
    fpmode := word (natAt b 0x30 4), part := natAt b 0x34 4 % 64, card, heldStart := held }
/-- Read a LAUNCH packet's arguments and create its launch; it answers the launch's number. -/
def Mach.addLaunch (mem : Memory) (m : Mach) (q : Nat) (p : Packet) (b : List Byte) (card : Option Nat) (held : Bool) : Fe Nat :=
  (m.feRead mem p.ctx (natAt b 0x10 8) 128 3).bind fun args m =>
    let (id, m) := m.fresh
    .ok id { m with launches := m.launches.set id { launchOf q p b args card held with began := m.now } }
/-- LAUNCH (R208, R209). -/
def execLaunch (queue : Nat) (s : State) :=
  lift (fun mem m =>
    match m.opening queue 1 with
    | none => m
    | some p =>
      m.feEnd mem queue p.idx p.seq ((m.addLaunch mem queue p p.body none false).bind fun id m =>
        .ok () (m.modPacket queue p.idx (fun p => { p with begun := true, launches := [id] })))) s
/-- BATCH (R208, R211): the job card and the launch of its template. -/
def execBatch (queue : Nat) (s : State) :=
  lift (fun mem m =>
    match m.opening queue 2 with
    | none => m
    | some p =>
      m.feEnd mem queue p.idx p.seq ((m.feRead mem p.ctx (natAt p.body 8 8) 64 2).bind fun b m =>
        let (id, m) := m.fresh
        (m.addLaunch mem queue p b (some id) false).bind fun l m =>
          let n := natAt p.body 0x18 4
          let c : Card :=
            { queue, launch := l, records := n, recBytes := natAt p.body 0x1C 1, minchunk := natAt p.body 0x1E 2, next := 0, stop := n,
              array := natAt p.body 0x10 8, packet := p.idx }
          .ok () ({ m with cards := m.cards.set id c }.modPacket queue p.idx (fun p =>
            { p with begun := true, launches := [l], card := some id })))) s

/-- R210: the comparison of WAITSEM. -/
def semHolds (op a b : Nat) : Bool :=
  match op with
  | 0 => a = b
  | 1 => a ≠ b
  | 2 => a ≥ b
  | _ => a < b
/-- The wait after the k-th false poll, in front-end cycles (R210). -/
def pollWait (k : Nat) : Nat := min (64 * 2 ^ (min k 11 - 1)) 65536
/-- One poll of a WAITSEM (R210). -/
def Mach.poll (mem : Memory) (m : Mach) (q : Nat) (p : Packet) : Mach :=
  m.feEnd mem q p.idx p.seq ((m.feRead mem p.ctx (natAt p.body 8 8) 8 1).bind fun b m =>
    let m := m.modPacket q p.idx (fun p => { p with begun := true })
    if semHolds (natAt p.body 0x18 1 % 4) (leNat b) (natAt p.body 0x10 8) then .ok () (m.finish q p.idx)
    else
      let k := p.polls + 1
      let m := m.modPacket q p.idx (fun p => { p with polls := k, next := m.now + feCycles (pollWait k) })
      if natAt p.body 0x1C 4 = k then m.haltAt mem q 8 p.idx p.seq else .ok () m)
/-- WAITSEM (R208, R210): the first poll. -/
def execWaitsem (queue : Nat) (s : State) :=
  lift (fun mem m => match m.opening queue 3 with | some p => m.poll mem queue p | none => m) s
/-- The WAITSEM of a queue that polls again now. -/
def Mach.pollDue (m : Mach) (q : Nat) : Option Packet :=
  match m.queues.get? q with
  | some x => if x.due > m.now then none else x.packets.find? (fun p => p.op = 3 && p.begun && !p.done && !p.halted && p.next ≤ m.now)
  | none => none
/-- WAITSEM_POLL (R210). -/
def execWaitsemPoll (queue : Nat) (s : State) :=
  lift (fun mem m => match m.pollDue queue with | some p => m.poll mem queue p | none => m) s

/-- SIGNAL (R208): a write or an addition at SYS scope. -/
def execSignal (queue : Nat) (s : State) :=
  lift (fun mem m =>
    match m.opening queue 4 with
    | none => m
    | some p =>
      let va := natAt p.body 8 8
      let v := natAt p.body 0x10 8
      m.feEnd mem queue p.idx p.seq ((m.feRead mem p.ctx va 8 1).bind fun b m =>
        let new := if natAt p.body 0x18 1 % 2 = 1 then (leNat b + v) % 2 ^ 64 else v
        (m.feWrite mem p.ctx va (leBytes 8 new) .amo 1).bind fun _ m =>
          .ok () ((m.modPacket queue p.idx (fun p => { p with begun := true })).finish queue p.idx))) s

/-- The COPYQ of a queue that copies now. -/
def Mach.copyDue (m : Mach) (q : Nat) : Option Packet :=
  match m.queues.get? q with
  | some x =>
    if x.due > m.now then none
    else x.packets.find? (fun p => p.op = 6 && !p.done && !p.halted && (match p.retry with | some t => t ≤ m.now | none => true))
  | none => none
/-- COPYQ (R208): the next bytes in ascending order; how many go at a time, and when, is open (log 20). -/
def execCopyq (queue : Nat) (s : State) :=
  lift (fun mem m =>
    match m.copyDue queue with
    | none => m
    | some p =>
      let n := natAt p.body 0x18 4
      let j := min 128 (n - p.next)
      m.feEnd mem queue p.idx p.seq ((m.feRead mem p.ctx (natAt p.body 8 8 + p.next) j 2).bind fun b m =>
        (m.feWrite mem p.ctx (natAt p.body 0x10 8 + p.next) b .store 2).bind fun _ m =>
          let m := m.modPacket queue p.idx (fun p =>
            { p with begun := true, next := p.next + j, retry := some (m.now + feCycles 1) })
          .ok () (if p.next + j ≥ n then m.finish queue p.idx else m))) s

/-- FENCEQ (R208, R169): a FENCE.SC, which takes a ticket in sequencer mode; it completes at once. -/
def execFenceq (queue : Nat) (s : State) :=
  lift (fun _ m =>
    match m.opening queue 7 with
    | none => m
    | some p => (m.ticket.modPacket queue p.idx (fun p => { p with begun := true })).finish queue p.idx) s
/-- QMARK (R208, R232): the QSB is written with its SEQ, and the host is told; where the QSB faults, the packet halts its queue (R200). -/
def execQmark (queue : Nat) (s : State) :=
  lift (fun mem m =>
    match m.opening queue 8 with
    | none => m
    | some p =>
      m.feEnd mem queue p.idx p.seq ((m.qsbPut mem queue).bind fun _ m =>
        .ok () (((m.modPacket queue p.idx (fun p => { p with begun := true })).hostEvent p.tenant 2 (word queue) (word p.seq)).finish
          queue p.idx))) s

/-! ## PACKET_COMPLETE (R204, R220) -/

/-- Completions of a queue wait in the completion queue. -/
def Mach.completeDue (m : Mach) (q : Nat) : Bool := (m.queue q).due ≤ m.now && !(m.queue q).rebuild && m.cqueue.any (fun e => e.1 = q)
/-- The completions of a queue are drained: CIDX passes every leading packet that is done (R204). -/
def Mach.drainDone (mem : Memory) (m : Mach) (q : Nat) : Mach :=
  let x := m.queue q
  let isOver := x.packets.takeWhile (·.done)
  let drop (l : SMap Launch) : SMap Launch := l.filter (fun e => !isOver.any (fun p => p.launches.contains e.1))
  let cards := m.cards.filter (fun e => !isOver.any (fun p => p.card = some e.1))
  let m' : Mach := { m with cqueue := m.cqueue.filter (fun e => e.1 ≠ q), launches := drop m.launches, cards }
  let mustate := if isOver.any (fun p => p.op = 5) && !x.packets.any (fun p => p.op = 5 && p.begun && !p.done) then 0 else x.mustate
  let m' := m'.modQueue q (fun x => { x with
    cidx := (x.cidx + isOver.length) % 2 ^ 32, packets := x.packets.drop isOver.length, mustate })
  if isOver = [] then m'
  else match m'.qsbWrite mem q with
    | .ok _ m => m
    | _ => m.modQueue q (fun x => { x with due := m.now + 1 })
/-- PACKET_COMPLETE. -/
def execPacketComplete (queue : Nat) (s : State) :=
  lift (fun mem m => if m.completeDue queue then m.drainDone mem queue else m) s

end Sys2Proof.Machine
end

