-- ==== Sys2Proof/Machine/Muster.lean ====
section
/-! DEFINITION. Musters: reservation in ascending partition order, commit and start tokens, rollback and retry (R218, R219), and the
watchdogs of the front-end cores (R220). -/
namespace Sys2Proof.Machine

/-! ## Room for a whole part -/

/-- The most clusters of `n` blocks on distinct hamlets whose room is given. -/
def clusterRoom (n : Nat) (caps : List Nat) : Nat :=
  let total (k : Nat) := caps.foldl (fun t c => t + min c k) 0
  (List.range 1025).foldl (fun best k => if total k ≥ k * n then max best k else best) 0
/-- Every block of a launch can be placed at once (R219). -/
def Mach.allFit (m : Mach) (l : Launch) : Bool :=
  (m.parishesOf l.part).foldl (fun t p => t + clusterRoom l.clb ((hamsOf p).map (fun h => m.roomFor h l))) 0 ≥ l.clusters
/-- A part that no partition of this size can hold (R219). -/
def Mach.neverFits (m : Mach) (l : Launch) : Bool :=
  let cap := min (64 / l.warps) (if l.pairs = 0 then 64 else 16 / l.pairs)
  (m.parishesOf l.part).length * clusterRoom l.clb (List.replicate 16 cap) < l.clusters
/-- The hamlets with most room among those of a parish. -/
def Mach.roomiest (m : Mach) (p : Nat) (l : Launch) : List Nat :=
  (sortBy (fun h => 64 - m.roomFor h l) (m.placeable p l)).take l.clb
/-- Place every cluster of a launch now (R219). -/
def Mach.placeAll (mem : Memory) (m : Mach) (id : Nat) : Mach :=
  (List.range (m.launches.get default id).clusters).foldl (fun m _ =>
    let l := m.launches.get default id
    let (p, m) := m.pick (m.parishRoom l) 0
    m.placeOn mem id l (m.roomiest p l)) m

/-! ## MUSTER, MUSTER_RESERVE_GRANT, MUSTER_START_TOKEN, MUSTER_RETRY (R219) -/

/-- The muster of a queue that has begun and not completed. -/
def Mach.mustering (m : Mach) (q : Nat) : Option Packet :=
  match m.queues.get? q with
  | some x => x.packets.find? (fun p => p.op = 5 && p.begun && !p.done)
  | none => none
/-- Each part of a muster with its launch. -/
def Packet.partLaunches (p : Packet) : List (Nat × Nat) := (p.parts.map (·.1)).zip p.launches
/-- The blocks of a launch leave the hamlets. -/
def Mach.unplace (m : Mach) (id : Nat) : Mach :=
  let m := m.hams.foldl (fun m e =>
    (e.2.blocks.filter (fun b => b.2.launch = id)).foldl (fun m b => m.dropBlock e.1 b.1) m) m
  match m.launches.get? id with
  | some l => { m with launches := m.launches.set id { l with placed := 0 } }
  | none => m
/-- MUSTER_ROLLBACK (R219): every reservation is released; the eighth failure halts the queue. -/
def Mach.rollback (mem : Memory) (m : Mach) (q : Nat) (p : Packet) : Fe Unit :=
  let m : Mach := { p.launches.foldl Mach.unplace m with reservations := m.reservations.filter (fun r => r.2 ≠ q) }
  let m := m.modPacket q p.idx (fun p => { p with fails := p.fails + 1, retry := some (m.now + feCycles 65536) })
  let m := m.modQueue q (fun x => { x with mustate := 0 })
  if p.fails + 1 ≥ 8 then
    { m with launches := m.launches.filter (fun e => !p.launches.contains e.1) }.haltAt mem q 9 p.idx p.seq
  else m.qsbWrite mem q
/-- The reserving of a muster begins: MUSTATE is 1, and a part that can never fit rolls it back. -/
def Mach.reserving (mem : Memory) (m : Mach) (q : Nat) (p : Packet) : Fe Unit :=
  let m := m.modPacket q p.idx (fun p => { p with retry := none })
  ((m.modQueue q (fun x => { x with mustate := 1 })).qsbWrite mem q).bind fun _ m =>
    if p.launches.any (fun id => m.neverFits (m.launches.get default id)) then m.rollback mem q p else .ok () m
/-- The muster of a queue that begins now: musters of one queue follow one another (log 20). -/
def Mach.musterDue (m : Mach) (q : Nat) : Option Packet := if (m.mustering q).isSome then none else m.opening q 5
/-- The launches of a muster's parts, in their order. -/
def Mach.addParts (mem : Memory) (m : Mach) (q : Nat) (p : Packet) : List (Nat × Nat) → Fe (List Nat)
  | [] => .ok [] m
  | e :: r =>
    (m.feRead mem p.ctx e.2 64 2).bind fun b m =>
      (m.addLaunch mem q p b none true).bind fun id m =>
        (m.addParts mem q p r).bind fun ids m => .ok (id :: ids) m
/-- MUSTER (R218, R219). -/
def execMuster (queue : Nat) (s : State) :=
  lift (fun mem m =>
    match m.musterDue queue with
    | none => m
    | some p =>
      let parts := musterParts p.body
      m.feEnd mem queue p.idx p.seq
        ((m.addParts mem queue p parts).bind fun ids m =>
          let m := m.modPacket queue p.idx (fun p => { p with begun := true, parts, launches := ids })
          m.reserving mem queue { p with begun := true, parts, launches := ids })) s
/-- The next part that a muster reserves: its packet, its partition and its launch. -/
def Mach.nextPart (m : Mach) (q : Nat) : Option (Packet × Nat × Nat) :=
  let x := m.queue q
  match m.mustering q with
  | some p =>
    if p.halted ∨ x.mustate ≠ 1 ∨ p.retry.isSome ∨ x.due > m.now then none
    else (p.partLaunches.find? (fun e => m.reservations.get? e.1 ≠ some q)).map (fun e => (p, e.1, e.2))
  | none => none
/-- The partition that grants a reservation to a queue's muster, or turns it away for good, now. -/
def Mach.grantDue (m : Mach) (q : Nat) : Option Nat :=
  match m.nextPart q with
  | some (_, part, id) =>
    let l := m.launches.get default id
    if (m.reservations.get? part).isNone && !m.placementStopped l.ctx && (m.allFit l || m.neverFits l) then some part else none
  | none => none
/-- A muster's start tokens, one for each part, at a cycle and up to `spread` cycles later. -/
def Mach.sendTokens (m : Mach) (q : Nat) (p : Packet) (t spread : Nat) : Mach :=
  p.partLaunches.foldl (fun m e =>
    let (d, m) := m.freeBelow (spread + 1)
    { m with tokens := m.tokens ++ [{ queue := q, part := e.1, launch := e.2, due := t + d }] }) m
/-- MUSTER_COMMIT (R219): MUSTATE is 2, the reservations end, and then the start tokens are sent; when they arrive is open within 4,096 cycles
(log 4). -/
def Mach.commitMuster (mem : Memory) (m : Mach) (q : Nat) (p : Packet) : Fe Unit :=
  ((m.modQueue q (fun x => { x with mustate := 2 })).qsbWrite mem q).bind fun _ m =>
    let (t, m) := m.someTime (m.now + 1)
    .ok () (({ m with reservations := m.reservations.filter (fun r => r.2 ≠ q) }).sendTokens q p t 4096)
/-- MUSTER_RESERVE_GRANT (R219). -/
def execMusterReserveGrant (queue part : Nat) (s : State) :=
  lift (fun mem m =>
    match m.nextPart queue with
    | none => m
    | some (p, part', id) =>
      if part' ≠ part ∨ m.grantDue queue ≠ some part then m
      else if m.neverFits (m.launches.get default id) then m.feEnd mem queue p.idx p.seq (m.rollback mem queue p)
      else
        let m' : Mach := { m.placeAll mem id with reservations := m.reservations.set part queue }
        if p.parts.all (fun e => m'.reservations.get? e.1 = some queue) then m.feEnd mem queue p.idx p.seq (m'.commitMuster mem queue p)
        else m') s
/-- The first start token of a part of a queue's muster that has come. -/
def Mach.tokenDue (m : Mach) (q part : Nat) : Option StartToken := m.tokens.find? (fun t => t.queue = q && t.part = part && t.due ≤ m.now)
/-- MUSTER_START_TOKEN (R219): the part's blocks start; the token of a part that has started, or whose launch is gone, is ignored (R220). -/
def execMusterStartToken (queue part : Nat) (s : State) :=
  lift (fun _ m =>
    match m.tokenDue queue part with
    | none => m
    | some t =>
      let m : Mach := { m with tokens := dropFirst (fun x => x = t) m.tokens }
      match m.launches.get? t.launch with
      | some x => if x.heldStart then { m with launches := m.launches.set t.launch { x with heldStart := false, began := m.now } } else m
      | none => m) s
/-- The muster of a queue tries again now. -/
def Mach.retryDue (m : Mach) (q : Nat) : Option Packet :=
  let x := m.queue q
  match m.mustering q with
  | some p => if p.halted ∨ x.due > m.now then none else if p.retry.any (· ≤ m.now) then some p else none
  | none => none
/-- MUSTER_RETRY (R219). -/
def execMusterRetry (queue : Nat) (s : State) :=
  lift (fun mem m =>
    match m.retryDue queue with
    | none => m
    | some p => m.feEnd mem queue p.idx p.seq (m.reserving mem queue p)) s

/-! ## Watchdogs (R220) -/

/-- The queues that a front-end core serves (R200). -/
def Mach.servedBy (m : Mach) (core : Nat) : List Nat :=
  (m.queues.map (·.1)).filter (fun q => q / 256 = core / 4 && q % 4 = core % 4)
/-- The tables of a queue are rebuilt (R220): its QSB, if one has been written, is read back; the completion queue is drained; a muster rolls
back, or sends its tokens again. -/
def Mach.rebuildQueue (mem : Memory) (m : Mach) (q : Nat) : Mach :=
  let x := m.queue q
  let qsb : Fe Unit :=
    if x.stateSeq = 0 ∨ q ≥ 1024 then .ok () m
    else (m.feRead mem x.shadow.ctx x.qsb 32 2).bind fun b m =>
      .ok () (m.modQueue q (fun x => { x with
        ridx := natAt b 0 4, cidx := natAt b 4 4, seq := natAt b 8 4, halt := (natAt b 0xC 4).testBit 0, err := natAt b 0xD 1,
        errIdx := natAt b 0x10 4, errSeq := natAt b 0x14 4, stateSeq := natAt b 0x18 4, mustate := natAt b 0x1C 4 % 4 }))
  match qsb with
  | .held pa => (m.hotWait pa).modQueue q (fun x => { x with due := m.now + 1 })
  | .fault => (m.modQueue q (fun x => { x with rebuild := false })).feEnd mem q x.ridx (x.seq + 1) .fault
  | .ok _ m =>
    let m := (m.modQueue q (fun x => { x with rebuild := false })).drainDone mem q
    match m.mustering q with
    | none => m
    | some p =>
      if (m.queue q).mustate = 1 then m.feEnd mem q p.idx p.seq (m.rollback mem q p)
      else if (m.queue q).mustate = 2 then
        let (t, m) := m.someTime (m.now + 1)
        m.sendTokens q p t 0
      else m
/-- A hart begins again where it was released (R220); when its first instruction comes is open (log 4). -/
def Mach.restartHart (m : Mach) (c : Nat) : Mach :=
  match m.cpus.get? c with
  | some x => let (t, m) := m.someTime (m.now + 1); { m with cpus := m.cpus.set c (Cpu.released c x.start t) }
  | none => m
/-- A core restarts (R220): its hart begins again, the shadowed fields of its queues come again from the steward's copy, and their tables are rebuilt. -/
def Mach.restartCore (mem : Memory) (m : Mach) (core : Nat) : Mach :=
  let reg := cpqReg (core / 4) (0x200 + 4 * (core % 4))
  let m := m.setField reg 24 8 (min 255 (m.regField reg 24 8 + 1))
  let m : Mach := { m with kicks := m.kicks.set core m.now }
  let m := m.restartHart (640 + core)
  (m.servedBy core).foldl (fun m q =>
    (m.modQueue q (fun x => { x with shadow := x.steward, rebuild := true })).rebuildQueue mem q) m
/-- A kick of a watchdog (R205, R220): an early kick restarts the core. Cores are numbered 4 * die + n. -/
def Mach.kick (mem : Memory) (m : Mach) (core : Nat) : Mach :=
  match m.kicks.get? core with
  | some t => if m.now < t + feCycles (2 ^ 16) then m.restartCore mem core else { m with kicks := m.kicks.set core m.now }
  | none => { m with kicks := m.kicks.set core m.now }
/-- WDOG_KICK. -/
def execWdogKick (core : Nat) (s : State) := lift (fun mem m => m.kick mem core) s
/-- A core has not kicked for 2^22 front-end cycles. -/
def Mach.timedOut (m : Mach) (core : Nat) : Bool :=
  match m.kicks.get? core with | some t => t + feCycles (2 ^ 22) < m.now | none => false
/-- The queues of a core whose tables are rebuilt now, after a wait. -/
def Mach.rebuildDue (m : Mach) (core : Nat) : List Nat :=
  (m.servedBy core).filter (fun q => (m.queue q).rebuild && (m.queue q).due ≤ m.now)
/-- A core restarts, or goes on rebuilding its tables. -/
def Mach.watchdogDue (m : Mach) (core : Nat) : Bool := m.timedOut core || m.rebuildDue core ≠ []
/-- WATCHDOG_RESTART (R220). -/
def execWatchdogRestart (core : Nat) (s : State) :=
  lift (fun mem m =>
    if m.timedOut core then m.restartCore mem core else (m.rebuildDue core).foldl (fun m q => m.rebuildQueue mem q) m) s

end Sys2Proof.Machine
end

