-- ==== Sys2Proof/Machine/Task.lean ====
section
/-! DEFINITION. Job cards and enqueues: TASKGET, TASKEND, ENQ and their arrival at a front-end (R211, R213, R277, R330, R331, R390), and
the load token of a pod (R212). -/
namespace Sys2Proof.Machine

/-! ## TASKGET and TASKEND (R211, R390) -/

/-- TASKGET (R211, R277, R390). When the request reaches its dealer is open (log 4). -/
def execTaskget (_ : Hdr) (sr : BitVec 8) (z : BitVec 1) (s : State) :=
  lift (fun _ m =>
    let d := sr.toNat
    if m.activeAll z.toNat = 0 then m
    else match m.cardOf m.cb with
      | none => (m.varPend .s [d, d + 1] 0 [(d, 0), (d + 1, 0)] (some (m.landIn 4))).2
      | some _ =>
        let (pend, m) := m.varPend .s [d, d + 1] 0 [] none
        let (id, m) := m.fresh
        let (due, m) := m.someTime (m.now + 1)
        { m with tasks := insertBy (·.due) { id, ham := m.cur.ham, warp := m.cur.warp, block := m.cw.block, pend, enq := none, s := d, due } m.tasks }) s
/-- TASKEND (R277, R390): no effect where no open chunk of the block begins at the record. -/
def execTaskend (_ : Hdr) (sr : BitVec 8) (z : BitVec 1) (s : State) :=
  lift (fun _ m =>
    if m.activeAll z.toNat = 0 then m
    else match m.cardOf m.cb with
      | none => m
      | some c => (m.endChunks c m.cur.ham m.cw.block (fun k => k.first = (m.s sr.toNat).toNat)).harvest) s
/-- The answer of a dealer to a block (R211, R390): first record and count. -/
def Mach.deal (m : Mach) (h n : Nat) : Nat × Nat × Mach :=
  let b := m.block h n
  match m.cardOf b with
  | none => (0, 0, m)
  | some id =>
    let c := m.cards.get default id
    let left := c.stop - c.next
    let live (x : Block) : Bool := x.launch = b.launch && x.dealing && x.eligible
    let active := (m.hams.map (fun e => (e.2.blocks.filter (fun x => live x.2)).length)).foldl (· + ·) 0
    let num := (m.ctx h b.ctx).num
    let count := if m.placementStopped num ∨ !b.dealing then 0 else min left (max c.minchunk (ceilDiv left (2 * max active 1)))
    if count = 0 then (0, 0, m.modBlock h n (fun b => { b with dealing := false }))
    else
      let k : Chunk := { ham := h, block := n, first := c.next, count }
      (c.next, count, { m with cards := m.cards.set id { c with next := c.next + count, chunks := c.chunks ++ [k] } })
/-- The TASKGET request that is answered now: a dealer takes one request at a time, in arrival order. -/
def Mach.dealDue (m : Mach) : Option Task := m.tasks.find? (fun t => t.enq.isNone && t.due ≤ m.now)
/-- TASK_DEAL (R211). -/
def execTaskDeal (id : Nat) (s : State) :=
  lift (fun _ m =>
    match m.tasks.find? (fun t => t.id = id && t.enq.isNone) with
    | none => m
    | some t =>
      if t.due > m.now then m
      else
        let m : Mach := { m with tasks := m.tasks.filter (fun x => x.id ≠ id) }
        if ((m.ham t.ham).blocks.get? t.block).isNone then m
        else
          let (first, count, m) := m.deal t.ham t.block
          let (at', m) := m.someTime (m.now + 1)
          m.resolve t.ham t.warp t.pend [(t.s, word first), (t.s + 1, word count)] at') s

/-! ## ENQ (R213, R330, R331) -/

/-- ENQ (R277, R330): the packet is read at issue, as a thread load of the lowest active lane. -/
def execEnq (_ : Hdr) (sr : BitVec 8) (z : BitVec 1) (s : State) :=
  lift (fun mem m =>
    match lowestLane (m.activeAll z.toNat) with
    | none => m
    | some lane =>
      let d := m.s sr.toNat
      let h := m.cur.ham
      let b := m.cb
      let addr := d &&& 0x0003FFFF
      let l := laneBit lane
      if wbits d 28 4 ≠ 0 then m.trapWord 4 1 (engDetail m.cur.word 0)
      else match m.sharedCheck b addr 64 with
        | some (_, code) => m.trapMem code l (fun _ => addr) (fun _ => 0) false
        | none =>
          let key := sharedKey h b addr.toNat
          if m.sbWait h 0 false (gransOf (arrOff b addr.toNat) 64) then m.notIssued
          else if m.bad key 64 then m.trapData l (fun _ => addr) (fun _ => 0) false
          else
            let q := m.s (sr.toNat + 1)
            let packet := m.rdN mem key 64
            let m := m.seen key 64
            let (pend, m) := m.varPend .s [sr.toNat + 2] 0 [] none
            let (id, m) := m.fresh
            let (due, m) := m.someTime (m.now + 22)
            let t : Task :=
              { id, ham := h, warp := m.cur.warp, block := m.cw.block, pend, enq := some (q, packet), s := sr.toNat + 2, due,
                lane := l, before := id, tenant := (m.ctx h b.ctx).tenant }
            { m with tasks := insertBy (·.due) t m.tasks }) s
/-- The enqueue that its front-end takes now: arrived, with the issuing lane's release done (R330). -/
def Mach.enqDue (m : Mach) : Option Task :=
  m.tasks.find? (fun t => t.enq.isSome && t.due ≤ m.now && m.writesDone t.ham t.warp t.lane t.before 4)
/-- Some valid filter entry lets a tenant enqueue this opcode to this queue (R213). -/
def Mach.filterOpen (m : Mach) (tenant q op : Nat) : Bool :=
  (List.range 256).any (fun n =>
    let a := m.reg (stwReg (0x2000 + 8 * n))
    wbit a 31 && wbits a 12 8 = tenant && wbits a 0 10 = q && 1 ≤ op && op ≤ 8 && wbit (m.reg (stwReg (0x2004 + 8 * n))) (op - 1))
/-- Place a packet in a ring (R331): status 0, or 1 when the ring is full. -/
def Mach.placePacket (mem : Memory) (m : Mach) (q : Nat) (b : List Byte) : Fe Nat :=
  (m.reread mem q).bind fun _ m =>
    let x := m.queue q
    let slot (i : Nat) := x.base + 64 * (i % 2 ^ x.l)
    if (x.widx + 2 ^ 32 - x.ridx) % 2 ^ 32 ≥ 2 ^ x.l then .ok 1 m
    else
      let seq : Fe Nat := if x.widx = 0 then .ok 1 m
        else (m.feRead mem x.shadow.ctx (slot (x.widx - 1) + 4) 4 1).bind fun v m => .ok (leNat v + 1) m
      seq.bind fun n m =>
        (m.feWrite mem x.shadow.ctx (slot x.widx) (b.take 4 ++ leBytes 4 n ++ b.drop 8) .store 2).bind fun _ m =>
          (m.feWrite mem x.shadow.ctx (x.qcb + 0xC) (leBytes 4 (x.widx + 1)) .store 1).bind fun _ m =>
            (m.reread mem q).bind fun _ m => .ok 0 m
/-- ENQ_REQUEST (R213, R331): the queue's tenant is that of the front-end's own copy (R202). The status of an enqueue that a fault on the ring keeps from its place is open (log 20). -/
def execEnqRequest (id : Nat) (s : State) :=
  lift (fun mem m =>
    match m.enqDue with
    | none => m
    | some t =>
      let (qw, packet) := t.enq.getD (0, [])
      let q := qw.toNat
      let tenant := t.tenant
      let gone : Mach := { m with tasks := m.tasks.filter (fun x => x.id ≠ t.id) }
      let answer (m : Mach) (st : Nat) : Mach :=
        let (at', m) := m.someTime (m.now + 1)
        if (m.warp t.ham t.warp).pends.any (fun p => p.id = t.pend) then m.resolve t.ham t.warp t.pend [(t.s, word st)] at' else m
      if t.id ≠ id then m
      else if q ≥ 1024 ∨ (m.queues.get? q).isNone then answer gone 3
      else if (m.queue q).shadow.tenant ≠ tenant ∧ !m.filterOpen tenant q (natAt packet 0 1) then
        answer (gone.setReg (stwReg 0x2800) (gone.reg (stwReg 0x2800) + 1)) 2
      else match gone.placePacket mem q packet with
        | .ok st m => answer m st
        | .held pa =>
          { m.hotWait pa with tasks := updateFirst (fun x => x.id = t.id) (fun x => { x with due := m.now + 1 }) m.tasks }
        | .fault =>
          let (st, m) := gone.freeBelow 4
          answer (m.feEnd mem q (m.queue q).ridx ((m.queue q).seq + 1) .fault) st) s

/-! ## The load token (R212) -/

/-- Undealt records of a package, in units of 1,024, saturating at 16 bits. -/
def Mach.podLoad (m : Mach) : Nat := min 65535 ((m.cards.map (fun e => e.2.stop - e.2.next)).foldl (· + ·) 0 / 1024)
/-- A token has come round: records shipped before and not acknowledged return to their card (R212). -/
def Mach.stealReturn (m : Mach) : Mach :=
  { m with cards := m.cards.map (fun e => match e.2.shipped with
    | some (_, n) => (e.1, { e.2 with stop := e.2.stop + n, shipped := none })
    | none => e) }
/-- The largest card, by undealt records, that has shipped none. -/
def Mach.largestCard (m : Mach) : Option (Nat × Card) :=
  minBy (fun e => 2 ^ 32 - (e.2.stop - e.2.next)) (m.cards.filter (fun e => e.2.shipped.isNone && e.2.stop > e.2.next + 1))
/-- The packet of a job card. -/
def Mach.cardPacket (m : Mach) (id : Nat) (c : Card) : Option Packet := (m.queue c.queue).packets.find? (fun p => p.card = some id)
/-- This package donates to a requester (R212): it reserves the upper half of the undealt records of its largest card and ships them with the
template, which of records that were shipped here is the one they came with; whether it did. The steal queue has no doorbell and no halt: where
its records cannot be read, nothing is donated (log 20). -/
def Mach.donate (mem : Memory) (m : Mach) (dest : Nat) : Bool × Mach :=
  match m.largestCard with
  | none => (false, m)
  | some (id, c) =>
    let n := (c.stop - c.next) / 2
    let first := c.stop - n
    match m.cardPacket id c with
    | none => (false, m)
    | some p =>
      let array := c.array + c.recBytes * first
      let template : Fe (List Byte × List Byte) :=
        match c.brought with
        | some x => .ok x m
        | none =>
          (m.feRead mem p.ctx (natAt p.body 8 8) 64 2).bind fun t m =>
            (m.feRead mem p.ctx (natAt t 0x10 8) 128 3).bind fun a m => .ok (t, a) m
      let read : Fe Shipment :=
        template.bind fun x m =>
            (m.feRead mem p.ctx array (c.recBytes * n) (c.recBytes * n / 128 + 2)).bind fun bytes m =>
              .ok { donor := m.ownPkg, dest, card := id, shadow := p.fields (m.queue c.queue).shadow, template := x.1, args := x.2, array
                    recBytes := c.recBytes, minchunk := c.minchunk, first, count := n, bytes } m
      match read with
      | .ok x m =>
        (true, { m with
          cards := m.cards.set id { c with stop := first, shipped := some (first, n) }, podShipped := m.podShipped ++ [x] })
      | .held pa => (false, m.hotWait pa)
      | .fault => (false, if c.queue < 1024 then m.feEnd mem c.queue p.idx p.seq .fault else m)
/-- The package after this one in the pod: the next higher number to which a route leads, or package 0 (R212). -/
def Mach.nextPkg (m : Mach) : Nat :=
  (((List.range 64).filter (fun d => m.ownPkg < d && wbit (m.reg (lnkReg (0x100 + 4 * d))) 31)).head?).getD 0
/-- The token leaves for the next package, on virtual channel 2 (R212, R241). -/
def Mach.sendToken (m : Mach) (seq : Nat) (loads requests : List Nat) : Mach :=
  { m.sendFlit m.nextPkg 2 (Config.tokenFlit seq loads requests) with
    podSeq := seq, podLoads := loads, podRequests := requests, podLast := m.now, podForwarded := m.podForwarded ++ [(seq, loads, requests)] }
/-- LOAD_TOKEN (R212): the loads of the packages in ascending number, and the packages that have requested records. A donor takes the first
request and strikes it out (log 20). -/
def loadToken (seq : Nat) (loads requests : List Nat) : Act := fun mem m =>
  let own := m.ownPkg
  let seq := seq % 2 ^ 16
  if (seq + 2 ^ 16 - m.podSeq) % 2 ^ 16 ≥ 2 ^ 15 then m
  else
    let m := m.stealReturn
    let mine := m.podLoad
    let loads := (loads.map (· % 2 ^ 16)).set own mine
    let sum := loads.foldl (· + ·) 0
    let top : Bool := loads.all (fun x => x ≤ mine) && mine * loads.length > 2 * sum
    let (gave, m) := match requests.find? (· ≠ own) with
      | some d => if top then m.donate mem d else (false, m)
      | none => (false, m)
    let requests := if gave then dropFirst (fun d => d ≠ own) requests else requests
    let asks : Bool := 2 * mine * loads.length < sum && !requests.contains own
    m.sendToken seq loads (if asks then requests ++ [own] else requests)
/-- LOAD_TOKEN. -/
def execLoadToken (seq : Nat) (token : PodToken) (s : State) := lift (loadToken seq token.loads token.requests) s
/-- The requester takes a shipment into its steal queue, 1024: the records go to their places in the array, a job card and a launch of the
template begin, and it acknowledges (R212; log 20). One whose template cannot run here, or whose places fault, is not acknowledged. -/
def takeShipment (x : Shipment) : Act := fun mem m =>
  if x.dest ≠ m.ownPkg ∨ x.donor = m.ownPkg ∨ m.launchErr mem x.shadow x.template ≠ 0 then m
  else match m.feWrite mem x.shadow.ctx x.array x.bytes .store (x.bytes.length / 128 + 2) with
    | .ok _ m =>
      let q : Queue := (m.queues.get? 1024).getD { qcb := 0, steward := x.shadow, shadow := x.shadow }
      let (card, m) := m.fresh
      let (id, m) := m.fresh
      let p : Packet := { newPacket q.ridx x.template x.shadow with op := 2, begun := true, launches := [id], card := some card }
      let l := { launchOf 1024 p x.template x.args (some card) false with began := m.now }
      let c : Card :=
        { queue := 1024, launch := id, records := x.count, recBytes := x.recBytes, minchunk := x.minchunk, next := x.first
          stop := x.first + x.count, array := x.array - x.recBytes * x.first, packet := q.ridx, brought := some (x.template, x.args) }
      { m with
        queues := m.queues.set 1024 { q with ridx := q.ridx + 1, widx := q.ridx + 1, packets := q.packets ++ [p] }
        cards := m.cards.set card c, launches := m.launches.set id l, podAcked := m.podAcked ++ [(x.donor, x.card)] }
    | _ => m
/-- STEAL_ACK (R212): the requester has the records; they leave the card. -/
def execStealAck (card : Nat) (s : State) :=
  lift (fun _ m =>
    match m.cards.get? card with
    | some c => match c.shipped with
      | some (_, n) => { m with cards := m.cards.set card { c with records := c.records - n, shipped := none } }.harvest
      | none => m
    | none => m) s
/-- Package 0 has seen no token for 2^20 front-end cycles. -/
def Mach.reissueDue (m : Mach) : Bool := m.ownPkg = 0 && m.podLast + feCycles (2 ^ 20) ≤ m.now
/-- LOAD_TOKEN_REISSUE (R212): the new token carries no request. -/
def execLoadTokenReissue (s : State) :=
  lift (fun _ m =>
    if !m.reissueDue then m
    else
      let m := m.stealReturn
      m.sendToken ((m.podSeq + 1) % 2 ^ 16) (if m.podLoads = [] then [m.podLoad] else m.podLoads.set 0 m.podLoad) []) s

end Sys2Proof.Machine
end

