-- ==== Sys2Proof/Machine/SaveArena.lean ====
section
/-! DEFINITION. The save region of a hamlet in an arena: the bytes of its sections, and how a restore reads them back (R215 to R217). What
R217 leaves open within a section is the model's layout (log 15). -/
namespace Sys2Proof.Machine

/-- The words of a byte sequence. -/
def leWords : List Byte → List Word
  | a :: b :: c :: d :: r => leWord [a, b, c, d] :: leWords r
  | _ => []
/-- A sequence as a table from 0. -/
def tableOf {α : Type} (l : List α) : SMap α := (List.range l.length).zip l
/-- Bytes padded with zeros, or cut, to a length. -/
def padTo (n : Nat) (b : List Byte) : List Byte := (b ++ leBytes n 0).take n

/-! ## The places of the sections (R217) -/

/-- The block records begin here. -/
def Region.blocksAt (r : Region) : Nat := 256 + 12288 * r.warps.length
/-- The places of the block records. -/
def Region.blockPlaces (r : Region) : List (Nat × Nat × Block) :=
  (r.blocks.foldl (fun (a : List (Nat × Nat × Block) × Nat) b => (a.1 ++ [(a.2, b)], a.2 + 1024 + b.2.carve)) ([], r.blocksAt)).1
/-- The range-scoreboard section begins here, and after it, each at a fixed distance, the other sections. -/
def Region.sbAt (r : Region) : Nat := r.blocks.foldl (fun t b => t + 1024 + b.2.carve) r.blocksAt
/-- The channel queues. -/
def Region.chansAt (r : Region) : Nat := r.sbAt + 8192
/-- The matrix engine: accumulator, row tags, latches, FIFOs, command queue. -/
def Region.engAt (r : Region) : Nat := r.chansAt + 2048
/-- The quantisation queue and the generator. -/
def Region.quantAt (r : Region) : Nat := r.engAt + 214272
/-- The pending SYSCALL records. -/
def Region.scAt (r : Region) : Nat := r.quantAt + 768
/-- The length of a region, a multiple of 4 KiB (R215). -/
def Region.length (r : Region) : Nat := roundUp (r.scAt + 4096) 4096

/-! ## The sections as bytes -/

/-- A number as a 32-bit field. -/
def f32 (n : Nat) : List Byte := leBytes 4 n
/-- The header: hamlet, slot, warps, blocks, save sequence number, the counts of FIFO bytes, the baton's holder and queue. -/
def Region.header (r : Region) : List Byte :=
  padTo 256 (f32 r.ham ++ f32 r.slot ++ f32 r.warps.length ++ f32 r.blocks.length ++ f32 r.num ++ f32 r.eng.fifoW.data.length ++
    f32 r.eng.fifoA.data.length ++ f32 r.bq.length ++ r.bq.map (BitVec.ofNat 8))
/-- A barrier: expectation, count, the pending change, PH, CL, and that it stands here. -/
def Bar.bytes (b : Bar) : List Byte :=
  f32 b.exp ++ f32 b.cnt ++ leBytes 4 (b.dlt % 2 ^ 32).toNat ++ f32 (b.ph.toNat + 2 * b.cl.toNat + 4)
/-- Some barriers of a table. -/
def barsBytes (t : SMap Bar) (l : List Nat) : List Byte :=
  l.flatMap (fun k => match t.get? k with | some b => b.bytes | none => leBytes 16 0)
/-- A block record: barriers, those hosted, the layout slots with a mask of the filled ones, CWP0 to CWP3, the pair map. -/
def blockBytes (n : Nat) (b : Block) : List Byte :=
  padTo 1024 (
    barsBytes b.bars (List.range 16) ++ barsBytes b.hosts [12, 13, 14, 15] ++
    padTo 64 (wordsBytes [maskOf (fun i => (b.slots.get? i).isSome)]) ++ (List.range 8).flatMap (fun i => padTo 64 (b.slots.get [] i)) ++
    wordsBytes ((List.range 4).map (fun i => b.cwp.get 0 i)) ++ padTo 16 (b.pairs.map (BitVec.ofNat 8)) ++ f32 n)
/-- A scoreboard interval. -/
def itvBytes : Option Itv → List Byte
  | some i => f32 (i.space + 2) ++ f32 i.lo ++ f32 i.hi
  | none => leBytes 12 0
/-- What the scoreboard section tells of the command of an entry, in whatever unit it stands (R116): the unit (1 a channel, 2 the engine,
3 the quantisation engine) with its function, barrier and arrival, its warp and lane, its number, its progress and its record. -/
structure SbCmd where
  name : Nat
  warp : Nat
  id : Nat
  pos : Nat
  rcd : List Byte
  deriving DecidableEq, Repr
/-- The name of a command: unit, function, barrier, arrival. -/
def cmdName (unit fn bar : Nat) (arv : Bool) : Nat := unit + 256 * fn + 65536 * bar + 2 ^ 24 * arv.toNat
/-- The command of a scoreboard entry of a region: an entry of an MMSP or of a drain has the number of its reading or of its drain. -/
def Region.sbCmd (r : Region) (e : SbEntry) : Option SbCmd :=
  (((r.chans.flatMap (·.2)).find? (fun c => c.id = e.id)).map (fun c =>
    { name := cmdName 1 c.fn c.bar c.arv, warp := c.warp + 256 * c.lane, id := c.id, pos := c.prog, rcd := c.rcd })).orElse fun _ =>
  ((r.eng.q.find? (fun c => c.id = e.id || c.did = e.id)).map (fun c =>
    { name := cmdName 2 c.fn c.bar c.arv, warp := c.warp + 256 * c.lane, id := c.id, pos := c.pos, rcd := c.rcd })).orElse fun _ =>
  (r.qeng.find? (fun c => c.id = e.id)).map (fun c =>
    { name := cmdName 3 0 c.bar c.arv, warp := c.warp, id := c.id, pos := c.pos, rcd := [] })
/-- A scoreboard entry with its command, the command's progress and its record. -/
def sbBytes (e : SbEntry) (c : Option SbCmd) : List Byte :=
  f32 1 ++ f32 e.block ++ leBytes 8 e.id ++ padTo 12 (itvBytes e.rd) ++ padTo 12 (itvBytes e.wr) ++ leBytes 8 ((c.map (·.pos)).getD 0) ++
    f32 ((c.map (·.name)).getD 0) ++ f32 ((c.map (·.warp)).getD 0) ++ leBytes 8 ((c.map (·.id)).getD 0) ++ padTo 64 ((c.map (·.rcd)).getD [])
/-- A command in a channel's queue: its words, then what names it, its progress and its total. -/
def Cmd.entry (c : Cmd) : List Byte :=
  padTo 32 (wordsBytes c.words) ++
  padTo 32 (f32 (c.fn + 256 * c.hint + 65536 * c.bar + 2 ^ 24 * c.arv.toNat) ++ f32 (c.warp + 256 * c.lane) ++ f32 c.block ++ f32 c.prog ++
    leBytes 8 c.id ++ f32 c.total)
/-- The drained bytes or sparse chunk that an engine command has reached, and whether it runs or drains. -/
def ECmd.mark (c : ECmd) : Nat :=
  c.pos % 2 ^ 30 + 2 ^ 30 * (match c.phase with | .running | .rows => 1 | .draining => 2 | _ => 0)
/-- An engine command: its parameter block, with its progress in the bytes of the block that must be 0 (R142): the word at 0x20, and for
those that have no sparse words also tile and row, the bytes still claimed and of these those that cannot come, and its number. -/
def ECmd.entryBytes (c : ECmd) : List Byte :=
  let par := padTo 64 c.par
  if c.fn = 1 then par.take 32 ++ f32 c.mark ++ par.drop 36
  else
    par.take 32 ++ f32 c.mark ++ f32 (c.tile + 65536 * c.row) ++ f32 c.claimW ++ f32 c.claimA ++ f32 c.lackW ++ f32 c.lackA ++ leBytes 8 c.id
/-- A weight latch: flags and format, the bytes held, the bytes of the whole tile, and the tile. -/
def latchBytes (flags n whole : Nat) (data : List Byte) : List Byte := padTo 16512 (f32 flags ++ f32 n ++ f32 whole ++ f32 0 ++ data)
/-- The shadow latch: a whole tile, or one that is on its way in (R136). -/
def Engine.shadowBytes (e : Engine) : List Byte :=
  match e.shadow with
  | some t => latchBytes (1 + 2 * t.bad.toNat) t.bytes.length t.bytes.length t.bytes
  | none => latchBytes 0 e.stage.data.length e.stageLen e.stage.data
/-- The active latch. -/
def Engine.activeBytes (e : Engine) : List Byte :=
  match e.active with
  | some t => latchBytes (1 + 4 * t.kb.toNat + 16 * t.fmt) t.data.length t.data.length t.data
  | none => latchBytes 0 0 0 []
/-- The engine section: empty where the context does not own the engine, but for its command queue. -/
def Region.engBytes (r : Region) : List Byte :=
  let e : Engine := if r.engineOwned then r.eng else {}
  wordsBytes ((List.range 32768).map (fun i => e.acc.get 0 i)) ++ (List.range 512).map (fun i => BitVec.ofNat 8 (e.tag.get 0 i)) ++
  e.activeBytes ++ e.shadowBytes ++ padTo 16384 e.fifoW.data ++ padTo 32768 e.fifoA.data ++
  padTo 512 (r.eng.q.flatMap ECmd.entryBytes)
/-- The sections of a region with their places. -/
def Region.pieces (r : Region) : List (Nat × List Byte) :=
  [(0, r.header)] ++
  ((List.range r.warps.length).zip r.warps).map (fun e =>
    (256 + 12288 * e.1, wordsBytes ((List.range 3072).map (fun i => e.2.2.recordWord (4 * i))))) ++
  r.blockPlaces.flatMap (fun e => [(e.1, blockBytes e.2.1 e.2.2), (e.1 + 1024, r.shared.get [] e.2.1)]) ++
  [(r.sbAt, padTo 8192 (r.sb.flatMap (fun e => sbBytes e (r.sbCmd e)))),
   (r.chansAt, (List.range 4).flatMap (fun ch => padTo 512 ((r.chans.get [] ch).flatMap Cmd.entry))),
   (r.engAt, r.engBytes),
   (r.quantAt, padTo 768 (padTo 512 (r.qeng.flatMap (fun c => padTo 32 (wordsBytes c.words))) ++ leBytes 4 r.ctx.gen.toNat)),
   (r.scAt, padTo 4096 (r.scRecords.flatMap (fun ws => padTo 800 (wordsBytes ws))))]

/-! ## The sections read back -/

/-- The lane state of a byte of R217; a value that is never written tells nothing. -/
def laneOf (b : Nat) : Option LaneState :=
  ([.ready, .exited, .absent, .held .quad, .held .waitk, .held .ksync, .held .bwait, .held .tret, .held .fence, .held .cpwait, .held .qwait,
    .held .mmwait, .held .baton, .held .hosted, .held .atom, .parked .syscall, .parked .trap, .parked .nonTrap, .parked .logged,
    .parked .fetch, .parked .stop, .parked .doubleTrap] : List LaneState).find? (fun s => laneByte s = b)
/-- An entry of the operand log as its 768 bytes give it (R217): word, masks, destination, addresses and data. -/
def LogEntry.fromBytes (e : LogEntry) (b : List Byte) : LogEntry :=
  let mask := wordAt b 4
  let addr (l : Nat) : Nat := natAt b (16 + 6 * l) 6
  let data (l : Nat) : List Byte := (b.drop (208 + 16 * l)).take 16
  let first := (lowestLane mask).getD 0
  let spill (i : Nat) : Nat := e.addrs.get 0 0 / 2 ^ 48 * 2 ^ 48 + (addr first - 4 * first) + 128 * i
  { e with
    word := wordAt b 0, mask, faulted := wordAt b 8, reg := natAt b 12 4,
    addrs := if e.io then (lanesOf mask).map (fun l => (l, va64 (addr l))) else e.addrs.map (fun a => (a.1, spill a.1)),
    data := e.data.map (fun d =>
      (d.1, if e.io then (data d.1).take d.2.length else ((data (d.1 % 32)).drop (4 * (d.1 / 32))).take 4)) }
/-- A lane as its program counter and its state byte give it. A lane that waits at a quad instruction is recorded at it (R38), and it goes on
waiting there if the record says so. -/
def Lane.fromRecord (y : Lane) (pc : Word) (b : Nat) : Lane :=
  let y := { y with st := (laneOf b).getD y.st }
  if y.quad.isSome && y.at' = pc then y else { y with pc, quad := none }
/-- What a region's warp record gives a warp (R217): registers, masks, lanes, control words, lease and operand log. The victim tags, the
line-touch filter and its count start anew (R53). -/
def Warp.fromRecord (x : Warp) (ws : List Word) : Warp :=
  let w (o : Nat) : Word := ws.getD (o / 4) 0
  let part (o n : Nat) : List Word := (ws.drop (o / 4)).take n
  let byte (o l : Nat) : Nat := wbits (w (o + l / 4 * 4)) (8 * (l % 4)) 8
  { x with
    v := tableOf (part 0 2048), s := tableOf (part 0x2000 160), k := tableOf (part 0x2280 12)
    arr := (List.range 4).map (fun i => (8 + i, w (0x22B0 + 4 * i)))
    fx := (List.range 32).map (fun l => (l, word (byte 0x22C0 l)))
    lanes := x.lanes.map (fun e => (e.1, e.2.fromRecord (w (0x22E0 + 4 * e.1)) (byte 0x2360 e.1)))
    decl := wbit (w 0x23A0) 31, loss := wbits (w 0x23A0) 16 8, lease := wbits (w 0x23A0) 0 12
    log := x.log.map (fun e => e.fromBytes (wordsBytes (part (0x23C0 + 768 * e.num) 192)))
    fpmode := w 0x2380, trapcause := w 0x2384, trapd0 := w 0x2388, trapd1 := w 0x238C, trapd2 := w 0x2390, trappc := w 0x2394,
    trapmask := w 0x2398, tvec := w 0x239C, streak := wbits (w 0x23A4) 0 7, hmode := wbit (w 0x23A8) 0, saved := w 0x23AC,
    spillPtr := (w 0x23B0).toNat + wbits (w 0x23B4) 0 16 * 2 ^ 32, clk := w 0x23B8, stopped := false, active := false,
    victims := [], filter := 0, actCycles := 0, parity := [] }
/-- A barrier of 16 bytes. -/
def barOf (b : List Byte) : Option Bar :=
  let f := natAt b 12 4
  let d := natAt b 8 4
  if f.testBit 2 then
    some { exp := natAt b 0 4, cnt := natAt b 4 4, dlt := if d < 2 ^ 31 then (d : Int) else (d : Int) - 2 ^ 32, ph := f.testBit 0, cl := f.testBit 1 }
  else none
/-- Barriers, by number. -/
def barsOf (b : List Byte) (l : List Nat) : SMap Bar :=
  ((List.range l.length).zip l).filterMap (fun e => (barOf ((b.drop (16 * e.1)).take 16)).map (fun x => (e.2, x)))
/-- A block as its record gives it (R217). -/
def Block.fromRecord (x : Block) (b : List Byte) : Block :=
  { x with
    bars := barsOf b (List.range 16), hosts := barsOf (b.drop 256) [12, 13, 14, 15],
    slots := ((List.range 8).filter (fun i => wbit (wordAt b 320) i)).map (fun i => (i, (b.drop (384 + 64 * i)).take 64)),
    cwp := tableOf ((leWords (b.drop 896)).take 4)
    pairs := ((b.drop 912).take x.pairs.length).map (·.toNat) }
/-- A scoreboard interval of 12 bytes. -/
def itvOf (b : List Byte) : Option Itv :=
  if natAt b 0 4 < 2 then none else some { space := natAt b 0 4 - 2, lo := natAt b 4 4, hi := natAt b 8 4 }
/-- A scoreboard entry of 128 bytes, if one stands there, with what it tells of its command. -/
def sbOf (b : List Byte) : Option (SbEntry × SbCmd) :=
  if natAt b 0 4 % 2 = 1 then
    some ({ id := natAt b 8 8, block := natAt b 4 4, rd := itvOf (b.drop 16), wr := itvOf (b.drop 28) },
      { name := natAt b 48 4, warp := natAt b 52 4, id := natAt b 56 8, pos := natAt b 40 8, rcd := (b.drop 64).take 64 })
  else none
/-- What the scoreboard section tells of a command. -/
def toldOf (sb : List (SbEntry × SbCmd)) (unit id : Nat) : Option SbCmd :=
  (sb.find? (fun e => e.2.name % 256 = unit && e.2.id = id)).map (·.2)
/-- A command of a channel as its entry gives it; its record stands in the scoreboard section. -/
def Cmd.fromEntry (x : Cmd) (b : List Byte) (sb : List (SbEntry × SbCmd)) : Cmd :=
  let f := natAt b 32 4
  { x with
    words := (leWords b).take x.words.length, prog := natAt b 44 4, total := natAt b 56 4, fn := f % 256, hint := f / 256 % 256,
    bar := f / 65536 % 256, arv := f.testBit 24, warp := natAt b 36 1, lane := natAt b 37 1, block := natAt b 40 4,
    rcd := ((toldOf sb 1 x.id).map (fun (t : SbCmd) => t.rcd.take x.rcd.length)).getD x.rcd }
/-- An engine command as its entry gives it; its record stands in the scoreboard section. -/
def ECmd.fromEntry (x : ECmd) (b : List Byte) (sb : List (SbEntry × SbCmd)) : ECmd :=
  let f := natAt b 32 4
  let phase : EPhase := if f / 2 ^ 30 = 1 then .running else if f / 2 ^ 30 = 2 then .draining else x.phase
  let told := toldOf sb 2 x.id
  let x := { x with pos := f % 2 ^ 30, phase, rcd := (told.map (fun (t : SbCmd) => t.rcd.take x.rcd.length)).getD x.rcd }
  if x.fn = 1 then { x with par := (b.take 32 ++ leBytes 4 0 ++ b.drop 36).take x.par.length }
  else
    { x with
      par := (b.take 32 ++ leBytes 32 0).take x.par.length, tile := natAt b 36 2, row := natAt b 38 2, claimW := natAt b 40 4,
      claimA := natAt b 44 4, lackW := natAt b 48 4, lackA := natAt b 52 4 }
/-- A quantisation command as its words give it; its progress stands in the scoreboard section. -/
def QCmd.fromEntry (x : QCmd) (b : List Byte) (sb : List (SbEntry × SbCmd)) : QCmd :=
  { x with words := (leWords b).take x.words.length, pos := ((toldOf sb 3 x.id).map (·.pos)).getD x.pos }
/-- The engine state of a region, as its section gives it. -/
def Engine.fromSection (x : Engine) (b : List Byte) (nw na : Nat) : Engine :=
  let act := b.drop 131584
  let shad := act.drop 16512
  let fifos := shad.drop 16512
  let whole : Bool := (natAt shad 0 4).testBit 0
  let data (l : List Byte) : List Byte := (l.drop 16).take (natAt l 4 4)
  { x with
    acc := tableOf ((leWords (b.take 131072))), tag := tableOf (((b.drop 131072).take 512).map (·.toNat)),
    active := if (natAt act 0 4).testBit 0 then some { fmt := bits (natAt act 0 4) 4 8, kb := (natAt act 0 4).testBit 2, data := data act } else none,
    shadow := if whole then
        some { bytes := data shad, bad := (natAt shad 0 4).testBit 1, ready := 0, fails := ((x.shadow.map (·.fails)).getD []) }
      else none,
    stage := if whole then {} else { x.stage with data := data shad }, stageLen := if whole then 0 else natAt shad 8 4,
    fifoW := { x.fifoW with data := fifos.take nw }, fifoA := { x.fifoA with data := (fifos.drop 16384).take na } }
/-- A region as its bytes in the arena give it; what they do not hold is as it was saved. -/
def Region.fromBytes (r : Region) (b : List Byte) : Region :=
  let sb := (List.range 64).filterMap (fun i => sbOf ((b.drop (r.sbAt + 128 * i)).take 128))
  let chan (ch i : Nat) : List Byte := (b.drop (r.chansAt + 512 * ch + 64 * i)).take 64
  let eng := b.drop r.engAt
  let entries := eng.drop 213760
  { r with
    bq := ((b.drop 32).take (min (natAt b 28 4) 64)).map (·.toNat),
    warps := ((List.range r.warps.length).zip r.warps).map (fun e =>
      (e.2.1, e.2.2.fromRecord (leWords ((b.drop (256 + 12288 * e.1)).take 12288)))),
    blocks := r.blockPlaces.map (fun e => (e.2.1, e.2.2.fromRecord ((b.drop e.1).take 1024))),
    shared := r.blockPlaces.map (fun e => (e.2.1, (b.drop (e.1 + 1024)).take e.2.2.carve)),
    chans := r.chans.map (fun e =>
      (e.1, ((List.range e.2.length).zip e.2).map (fun c => if c.1 < 8 then c.2.fromEntry (chan e.1 c.1) sb else c.2))),
    sb := sb.map (·.1),
    eng := { (if r.engineOwned then r.eng.fromSection eng (natAt b 20 4) (natAt b 24 4) else r.eng) with
      q := ((List.range r.eng.q.length).zip r.eng.q).map (fun c => if c.1 < 8 then c.2.fromEntry ((entries.drop (64 * c.1)).take 64) sb else c.2) },
    qeng := ((List.range r.qeng.length).zip r.qeng).map (fun c =>
      c.2.fromEntry ((b.drop (r.quantAt + 32 * c.1)).take 32) sb),
    ctx := { r.ctx with gen := wordAt b (r.quantAt + 512) },
    scRecords := (List.range r.scRecords.length).map (fun i => leWords ((b.drop (r.scAt + 800 * i)).take 800)) }

end Sys2Proof.Machine
end

