-- ==== Sys2Proof/Machine/Preempt.lean ====
section
/-! DEFINITION. Pre-emption: the save of a context in its three stages, its save regions, and its restore (R116, R152, R184, R214 to
R217). -/
namespace Sys2Proof.Machine

/-! ## What belongs to a context -/

/-- The hamlets on which a context is resident, with its slot. -/
def Mach.residents (m : Mach) (num : Nat) : List (Nat × Nat) :=
  m.hams.filterMap (fun e => (e.2.ctxSlot num).map (fun c => (e.1, c)))
/-- The blocks of a context slot. -/
def Hamlet.ctxBlocks (x : Hamlet) (c : Nat) : SMap Block := x.blocks.filter (fun e => e.2.ctx = c)
/-- The warps of a context slot. -/
def Hamlet.ctxWarps (x : Hamlet) (c : Nat) : SMap Warp :=
  x.warps.filter (fun e => !e.2.ended && (match x.blocks.get? e.2.block with | some b => b.ctx = c | none => false))
/-- Some stack is HOT (R237): writes of a save wait. -/
def Mach.anyHot (m : Mach) : Bool := (List.range 16).any (fun s => wbit (m.reg (hbmReg s 4)) 0)
/-- A deadline of HAM.PREEMPTc, in cycles (R214). -/
def Mach.deadline (m : Mach) (h c : Nat) (second : Bool) : Nat :=
  let d := m.regField (hamReg h (0x700 + 4 * c)) (if second then 16 else 0) 16
  1024 * (if second && d = 0 then 65536 else d)
/-- PRSTAT (R215): BUSY falls, and DONE and other bits rise. -/
def Mach.prDone (m : Mach) (bits err : Nat) : Mach :=
  let v := m.reg (stwReg 0x3210)
  { m.setReg (stwReg 0x3210) (((v &&& 0x0000FF0E) ||| word bits ||| 2) &&& (if err = 0 then 0xFFFFFFFF else 0x000000FF) ||| word (256 * err))
    with pre := none }

/-! ## Save (R215, R216) -/

/-- PRCMD_SAVE (R215, R219). -/
def prcmdSave (num : Nat) : Act := fun mem m =>
  let num := num % 4096
  if m.pre.isSome then m
  else
    let here := m.residents num
    let v := m.reg (stwReg 0x3210)
    let m := m.setReg (stwReg 0x3210) ((v &&& 0x0000000E) ||| 1)
    if here = [] ∧ !m.suspended.contains num then m.prDone 0 1
    else
      let arena := m.regField (stwReg 0x3200) 12 20 * 4096 + m.regField (stwReg 0x3204) 0 16 * 2 ^ 32
      let p : Preempt :=
        { op := 1, ctx := num, arena, pages := m.regField (stwReg 0x3208) 0 20, since := m.now, stage := 1, todo := here }
      let m := { m with pre := some p, saves := m.saves + 1 }
      let held := dedup (here.filterMap (fun e => m.reservations.get? (m.partHam e.1)))
      held.foldl (fun m q => match m.mustering q with
        | some p => if (m.queue q).mustate = 1 then m.feEnd mem q p.idx p.seq (m.rollback mem q p) else m
        | none => m) m
/-- PRCMD_SAVE. -/
def execPrcmdSave (ctx : Nat) (s : State) := lift (prcmdSave ctx) s
/-- Issue stops: a warp in handler mode waits first (R184, R216). -/
def Mach.stopCtx (m : Mach) (h c : Nat) : Mach :=
  let ws := (m.ham h).ctxWarps c
  let m := m.modHam h (fun x => match x.ctxs.get? c with
    | some k => { x with ctxs := x.ctxs.set c { k with stopped := true } }
    | none => x)
  ws.foldl (fun m e => m.modWarp h e.1 (fun x => if x.hmode then { x with saveWait := some m.now } else { x with stopped := true })) m
/-- A warp can be saved: its results have landed but for those of its logged accesses (R216). -/
def Warp.still (x : Warp) (now : Nat) : Bool :=
  x.stopped && x.saveWait.isNone && x.withheld.isEmpty &&
  x.log.all (fun e => e.walking == 0 && e.land ≤ now) &&
  x.pends.all (fun p => p.land.isNone && x.log.any (fun e => e.pends.contains p.id))
/-- A hamlet's part of the context can be saved: every channel and engine stands at a boundary, with nothing on its way (R116, R152). -/
def Mach.stillOn (m : Mach) (h c : Nat) : Bool :=
  let x := m.ham h
  let bs := x.ctxBlocks c
  let mine (n : Nat) : Bool := (bs.get? n).isSome
  let num := m.ctxNum h c
  x.warps.all (fun e => e.2.ended || !mine e.2.block || e.2.still m.now) &&
  x.cmds.all (fun d => d.ctx ≠ c || (d.acks = 0 && !d.walking)) &&
  x.qeng.all (fun d => d.ctx ≠ c || d.acks = 0) &&
  x.eng.q.all (fun d => d.ctx ≠ c || x.mmUnread d.id || (d.phase != .rows && d.phase != .awaiting && d.acks = 0 && d.due ≤ m.now)) &&
  !(x.eng.switching || (x.eng.owner = some num && (x.eng.switchEnd > m.now || x.eng.flow ≠ []))) &&
  !m.resv.any (fun r => x.cmds.any (fun d => d.ctx = c && d.id = r.1) || x.eng.q.any (fun d => d.ctx = c && d.did = r.1)) &&
  !x.lays.any (fun y => mine y.block && (y.ecmd.isNone || y.bytes.isSome)) && !x.walks.any (fun w => w.ctx = c) &&
  !x.fqWait.any (fun e => ctxField e.2.w0 = c) && !x.scWait.any (fun e => ctxField (e.2.2.headD 0) = c) &&
  !m.tasks.any (fun t => t.ham = h && mine t.block) &&
  !m.msgs.any (fun g => (g.src = h && mine g.sblock) || (g.dst = h && mine g.dblock)) &&
  !m.reqs.any (fun r => (match r.kind with | .sload | .sstore | .srmw => true | _ => false) && r.home = h && mine r.block && r.stage ≠ 9)
/-- The words of a pending SYSCALL record in a slot (R196). -/
def Mach.scWords (mem : Memory) (m : Mach) (h j : Nat) : List Word :=
  (List.range 200).map (fun i => leWord (m.rdN mem (keyArray h (39 * 8192 + 0x1000 + 0x320 * j + 4 * i)) 4))
/-- The slots of pending SYSCALL records of a context. -/
def Mach.scSlots (mem : Memory) (m : Mach) (h c : Nat) : List Nat :=
  (List.range 5).filter (fun j => wbit (m.reg (hamReg h 0x638)) j && ctxField ((m.scWords mem h j).headD 0) = c)
/-- The fault-queue entries of a context that have not been answered, by place. -/
def Mach.fqOpenOf (mem : Memory) (m : Mach) (h c : Nat) : List (Nat × FqRec) :=
  let w (e i : Nat) : Word := leWord (m.rdN mem (keyArray h (39 * 8192 + 16 * e + 4 * i)) 4)
  (m.ham h).fqMeta.filterMap (fun e =>
    if !e.2.2 && m.fqOpen h e.1 && ctxField (w e.1 0) = c then
      some (e.1, { w0 := w e.1 0, w1 := w e.1 1, w2 := w e.1 2, w3 := w e.1 3, rep := e.2.1 })
    else none)
/-- What a hamlet's save region holds (R217). -/
def Mach.region (mem : Memory) (m : Mach) (h c : Nat) : Region :=
  let x := m.ham h
  let bs := x.ctxBlocks c
  let ws := x.ctxWarps c
  let mine (n : Nat) : Bool := (bs.get? n).isSome
  let isMine (w : Nat) : Bool := (ws.get? w).isSome
  { ham := h, slot := c, ctx := x.ctxs.get default c, warps := ws, blocks := bs,
    shared := bs.map (fun b => (b.1, (List.range (b.2.carve / 8192)).flatMap (fun g => m.rdN mem (sharedKey h b.2 (8192 * g)) 8192))),
    chans := x.chans.map (fun e => (e.1, e.2.filter (fun d => d.ctx = c))), sb := x.sb.filter (fun e => mine e.block),
    eng := { (x.engSaved.get? (m.ctxNum h c)).getD x.eng with q := x.eng.q.filter (fun d => d.ctx = c && !x.mmUnread d.id) },
    engineOwned := x.eng.owner = some (m.ctxNum h c) || (x.engSaved.get? (m.ctxNum h c)).isSome,
    bq := (x.eng.baton.toList ++ x.eng.bq).filter isMine, qeng := x.qeng.filter (fun d => d.ctx = c),
    scRecords := (m.scSlots mem h c).map (m.scWords mem h), fq := (m.fqOpenOf mem h c).map (·.2), num := m.saves }
/-- The offsets of the regions in the arena, and the bytes used. -/
def regionOffsets (rs : List Region) : List Nat × Nat :=
  rs.foldl (fun a r => (a.1 ++ [a.2], a.2 + r.length)) ([], 4096)
/-- The header of an arena (R215). -/
def arenaHeader (num : Nat) (rs : List Region) : List Byte :=
  let (offs, used) := regionOffsets rs
  let entries := (rs.zip offs).flatMap (fun e => leBytes 4 e.1.ham ++ leBytes 8 e.2 ++ leBytes 4 e.1.length)
  (leBytes 4 num ++ leBytes 4 rs.length ++ leBytes 8 used ++ entries ++ leBytes 4096 0).take 4096
/-- Every byte of the arena that a save uses is main memory that can be reached (R215, R240). -/
def Mach.arenaOk (m : Mach) (pa n : Nat) : Bool :=
  (List.range (ceilDiv n 4096)).all (fun i => match m.target noPart (pa + 4096 * i) with
    | .main p => p = m.ownPkg || (m.portTo p).isSome
    | _ => false)
/-- SAVE_REGION_WRITE (R217). -/
def Mach.writePieces (mem : Memory) (m : Mach) (q pa : Nat) (l : List (Nat × List Byte)) : Mach :=
  l.foldl (fun m e => (m.memWriteN mem q (pa + e.1) e.2 0 0 (e.2.length / 128 + 2)).2) m
/-- A context leaves a hamlet with all that belongs to it (R216). An engine that it owned has no owner from then on, and its rows and latches
are empty at once: R141 says this of reset and of a switch only (DESIGN CHOICE, log 12). -/
def Mach.evict (mem : Memory) (m : Mach) (h c : Nat) : Mach :=
  let x := m.ham h
  let bs := x.ctxBlocks c
  let ws := x.ctxWarps c
  let num := m.ctxNum h c
  let mine (n : Nat) : Bool := (bs.get? n).isSome
  let answered := (m.fqOpenOf mem h c).map (·.1)
  let slots := maskOf (fun j => (m.scSlots mem h c).contains j)
  let m := m.setReg (hamReg h 0x638) (m.reg (hamReg h 0x638) &&& ~~~slots)
  let q := x.eng.q.filter (fun d => d.ctx ≠ c)
  let eng : Engine := if x.eng.owner = some num then { q, baton := x.eng.baton, bq := x.eng.bq } else { x.eng with q }
  let f (r : Req) : Option Req :=
    if r.ham = h && (ws.get? r.warp).isSome && r.stage ≠ 9 then
      (match r.kind with | .store | .sstore => some { r with warp := 64 } | _ => none)
    else some r
  let m := { m with
    reqs := m.reqs.filterMap f
    tasks := m.tasks.filter (fun t => !(t.ham = h && mine t.block))
    msgs := m.msgs.filter (fun g => !((g.src = h && mine g.sblock) || (g.dst = h && mine g.dblock)))
    resv := m.resv.filter (fun r => !(x.cmds.any (fun d => d.ctx = c && d.id = r.1) || x.eng.q.any (fun d => d.ctx = c && d.did = r.1))) }
  let m := m.setHam h { m.ham h with
    chans := x.chans.map (fun e => (e.1, e.2.filter (fun d => d.ctx ≠ c))), sb := x.sb.filter (fun e => !mine e.block), eng
    engSaved := x.engSaved.erase num, qeng := x.qeng.filter (fun d => d.ctx ≠ c), lays := x.lays.filter (fun y => !mine y.block)
    walks := x.walks.filter (fun w => w.ctx ≠ c), fqWait := x.fqWait.filter (fun e => ctxField e.2.w0 ≠ c)
    fqMeta := x.fqMeta.map (fun e => if answered.contains e.1 then (e.1, (e.2.1, true)) else e)
    scRes := x.scRes.filter (fun j => !wbit slots j), scWait := x.scWait.filter (fun e => ctxField (e.2.2.headD 0) ≠ c) }
  let m := m.modHam h (fun x => { x with eng := { x.eng with bq := x.eng.bq.filter (fun w => (ws.get? w).isNone) } })
  let m := match (m.ham h).eng.baton with | some w => if (ws.get? w).isSome then m.passBaton h else m | none => m
  let m := bs.foldl (fun m b => m.dropBlock h b.1) m
  m.freeCtxSlot h c

/-! ## Stage 3 (R216) -/

/-- The packets of a context that has been reset halt with error 0x0A; their launches and job cards are gone, and of a muster its
reservations, its tokens and its MUSTATE. -/
def Mach.haltCtx (mem : Memory) (m : Mach) (num : Nat) : Mach :=
  let gone := m.launches.filter (fun e => e.2.ctx = num)
  let hit (p : Packet) : Bool := p.begun && !p.done && p.launches.any (fun l => gone.any (fun e => e.1 = l))
  let m := m.queues.foldl (fun m e =>
    (e.2.packets.filter hit).foldl (fun m p =>
      let m : Mach := if p.op ≠ 5 then m else
        { m.modQueue e.1 (fun x => { x with mustate := 0 }) with
          tokens := m.tokens.filter (fun t => t.queue ≠ e.1), reservations := m.reservations.filter (fun r => r.2 ≠ e.1) }
      m.feEnd mem e.1 p.idx p.seq (m.haltAt mem e.1 0xA p.idx p.seq)) m) m
  { m with launches := m.launches.filter (fun e => e.2.ctx ≠ num), cards := m.cards.filter (fun e => !gone.any (fun l => l.1 = e.2.launch)) }
/-- The reset of a context: its warps end without state, its commands are discarded (R216). -/
def Mach.resetCtx (mem : Memory) (m : Mach) (num err : Nat) : Mach :=
  let m := (m.residents num).foldl (fun m e => m.evict mem e.1 e.2) m
  { m.haltCtx mem num with ops := m.ops.filter (fun o => o.ctx ≠ num) }.prDone 4 err
/-- Some Reeve of the context has not finished saving when its second deadline comes: no part of the context is saved without the others. -/
def Mach.resetDue (m : Mach) : Bool :=
  match m.pre with
  | some p =>
    p.op = 1 && p.todo.any (fun e => match p.stops.get? e.1 with
      | some t => t + m.deadline e.1 e.2 true ≤ m.now && (!m.stillOn e.1 e.2 || m.anyHot)
      | none => false)
  | none => false
/-- PREEMPT_RESET (R216). -/
def execPreemptReset (s : State) :=
  lift (fun mem m => match m.pre with
    | some p => if m.resetDue then m.resetCtx mem p.ctx 0 else m
    | none => m) s

/-! ## Stages 1 and 2 (R216, R217) -/

/-- No block of the context is resident. -/
def Mach.ctxEmpty (m : Mach) (num : Nat) : Bool := (m.residents num).all (fun e => (m.ham e.1).ctxBlocks e.2 = [])
/-- The hamlets of a save whose first deadline has come with blocks still resident (R216). -/
def Mach.stopsDue (m : Mach) (p : Preempt) : List (Nat × Nat) :=
  p.todo.filter (fun e =>
    (p.stops.get? e.1).isNone && (m.ham e.1).ctxBlocks e.2 ≠ [] && p.since + m.deadline e.1 e.2 false ≤ m.now)
/-- The save ends with no block resident, before any hamlet has come to its second stage. -/
def Mach.drainedOut (m : Mach) (p : Preempt) : Bool := p.stops = [] && m.ctxEmpty p.ctx && !m.anyHot
/-- Every hamlet's part can be saved now: stopped and still, or with no block left. -/
def Mach.regionsDue (m : Mach) (p : Preempt) : Bool :=
  p.stops ≠ [] && !m.anyHot &&
  p.todo.all (fun e => ((p.stops.get? e.1).isSome || (m.ham e.1).ctxBlocks e.2 = []) && m.stillOn e.1 e.2)
/-- A hamlet's first deadline has come, or the save ends in stage 1, or the regions can be written now. -/
def Mach.stage2Due (m : Mach) : Bool :=
  match m.pre with
  | some p => p.op = 1 && (m.drainedOut p || m.stopsDue p ≠ [] || m.regionsDue p)
  | none => false
/-- A save that ends in stage 1 (R215). -/
def Mach.saveEmpty (mem : Memory) (m : Mach) (p : Preempt) : Mach :=
  if !m.arenaOk p.arena 4096 then m.resetCtx mem p.ctx 3
  else if p.pages = 0 then m.resetCtx mem p.ctx 2
  else
    let m := m.writePieces mem noPart p.arena [(0, arenaHeader p.ctx [])]
    let m := (m.residents p.ctx).foldl (fun m e => m.evict mem e.1 e.2) m
    { m with suspended := dedup (m.suspended ++ [p.ctx]) }.prDone 8 0
/-- The regions are written, and the context has left the hamlets (R215, R217). -/
def Mach.saveAll (mem : Memory) (m : Mach) (p : Preempt) : Mach :=
  let rs := p.todo.map (fun e => m.region mem e.1 e.2)
  let (offs, used) := regionOffsets rs
  if used > 4096 * p.pages then m.resetCtx mem p.ctx 2
  else if !m.arenaOk p.arena used then m.resetCtx mem p.ctx 3
  else
    let m := m.writePieces mem noPart p.arena [(0, arenaHeader p.ctx rs)]
    let m := (rs.zip offs).foldl (fun m e => m.writePieces mem (m.partHam e.1.ham) (p.arena + e.2) e.1.pieces) m
    let m := p.todo.foldl (fun m e => m.evict mem e.1 e.2) m
    { m with saved := m.saved.set m.saves rs, suspended := dedup (m.suspended ++ [p.ctx]) }.prDone 0 0
/-- PREEMPT_STAGE2 (R216, R217): at its D1 a hamlet stops issue; when every part is still, the arena is written. -/
def preemptStage2 : Act := fun mem m =>
  match m.pre with
  | none => m
  | some p =>
    if !m.stage2Due then m
    else if m.drainedOut p then m.saveEmpty mem p
    else if m.regionsDue p then m.saveAll mem p
    else
      let due := m.stopsDue p
      let m := due.foldl (fun m e => m.stopCtx e.1 e.2) m
      { m with pre := some { p with stage := 2, stops := due.foldl (fun t e => t.set e.1 m.now) p.stops } }
/-- PREEMPT_STAGE2. -/
def execPreemptStage2 (s : State) := lift preemptStage2 s

/-! ## Restore (R152, R215, R216) -/

/-- A region can be restored on its hamlet now: a context slot, the former warp slots and pairs, and record slots are free (R216). -/
def Mach.roomBack (m : Mach) (r : Region) : Bool :=
  let x := m.ham r.ham
  let pairs := r.blocks.flatMap (fun b => b.2.pairs)
  let slots := (List.range 5).filter (fun j => !wbit (m.reg (hamReg r.ham 0x638)) j && !x.scRes.contains j)
  (x.ctxSlot r.ctx.num).isNone && x.freeCtx.isSome && m.partOf (hamParish r.ham) = some r.ctx.part &&
  r.warps.all (fun e => match x.warps.get? e.1 with | some w => w.ended | none => true) &&
  pairs.all (fun p => (x.pairs.get? p).isNone) && r.scRecords.length ≤ slots.length
/-- An engine command as a save leaves it: one that had started waits for its turn at the head of the queue, to go on from there (R152). -/
def ECmd.paused (d : ECmd) : ECmd :=
  match d.phase with
  | .running | .draining => { d with phase := .queued, resume := some d.phase }
  | _ => d
/-- Restore one region, read from the arena (R216). Logged entries are reissued, and report their faults anew (R190). -/
def Mach.restoreRegion (mem : Memory) (m : Mach) (r : Region) : Mach :=
  let h := r.ham
  let num := r.ctx.num
  let c := (m.ham h).freeCtx.getD 0
  let l : Launch := { (default : Launch) with
    ctx := num, tenant := r.ctx.tenant, occ := r.ctx.occ, queue := r.ctx.queue, weight := (m.queue r.ctx.queue).shadow.weight }
  let (d, m) := m.descriptor mem num
  let m := m.loadCtx h c l d
  let pairs := r.blocks.flatMap (fun b => b.2.pairs)
  let (_, m) := m.takePairs mem h pairs
  let word0 (w : Word) : Word := word (w.toNat - ctxField w * 2 ^ 22 + c * 2 ^ 22)
  let slots := (List.range 5).filter (fun j => !wbit (m.reg (hamReg h 0x638)) j && !(m.ham h).scRes.contains j)
  let recs := slots.zip r.scRecords
  let ws := r.warps.map (fun e => (e.1, { e.2 with log := e.2.log.map (fun y => y.again m.now) }))
  let blocks := r.blocks.map (fun b => (b.1, { b.2 with ctx := c }))
  let m := m.modHam h (fun x => { x with
    ctxs := x.ctxs.set c { x.ctxs.get default c with gen := r.ctx.gen }
    pairs := r.blocks.foldl (fun a b => b.2.pairs.foldl (fun a p => a.set p b.1) a) x.pairs
    blocks := blocks.foldl (fun a b => a.set b.1 b.2) x.blocks
    warps := ws.foldl (fun a e => a.set e.1 e.2) x.warps
    chans := r.chans.foldl (fun a e => a.set e.1 (a.get [] e.1 ++ e.2.map (fun (d : Cmd) => { d with ctx := c }))) x.chans
    sb := x.sb ++ r.sb
    eng := { x.eng with q := x.eng.q ++ r.eng.q.map (fun (d : ECmd) => { d.paused with ctx := c }), bq := x.eng.bq ++ r.bq }
    engSaved := if r.engineOwned then x.engSaved.set num { r.eng with q := [] } else x.engSaved
    qeng := x.qeng ++ r.qeng.map (fun (d : QCmd) => { d with ctx := c })
    scRes := x.scRes ++ recs.map (·.1) })
  let m := recs.foldl (fun m e => m.recordLand h e.1 ((e.2.set 0 (word0 (e.2.headD 0))))) m
  let isLog (e : FqRec) : Bool := match e.rep with | .log .. => true | _ => false
  let m := (r.fq.filter (fun e => !isLog e)).foldl (fun m e => m.fqPush h m.now { e with w0 := word0 e.w0 }) m
  let m := r.blocks.foldl (fun m b =>
    (List.range (b.2.carve / 8192)).foldl (fun m g =>
      m.store (sharedKey h b.2 (8192 * g)) (((r.shared.get [] b.1).drop (8192 * g)).take 8192)) m) m
  if (m.ham h).eng.baton.isNone ∧ (m.ham h).eng.bq ≠ [] then m.passBaton h else m
/-- The save that a region of an arena is of: what it has kept beside the region's bytes stands under its save number (R217, log 15). -/
def Mach.savedAs (m : Mach) (n h : Nat) : Option Region := (m.saved.get [] n).find? (fun r => r.ham = h)
/-- Read a region of an arena back, or say with which error the restore ends (R215): the hamlet and the offset are those of its entry in
the arena's header. A region that no save has written does not agree with its entry (DEDUCED, log 15). -/
def Mach.readRegion (mem : Memory) (m : Mach) (arena h off : Nat) : Nat × Option Region × Mach :=
  let pa := arena + off
  let q := m.partHam h
  if !m.arenaOk (pa / 4096 * 4096) (pa % 4096 + 256) then (3, none, m)
  else
    let (head, bad, m) := m.memReadN mem q pa 256 0 0 4
    if bad then (3, none, m)
    else if natAt head 0 4 ≠ h then (4, none, m)
    else match m.savedAs (natAt head 16 4) h with
      | none => (4, none, m)
      | some r =>
        if !m.arenaOk (pa / 4096 * 4096) (pa % 4096 + r.length) then (3, none, m)
        else
          let (bytes, bad, m) := m.memReadN mem q pa r.length 0 0 (r.length / 128 + 2)
          if bad then (3, none, m) else (0, some (r.fromBytes bytes), m)
/-- The entries of the header of an arena (R215): hamlet and offset of each region. A header has room for 255 entries: the regions after
them follow one another, as the save whose regions they are has laid them out (log 15). -/
def Mach.arenaEntries (m : Mach) (head : List Byte) (num : Nat) : List (Nat × Nat) :=
  let listed := (List.range (min (natAt head 4 4) 255)).map (fun i => (natAt head (0x10 + 16 * i) 4, natAt head (0x14 + 16 * i) 8))
  let rs := m.saved.get [] num
  listed ++ (((rs.zip (regionOffsets rs).1).take (natAt head 4 4)).drop 255).map (fun e => (e.1.ham, e.2))
/-- A restore reads its arena: the header and every region. An access that fails ends it with ERR 3, an arena of another context or a
region of another hamlet with ERR 4, and nothing is restored (R215). -/
def Mach.openArena (mem : Memory) (m : Mach) (p : Preempt) : Mach :=
  if !m.arenaOk p.arena 4096 then m.prDone 0 3
  else
    let (head, bad, m) := m.memReadN mem noPart p.arena 4096 0 0 33
    if bad then m.prDone 0 3
    else if natAt head 0 4 ≠ p.ctx then m.prDone 0 4
    else
      let first := leNat ((m.memReadN mem noPart (p.arena + 4096 + 16) 4 0 0 2).1)
      let (err, rs, m) := (m.arenaEntries head (if natAt head 4 4 ≤ 255 then 0 else first)).foldl
        (fun (a : Nat × List Region × Mach) e =>
          let (err, r, m) := a.2.2.readRegion mem p.arena e.1 e.2
          (max a.1 err, a.2.1 ++ r.toList, m)) (0, [], m)
      if err ≠ 0 then m.prDone 0 err
      else { m with pre := some { p with stage := 1, regions := rs.map (fun r => { r with ctx := { r.ctx with num := p.ctx } }) } }
/-- A restore that can go on now: its arena is to be read, or some region has room, or none is left. -/
def Mach.restoreDue (m : Mach) : Bool :=
  match m.pre with
  | some p => p.op = 2 && !m.anyHot && (p.stage = 0 || p.regions = [] || p.regions.any m.roomBack)
  | none => false
/-- The regions that have room are restored; with the last, the restore is done, and the suspended placement resumes (R215, R216). -/
def Mach.restoreSome (mem : Memory) (m : Mach) (p : Preempt) : Mach :=
  let (m, left) := p.regions.foldl (fun (a : Mach × List Region) r =>
    if a.1.roomBack r then (a.1.restoreRegion mem r, a.2) else (a.1, a.2 ++ [r])) (m, [])
  if left = [] then { m with suspended := m.suspended.filter (· ≠ p.ctx) }.prDone 0 0
  else { m with pre := some { p with regions := left } }
/-- A restore goes on: first its arena is read, then its regions return as they find room. -/
def Mach.restoreGoesOn (mem : Memory) (m : Mach) (p : Preempt) : Mach :=
  let m := if p.stage = 0 then m.openArena mem p else m
  match m.pre with
  | some p => m.restoreSome mem p
  | none => m
/-- PRCMD_RESTORE (R215): the request, and its going on where it waits for slots. -/
def prcmdRestore (num : Nat) : Act := fun mem m =>
  let num := num % 4096
  match m.pre with
  | some p => if p.op = 2 ∧ p.ctx = num ∧ m.restoreDue then m.restoreGoesOn mem p else m
  | none =>
    let v := m.reg (stwReg 0x3210)
    let m := m.setReg (stwReg 0x3210) ((v &&& 0x0000000E) ||| 1)
    let arena := m.regField (stwReg 0x3200) 12 20 * 4096 + m.regField (stwReg 0x3204) 0 16 * 2 ^ 32
    if !m.suspended.contains num ∧ m.residents num = [] then m.prDone 0 1
    else
      let p : Preempt := { op := 2, ctx := num, arena, pages := 0, since := m.now, stage := 0, todo := [] }
      let m := { m with pre := some p }
      if m.restoreDue then m.restoreGoesOn mem p else m
/-- PRCMD_RESTORE. -/
def execPrcmdRestore (ctx : Nat) (s : State) := lift (prcmdRestore ctx) s

end Sys2Proof.Machine
end

