-- ==== Sys2Proof/Machine/Power.lean ====
section
/-! DEFINITION. Parish governors, the power controller and the thermal freeze (R20, R236 to R238, R246, R247), and the guarded writes of
PARTOWN and CCARVE (R23, R95). -/
namespace Sys2Proof.Machine

/-! ## Governors (R20, R246, R247) -/

/-- NET.GOVx of a parish. -/
def govReg (p : Nat) : Nat := netReg (p / 10) (0x100 + 4 * (p % 10))
/-- NET.GOVSTATx of a parish. -/
def govStat (p : Nat) : Nat := netReg (p / 10) (0x140 + 4 * (p % 10))
/-- The setting after a governor's step (R246). -/
def govNext (fix : Bool) (set ceil fmin upth dnth depth : Nat) : Nat :=
  if set > ceil then set - 1
  else if fix then (if set < ceil then set + 1 else set)
  else if depth ≥ upth ∧ set < ceil then set + 1
  else if depth ≤ dnth ∧ set > fmin then set - 1
  else set
/-- Everything on its way over the network is timed again when a clock changes: the cycles that have begun by now have run at the settings
of `old` (R20, R28). -/
def Mach.retimed (old m : Mach) : Mach :=
  let left (t : Trip) : Trip := old.tripLeft (m.now * cycleUnits) t.start t.spans
  let req (l : List Req) (r : Req) : List Req := l ++ [m.timed l { r with trip := left r.trip }]
  let msg (l : List Msg) (x : Msg) : List Msg := l ++ [if x.waits.isSome then x else m.timedMsg l { x with trip := left x.trip }]
  let mail (l : List Mail) (x : Mail) : List Mail := l ++ [m.timedMail l { x with trip := left x.trip }]
  let ack (a : Ack) : Ack := { a with trip := left a.trip, due := m.tripDue (left a.trip) }
  let m : Mach := { m with
    reqs := m.reqs.foldl req [], msgs := m.msgs.foldl msg [], mails := m.mails.foldl mail [], acks := m.acks.map ack }
  m.hams.foldl (fun m e => e.2.warps.foldl (fun m w => w.2.log.foldl (fun m l =>
    if l.trips = [] || l.io then m
    else
      let l := { l with trips := l.trips.map left }
      let t := max (m.logEnd l) m.now
      let at' := max t (m.now + 1)
      let f : Pend → Pend := fun p =>
        if l.pends.contains p.id then
          { p with land := p.land.map (fun _ => at'), early := p.early.map (fun y => (y.1, if y.2 ≤ m.now then y.2 else at')) }
        else p
      let m := m.modWarp e.1 w.1 (fun x => { x with pends := x.pends.map f })
      m.modEntry e.1 w.1 l.id (fun y => { y with trips := l.trips, freeAt := y.freeAt.map (fun _ => t) })) m) m) m
/-- The moment, in units, of a parish governor's last step. -/
def Mach.govSince (m : Mach) (p : Nat) : Nat := m.govLast.get 0 p
/-- A governor steps now: 256 network cycles of its parish have run since its last step (R20, R246). -/
def Mach.govDue (m : Mach) (p : Nat) : Bool := m.govSince p + 256 * m.netPeriod p ≤ m.now * cycleUnits
/-- GOVERNOR_STEP (R20, R246), by itself every 256 network cycles of the parish: `depth` is the DEPTH measured over the last 256 network cycles, of routers whose slots no rule lays out (log 8). -/
def execGovernorStep (parish depth : Nat) (s : State) :=
  lift (fun _ m =>
    if parish ≥ 40 ∨ !m.govDue parish then m
    else
      let g := m.reg (govReg parish)
      let st := govStat parish
      let next := govNext (wbit g 31) (m.regField st 0 5) (m.regField st 8 5) (wbits g 0 5) (wbits g 16 5) (wbits g 24 5) (depth % 256)
      let m' := { m with govLast := m.govLast.set parish (m.govSince parish + 256 * m.netPeriod parish) }
      m.retimed ((m'.setField st 16 8 depth).setField st 0 5 next)) s
/-- The ceiling of a parish: FMAX lowered by what the power controller has taken, but not below FMIN (R246, R247). -/
def Mach.setCeil (m : Mach) (p low : Nat) : Mach :=
  { m with ceilLow := m.ceilLow.set p low }.setField (govStat p) 8 5 (max (m.regField (govReg p) 8 5 - low) (m.regField (govReg p) 0 5))
/-- A write of GOVx (R246): the ceiling follows FMAX. -/
def Mach.govWrite (m : Mach) (p : Nat) (v : Word) : Mach :=
  let m := m.writeReg (govReg p) v
  m.setCeil p (m.ceilLow.get 0 p)
/-- The hamlet cycles of a millisecond (R247). -/
def millisecond : Nat := 1500000
/-- The power controller steps now: a millisecond has passed since its last step (R247). -/
def Mach.powerDue (m : Mach) : Bool := m.powLast + millisecond ≤ m.now
/-- A step of the power controller with PWRNOW at `watts` (R247). -/
def Mach.powerStep (m : Mach) (watts : Nat) : Mach :=
  let m := { m with powLast := m.powLast + millisecond }.setField (netReg 0 0x94) 0 12 watts
  let w := watts % 4096
  let limit := m.regField (netReg 0 0x90) 0 12
  let ceil (p : Nat) := m.regField (govStat p) 8 5
  let fmin (p : Nat) := m.regField (govReg p) 0 5
  let fmax (p : Nat) := m.regField (govReg p) 8 5
  let all := List.range 40
  if w > limit then
    if all.all (fun p => ceil p ≤ fmin p) then { m with throttle := true }
    else all.foldl (fun m p => if ceil p > fmin p then m.setCeil p (fmax p + 1 - ceil p) else m) m
  else if 100 * w < 95 * limit ∧ !m.throttle then
    all.foldl (fun m p => m.setCeil p (fmax p - (ceil p + 1))) m
  else if w < limit then { m with throttle := false }
  else m
/-- POWER_CONTROL_TICK (R247), by itself once per millisecond: `watts` is the package power averaged over the last millisecond. -/
def execPowerControlTick (watts : Nat) (s : State) := lift (fun _ m => if m.powerDue then m.powerStep watts else m) s

/-! ## The thermal freeze (R236 to R238) -/

/-- THSTAT.FREEZE of every stack. A stack that has been HOT stays in self-refresh until the freeze ends (R237, R238; DEDUCED, log 20). -/
def Mach.setFreeze (m : Mach) (on : Bool) : Mach :=
  { (List.range 16).foldl (fun m s => m.setField (hbmReg s 4) 1 1 (if on then 1 else 0)) m with
    frozen := on, freezeEnd := none, refresh := if on then m.refresh else [] }
/-- A stack's temperature is `temp` (R236): HOT from CRIT until it is below REL. A HOT stack freezes the package; when the last has
fallen below REL the freeze has 1,024 cycles to go (R237, R238). -/
def Mach.setTemp (m : Mach) (stack temp : Nat) : Mach :=
  let t := temp % 256
  let ctl := m.reg (hbmReg stack 0)
  let m := m.setField (hbmReg stack 4) 8 8 t
  let was := m.regField (hbmReg stack 4) 0 1
  let hot := if t ≥ wbits ctl 0 8 then 1 else if t < wbits ctl 8 8 then 0 else was
  let m := m.setField (hbmReg stack 4) 0 1 hot
  if stack ≥ 16 then m
  else if hot = 1 then { m.setFreeze true with refresh := stack :: m.refresh.filter (· ≠ stack) }
  else if m.frozen ∧ was = 1 ∧ !m.anyHot then { m with freezeEnd := some (m.now + 1024) }
  else m
/-- THERMAL_HOT (R236, R237). -/
def execThermalHot (stack temp : Nat) (s : State) := lift (fun _ m => if stack < 16 then m.setTemp stack temp else m) s
/-- STACK_BELOW_REL (R236, R238). -/
def execStackBelowRel (stack temp : Nat) (s : State) := lift (fun _ m => if stack < 16 then m.setTemp stack temp else m) s
/-- A write of THCTL (R236): HOT follows the new limits. -/
def Mach.thctlWrite (m : Mach) (stack : Nat) (v : Word) : Mach :=
  let m := m.writeReg (hbmReg stack 0) v
  m.setTemp stack (m.regField (hbmReg stack 4) 8 8)
/-- The freeze ends now. -/
def Mach.freezeOver (m : Mach) : Bool := match m.freezeEnd with | some t => t ≤ m.now | none => false
/-- FREEZE_END (R238). -/
def execFreezeEnd (s : State) := lift (fun _ m => if m.freezeOver then m.setFreeze false else m) s

/-! ## PARTOWN and CCARVE (R23, R95) -/

/-- Every Commons window of the die's hamlets is disabled: it has size 0 (R86). -/
def Mach.windowsOff (m : Mach) (d : Nat) : Bool :=
  (List.range 160).all (fun i => (List.range 4).all (fun c => m.regField (hamReg (160 * d + i) (0x320 + 8 * c)) 16 11 = 0))
/-- A write of PARTOWNp (R23). -/
def Mach.partownWrite (m : Mach) (p : Nat) (v : Word) : Mach :=
  let resident := (hamsOf p).any (fun h => (m.ham h).ctxs ≠ [])
  if p ≥ 40 then m
  else if resident || !m.windowsOff (p / 10) then m.setField (stwReg 0x30A0) 0 1 1
  else m.writeReg (stwReg (0x3000 + 4 * p)) v
/-- PARTOWN_WRITE (R23). -/
def execPartownWrite (parish : Nat) (value : Word) (s : State) := lift (fun _ m => m.partownWrite parish value) s
/-- A write of SLC.CCARVE (R95): the ways that a rise takes are written back, invalidated and zeroed. -/
def Mach.ccarveWrite (mem : Memory) (m : Mach) (sl : Nat) (v : Word) : Mach :=
  if sl ≥ 320 then m
  else if !m.windowsOff (sl / 80) then { m with sliceErr := m.sliceErr.set sl (m.sliceErr.get 0 sl + 1) }
  else
    let old := m.carveOf sl
    let m' := m.writeReg (slcReg sl 0x10) v
    let new := m'.carveOf sl
    if new ≤ old then m'
    else
      let (taken, kept) := (m.slice sl).lines.partition (fun c => c.way ≥ 12 - new)
      let m' := taken.foldl (fun m c => m.writeBack mem sl c) m'
      (m'.setSlice sl { m.slice sl with lines := kept }).zero mem (keyCommons sl (old * 0x40000)) ((new - old) * 0x40000)
/-- CCARVE_WRITE (R95). -/
def execCcarveWrite (slice : Nat) (value : Word) (s : State) := lift (fun mem m => m.ccarveWrite mem slice value) s

end Sys2Proof.Machine
end

