-- ==== Sys2Proof/Machine/HostLink.lean ====
section
/-! DEFINITION. Package reset and boot (R225 to R228), the torus mailboxes (R229, R398), and the host link (R230 to R232, R239). -/
namespace Sys2Proof.Machine

/-! ## Images and keys (R225, R226) -/

/-- The digest in a key slot: 12 words, low word first (R227). -/
def Mach.keyDigest (m : Mach) (n : Nat) : List Byte :=
  wordsBytes ((List.range 12).map (fun w => m.reg (bootReg (0x200 + 0x40 * n + 4 * w))))
/-- The state of a key slot: 0 empty, 1 valid, 2 revoked (R227). -/
def Mach.keyState (m : Mach) (n : Nat) : Nat := m.regField (bootReg (0x100 + 4 * n)) 0 2
/-- Bytes of an image. -/
def Image.part (i : Image) (o n : Nat) : List Byte := (i.bytes.drop o).take n
/-- The type of an image. -/
def Image.type (i : Image) : Nat := natAt i.bytes 4 4
/-- An image is valid (R225). -/
def Mach.imageOk (m : Mach) (i : Image) : Bool :=
  let b := i.bytes
  let len := natAt b 0x10 8
  let slot := natAt b 0xC 4
  let body := i.part 2048 len
  let msg := i.part 0 0x100 ++ body
  b.length = 2048 + len && natAt b 0 4 = 0x4D49594B && 1 ≤ i.type && i.type ≤ 5 && slot ≤ 4 && len % 64 = 0 && len ≤ 2 ^ 26 &&
  natAt b 0x18 8 % 4096 = 0 && (i.part 0xE8 24).all (· == 0) && (i.part 0x70C 244).all (· == 0) &&
  beNat (i.part 0xB0 4) = lmsType && beNat (i.part 0xB4 4) = lmotsType &&
  sha384 body == i.part 0x20 48 && m.keyState slot = 1 && sha384 (i.part 0x50 152) == m.keyDigest slot &&
  ecdsaVerify (i.part 0x50 96) msg (i.part 0x100 96) && lmsVerify (i.part 0xB0 56) msg (i.part 0x160 1452) &&
  (i.type ≠ 1 || natAt b 8 4 ≥ m.regField (bootReg 4) 0 6)
/-- KEY_COMMAND_APPLY (R226): a command of 64 bytes; one that is not valid changes nothing. -/
def Mach.keyCommand (m : Mach) (i : Image) : Mach :=
  let c := i.part 2048 64
  let op := natAt c 0 1
  let v := natAt c 1 1
  let signer := natAt i.bytes 0xC 4
  let digest := (c.drop 8).take 48
  let zeros := ((c.drop 2).take 6).all (· == 0) && (c.drop 56).all (· == 0) && (op = 1 || digest.all (· == 0))
  let others := (List.range 5).filter (fun n => n ≠ v && m.keyState n = 1)
  if i.type ≠ 5 ∨ !m.imageOk i ∨ natAt i.bytes 0x10 8 ≠ 64 ∨ !zeros then m
  else match op with
    | 1 =>
      if v > 4 ∨ signer = v ∨ m.keyState v ≠ 0 then m
      else
        let m := (List.range 12).foldl (fun m w => m.setReg (bootReg (0x200 + 0x40 * v + 4 * w)) (wordAt digest (4 * w))) m
        m.setField (bootReg (0x100 + 4 * v)) 0 2 1
    | 2 => if v > 4 ∨ signer = v ∨ m.keyState v ≠ 1 ∨ others = [] then m else m.setField (bootReg (0x100 + 4 * v)) 0 2 2
    | 3 => if v > 32 then m else m.setField (bootReg 4) 0 6 (max (m.regField (bootReg 4) 0 6) v)
    | _ => m

/-! ## Reset and boot (R227, R228) -/

/-- A register that reset leaves as it is: a fuse (R227). -/
def isFuse (a : Nat) : Bool := match regPlace a with | .boot o => o = 4 || (0x100 ≤ o && o < 0x340) | _ => false
/-- The machine after reset, before its boot: fuses, flash, the media and the stacks keep what they hold; what stands in the agenda or among
the deeds is still to come from outside, and the model's own counters go on (log 21). -/
def Mach.afterReset (m : Mach) : Mach :=
  { now := m.now, clock0 := m.now, free := m.free, nextId := m.nextId, agenda := m.agenda, deeds := m.deeds, booted := true, regs := m.regs.filter (fun e => isFuse e.1)
    flashA := m.flashA, flashB := m.flashB, flashDead := m.flashDead, memDead := m.memDead, files := m.files
    poison := m.poison, flips := m.flips, corrected := m.corrected, eccErr := m.eccErr, spoiled := m.spoiled, wr := m.wr, podLast := m.now, powLast := m.now
    govLast := (List.range 40).map (fun p => (p, m.now * cycleUnits)) }
/-- An image is copied to its load address (R225, R228). -/
def Mach.loadImage (mem : Memory) (m : Mach) (i : Image) : Mach :=
  let body := i.part 2048 (natAt i.bytes 0x10 8)
  (m.memWriteN mem noPart (natAt i.bytes 0x18 8 % 2 ^ 46) body 0 0 (body.length / 128 + 2)).2
/-- The image of a type that the boot takes: copy A's, or else copy B's, that is valid (R228; for other images than the monitor DEDUCED,
log 7). -/
def Mach.bootImage (m : Mach) (type : Nat) : Option Image :=
  let first (l : List Image) : Option Image := l.find? (fun i => i.type = type && m.imageOk i)
  (first m.flashA).orElse (fun _ => first m.flashB)
/-- The cores of a layer: the Reeves run the kernel shard, the command-processor cores and the steward the front-end scheduler (R222). -/
def coresOf (type : Nat) : List Nat := (List.range 657).filter (fun c => if type = 2 then c < 640 else c ≥ 640)
/-- A core leaves reset: it enters the monitor in M mode, with its number in a0, at a time that is open (R228; log 7). -/
def Mach.release (entry : Nat) (m : Mach) (c : Nat) : Mach :=
  let (t, m) := m.someTime m.now
  { m with cores := m.cores ++ [c], cpus := m.cpus.set c (Cpu.released c (BitVec.ofNat 64 entry) t) }
/-- The monitor verifies and loads an image of a type; the cores whose image is not valid report it, each at a time that is open (R228). -/
def Mach.bootLayer (mem : Memory) (m : Mach) (type : Nat) : Mach :=
  match m.bootImage type with
  | some i => m.loadImage mem i
  | none => ((coresOf type).filter (· ≠ 0)).foldl (fun m c =>
      let (t, m) := m.someTime m.now
      { m with deeds := m.deeds ++ [(t, .report c)] }) m
/-- The Commons carves that the monitor sets (R95, R228): those of each die are open, and equal (log 7). -/
def Mach.bootCarves (mem : Memory) (m : Mach) : Mach :=
  (List.range 320).foldl (fun m s => m.ccarveWrite mem s (word (Config.bootCarve (s / 80) % 7))) m
/-- PACKAGE_RESET (R227, R228): STAGE records each step; where memory, the flash or every monitor image fails, the boot Reeve halts, and ERR says
why. What each core then does is its code's. -/
def packageReset : Act := fun mem m =>
  let stage (m : Mach) (n : Nat) : Mach := m.setField (bootReg 0) 0 8 n
  let halt (m : Mach) (err : Nat) : Mach := { m.setField (bootReg 0) 8 8 err with cores := [] }
  let m := m.afterReset
  if m.memDead then halt m 3
  else
    let m := stage (m.setReg (bootReg 8) (word ((2 ^ 40 - 2 ^ 30) / 2 ^ 16))) 1
    if m.flashDead then halt m 2
    else
      let m := stage (m.flashA.foldl Mach.keyCommand m) 2
      match m.bootImage 1 with
      | none => halt m 1
      | some i =>
        let m := stage (m.loadImage mem i) 3
        let m := ((m.bootLayer mem 2).bootLayer mem 4)
        let m := stage ((List.range 657).foldl (Mach.release (natAt i.bytes 0x18 8)) { m with cores := [] }) 4
        stage ((m.bootCarves mem).setField (netReg 0 0x80) 0 1 0) 5
/-- PACKAGE_RESET. -/
def execPackageReset (s : State) := lift packageReset s

/-! ## Mailboxes (R229) -/

/-- The core is a Reeve, whose place on the torus is its hamlet's. -/
def isReeve (core : Nat) : Bool := core < 640
/-- The partition whose tag a core's flits carry: that of its parish; the command-processor cores and the steward stand in none (R22). -/
def Mach.coreTag (m : Mach) (core : Nat) : Option Nat := if isReeve core then some (m.partHam core) else none
/-- The router next to which a core stands: a Reeve's is its hamlet's, another core's is open (R229; log 4). -/
def coreRouter (core : Nat) : Nat × Nat × Nat :=
  if isReeve core then hamRouter core
  else
    let r := Config.coreRouter core
    (if core < 656 then (core - 640) / 4 % 4 else r / 80 % 4, r / 8 % 10, r % 8)
/-- The journey of a mailbox message: injection, hops and bridges, ejection (R229, R398). At a core that is no Reeve it is there at the first edge of
that core's clock, up to one of its cycles later (R26, R221). -/
def Mach.mailTrip (m : Mach) (core dest : Nat) : Trip × Mach :=
  let a := coreRouter core
  let b := coreRouter dest
  let (t, m) := m.setOut (10 * a.1 + a.2.1) 4 (routeOf dest a b)
  let t := { t with spans := t.spans ++ [.net (10 * b.1 + b.2.1) 4] }
  if isReeve dest then (t, m)
  else
    let (n, m) := m.freeBelow (3 * cycleUnits / 2)
    ({ t with spans := t.spans ++ [.units n] }, m)
/-- A send (R229). -/
def Mach.mailSend (m : Mach) (core dest : Nat) : Mach :=
  let base := mailBase core
  if core > 656 ∨ wbit (m.reg (base + 0x844)) 0 then m
  else if dest > 656 then m.setField (base + 0x844) 1 1 1
  else
    let (id, m) := m.fresh
    let (trip, m) := m.mailTrip core dest
    let words := (List.range 14).map (fun i => m.reg (base + 0x808 + 4 * i))
    let x : Mail := m.timedMail m.mails { id, src := core, dst := dest, words, due := 0, trip, tag := m.coreTag core }
    let m : Mach := { m with mails := m.mails ++ [x] }
    m.setField (base + 0x844) 0 1 1
/-- MAILBOX_SEND (R229). -/
def execMailboxSend (core dest : Nat) (s : State) := lift (fun _ m => m.mailSend core dest) s
/-- The partition through which a core reaches memory (R240). -/
def Mach.corePart (m : Mach) (core : Nat) : Nat := if isReeve core then m.partHam core else noPart
/-- The message at a receiver now. -/
def Mach.mailDue (m : Mach) : Option Mail := m.mails.find? (fun x => x.due ≤ m.now)
/-- The router of a Reeve, as a slice number. -/
def reeveRouter (core : Nat) : Nat := 80 * hamDie core + 8 * hamX core + hamY core
/-- A router does not eject a message whose tag is not that of the partition that owns its parish (R22). -/
def Mach.mailBarred (m : Mach) (x : Mail) : Bool :=
  isReeve x.dst && (match x.tag with | some q => q ≠ m.partHam x.dst | none => false)
/-- MAILBOX_DELIVER (R22, R229, R237): word 1 is the count of sends delivered before this one (log 21). A message with the tag of another
partition is discarded, counted at the router, and refused to its sender (DESIGN CHOICE, log 21: no rule says how the sender learns of
it). -/
def execMailboxDeliver (id : Nat) (s : State) :=
  lift (fun mem m =>
    match m.mails.find? (fun x => x.id = id && x.due ≤ m.now) with
    | none => m
    | some x =>
      let again (m : Mach) : Mach :=
        { m with mails := updateFirst (fun y => y.id = id) (fun y => { y with due := m.now + 1 }) m.mails }
      m.orWait again fun m =>
      let m : Mach := { m with mails := m.mails.filter (fun y => y.id ≠ id) }
      let m := m.setField (mailBase x.src + 0x844) 0 1 0
      let base := mailBase x.dst
      let head := m.regField (base + 0x84C) 0 7
      let tail := m.regField (base + 0x84C) 16 7
      if m.mailBarred x then
        let r := reeveRouter x.dst
        { m with routerErr := m.routerErr.set r (m.routerErr.get 0 r + 1) }.setField (mailBase x.src + 0x844) 1 1 1
      else if (tail + 128 - head) % 128 ≥ 64 then m.setField (mailBase x.src + 0x844) 1 1 1
      else
        let count := m.sends.get 0 x.src
        let b := wordsBytes ([word x.src, word count] ++ x.words)
        let pa := (m.reg (base + 0x848)).toNat * 65536 + 64 * (tail % 64)
        let m := (m.busPut mem (m.corePart x.dst) pa b 3).2
        { m with sends := m.sends.set x.src ((count + 1) % 2 ^ 32) }.setField (base + 0x84C) 16 7 (tail + 1)) s

/-! ## The host link (R230 to R232, R239) -/

/-- Function `f`. -/
def Mach.func (m : Mach) (f : Nat) : Func := m.funcs.get {} f
/-- Change function `f`. -/
def Mach.modFunc (m : Mach) (f : Nat) (g : Func → Func) : Mach := { m with funcs := m.funcs.set f (g (m.func f)) }
/-- The boot has failed (R228). -/
def Mach.unbooted (m : Mach) : Bool := m.regField (bootReg 0) 8 8 ≠ 0
/-- The offer (R230): the defined features; without a monitor the feature registers read 0 (R228). -/
def Mach.offer (m : Mach) : Word := if m.unbooted then 0 else 0x3F
/-- FUNCTION_RESET (R230, R239): events that the host has not been sent are kept (R232). -/
def execFunctionReset (func : Nat) (s : State) :=
  lift (fun _ m => if func > 256 then m else m.modFunc func (fun x => { events := x.events, msix := x.msix })) s
/-- HOST_DOORBELL (R231). -/
def execHostDoorbell (func : Nat) (value : BitVec 64) (s : State) :=
  lift (fun mem m =>
    let x := m.func func
    let v := value.toNat
    let q := bits v 32 10
    let hseq := word v
    let own : Bool := match m.queues.get? q with
      | some y => (m.funcsOf y.steward.tenant).contains func
      | none => false
    if func > 256 then m
    else if hseq = x.lasth + 1 && own && bits v 42 22 = 0 && !x.refused then (m.modFunc func (fun x => { x with lasth := hseq })).ring mem q
    else m.modFunc func (fun x => { x with dbrej := x.dbrej + 1 })) s
/-- A function's next event can be written (R232). -/
def Mach.eventDue (m : Mach) (f : Nat) : Bool :=
  let x := m.func f
  x.events ≠ [] && 4 ≤ x.evcfg && x.evcfg ≤ 16 && (x.nextd - x.evhead).toNat < 2 ^ x.evcfg
/-- EVENT_RING_WRITE (R232, R239): the entry in host memory, and MSI-X vector 0. -/
def execEventRingWrite (func : Nat) (s : State) :=
  lift (fun _ m =>
    let x := m.func func
    match x.events with
    | [] => m
    | (kind, w2, w3) :: rest =>
      if !m.eventDue func then m
      else
        let at' := x.evbase + 16 * (x.nextd.toNat % 2 ^ x.evcfg)
        (m.stN (keyHost at') (wordsBytes [x.nextd, word (kind % 256), w2, w3])).modFunc func (fun x =>
          { x with events := rest, nextd := x.nextd + 1, msix := x.msix + 1 })) s

end Sys2Proof.Machine
end

