-- ==== Sys2Proof/Machine/Links.lean ====
section
/-! DEFINITION. The Clodor ports (R241) and the Ethernet ports (R237, R243, R244). -/
namespace Sys2Proof.Machine

/-! ## Clodor ports (R241) -/

/-- The sequence number and the virtual channel of a flit's header; the places of the two fields are PRESUMED (log 22). -/
def flitHead (b : List Byte) : Nat × Nat := (natAt b 0 2 % 4096, natAt b 1 1 / 16 % 4)
/-- A port. -/
def Mach.port (m : Mach) (p : Nat) : Port := m.ports.get {} p
/-- Change a port. -/
def Mach.modPort (m : Mach) (p : Nat) (f : Port → Port) : Mach := { m with ports := m.ports.set p (f (m.port p)) }
/-- A request from another package, in order: a read or a write of this package's memory, answered to that package on the port by which it came. What a payload
asks for is open (log 22); one that asks for nothing here has no effect. -/
def Mach.linkServe (mem : Memory) (m : Mach) (p : Nat) : Mach :=
  match (m.port p).todo with
  | [] => m
  | b :: r =>
    let next (m : Mach) : Mach :=
      { m.modPort p (fun x => { x with todo := r }) with deeds := if r = [] then m.deeds else m.deeds ++ [(m.now, .linkServe p)] }
    let again (m : Mach) : Mach := { m with deeds := m.deeds ++ [(m.now + 1, .linkServe p)] }
    m.orWait again fun m =>
      match Config.flitRequest b with
      | none => next m
      | some (write, pa, data) =>
        if pa / 2 ^ 40 ≠ m.ownPkg then next m
        else if write then next ((m.devPut mem pa data).2.sendOn p (Config.flitSource b) 1 (Config.flitOf true pa []))
        else
          let (got, m) := m.devGet mem pa data.length
          next (m.sendOn p (Config.flitSource b) 1 (Config.flitOf false pa (got.getD [])))
/-- A response from another package: the data that it brings stand in the lines that were asked for (R241; log 22). -/
def Mach.linkAnswer (m : Mach) (b : List Byte) : Mach :=
  match Config.flitResponse b with
  | none => m
  | some (pa, data) =>
    if pa ≥ 2 ^ 46 ∨ pa / 2 ^ 40 = m.ownPkg then m
    else
      { m.store pa data with remote := m.remote.map (fun r => if r.line = pa / 128 && r.asked then { r with come := true } else r) }
/-- What a payload received in order does, by its channel (R241): a request joins those of its port, a response brings its data, and the load
token goes on its way (R212). -/
def Mach.linkTake (mem : Memory) (m : Mach) (port vc : Nat) (b : List Byte) : Mach :=
  if vc = 0 then if (m.port port).todo.length = 1 then m.linkServe mem port else m
  else if vc = 1 then m.linkAnswer b
  else match Config.flitToken b with
    | some (seq, loads, requests) => { m with deeds := m.deeds ++ [(m.now, .token seq loads requests)] }
    | none => m
/-- CLODOR_FLIT_RECEIVE (R241): a flit in order whose CRC holds is acknowledged and its payload delivered on its channel; any other is
left to the sender, which resends it and every flit after it. -/
def execClodorFlitReceive (port : Nat) (flit : List Byte) (s : State) :=
  lift (fun mem m =>
    let x := m.port port
    let (seq, vc) := flitHead flit
    let b := (flit.drop 8).take 240
    if port ≥ 18 ∨ !x.up ∨ flit.length ≠ 256 ∨ flit.drop 248 ≠ crc64 (flit.take 248) ∨ seq ≠ x.rxSeq ∨ vc = 3 then m
    else
      let m := m.modPort port (fun x =>
        { x with rxSeq := (seq + 1) % 4096, acked := x.acked + 1, rx := x.rx ++ [(vc, b)], todo := if vc = 0 then x.todo ++ [b] else x.todo })
      m.linkTake mem port vc b) s
/-- The other end acknowledges the oldest flits of a port's replay buffer (R241). -/
def Mach.linkAck (m : Mach) (p n : Nat) : Mach := m.modPort p (fun x => { x with replay := x.replay.drop n })
/-- The flits of a port's replay buffer are sent again. -/
def Port.resend (x : Port) : Port := { x with sent := x.sent ++ x.replay.map (·.2) }
/-- The other end has met a flit that fails its CRC: it and every flit after it are resent (R241). -/
def Mach.linkNak (m : Mach) (p : Nat) : Mach := m.modPort p (fun x => if x.up then x.resend else x)
/-- The flits that a port keeps, numbered one after the other from the oldest that has not been acknowledged. -/
def Port.renumber (x : Port) (first : Nat) (l : List (Nat × List Byte)) : Port :=
  { x with
    txSeq := (first + l.length) % 4096
    replay := ((List.range l.length).zip l).map (fun e =>
      (e.2.1, flitBytes ((first + e.1) % 4096) (flitHead e.2.2).2 ((e.2.2.drop 8).take 240))) }
/-- LINK_PORT_DOWN (R241): the unacknowledged flits for each package that has an alternate port are resent there in order, under that port's
sequence numbers; the others stay until the port is up (DEDUCED, log 22). -/
def execLinkPortDown (port : Nat) (s : State) :=
  lift (fun _ m =>
    if port ≥ 18 then m
    else
      let old := (m.port port).replay
      let m := (m.modPort port (fun x => { x with up := false })).setField (lnkReg 4) port 1 0
      let first := match old with | e :: _ => (flitHead e.2).1 | [] => (m.port port).txSeq
      let m := m.modPort port (fun x => x.renumber first (old.filter (fun e => (m.portTo e.1).isNone)))
      old.foldl (fun m e => m.sendFlit e.1 (flitHead e.2).2 ((e.2.drop 8).take 240)) m) s
/-- LINK_PORT_UP (R241): flits that no alternate port has taken are resent. -/
def execLinkPortUp (port : Nat) (s : State) :=
  lift (fun _ m =>
    if port ≥ 18 then m
    else (m.modPort port (fun x => { x.resend with up := true })).setField (lnkReg 4) port 1 1) s

/-! ## Ethernet rings (R243) -/

/-- A register of port `p` (R244). -/
def ethReg (p off : Nat) : Nat := etxReg (0x400 * p + off)
/-- A register of ring `q` of port `p`, receive (0) or transmit (1) (R243). -/
def ringReg (p dir q off : Nat) : Nat := etxReg (0x1000 + 0x20 * (128 * p + 64 * dir + q) + off)
/-- The size of a ring, 0 where it is disabled. -/
def Mach.ringSize (m : Mach) (p dir q : Nat) : Nat :=
  let e := m.regField (ringReg p dir q 8) 0 5
  if 4 ≤ e ∧ e ≤ 12 then 2 ^ e else 0
/-- The address of the descriptor with an index. -/
def Mach.descAddr (m : Mach) (p dir q i : Nat) : Nat :=
  let base := (m.reg (ringReg p dir q 0)).toNat / 4096 * 4096 + m.regField (ringReg p dir q 4) 0 16 * 2 ^ 32
  base + 32 * (i % m.ringSize p dir q)
/-- Posted descriptors that the port owns, from HEAD on: address and content; at most `n`. -/
def Mach.owned (mem : Memory) (m : Mach) (p dir q i : Nat) : Nat → List (Nat × List Byte) × Mach
  | 0 => ([], m)
  | n + 1 =>
    if m.ringSize p dir q = 0 ∨ word i = m.reg (ringReg p dir q 0xC) then ([], m)
    else
      let a := m.descAddr p dir q i
      match m.devGet mem a 32 with
      | (some b, m) =>
        if (natAt b 0xC 4).testBit 0 then let (r, m) := m.owned mem p dir q (i + 1) n; ((a, b) :: r, m) else ([], m)
      | (none, m) => ([], m)
/-- Finish a descriptor: length, OWN clear, EOP, status and receive hash (R243). -/
def Mach.finishDesc (mem : Memory) (m : Mach) (a : Nat) (d : List Byte) (len hash status : Nat) (eop : Bool) : Mach :=
  let flags := (if eop then 2 else 0) + 256 * (status % 256)
  (m.devPut mem a (d.take 8 ++ leBytes 4 len ++ leBytes 4 flags ++ leBytes 4 hash ++ leBytes 12 0)).2
/-- HEAD advances. -/
def Mach.advanceHead (m : Mach) (p dir q n : Nat) : Mach :=
  m.setReg (ringReg p dir q 0x10) (m.reg (ringReg p dir q 0x10) + word n)

/-! ## Reception (R237, R243, R244) -/

/-- The Toeplitz hash of an input under a 320-bit key (R243, R244). -/
def toeplitz (key : Nat) (input : List Byte) : Nat :=
  let n := beNat input
  let len := 8 * input.length
  (List.range len).foldl (fun h i => if n.testBit (len - 1 - i) then h ^^^ bits key (288 - i) 32 else h) 0
/-- The key of a port, its bytes in ascending order (R244). -/
def Mach.rssKey (m : Mach) (p : Nat) : Nat := beNat (wordsBytes ((List.range 10).map (fun w => m.reg (ethReg p (0x40 + 4 * w)))))
/-- The EtherType of a frame and where its payload begins, behind VLAN tags; at most `n`. -/
def etherType (f : List Byte) : Nat → Nat → Nat × Nat
  | 0, o => (beNat ((f.drop o).take 2), o + 2)
  | n + 1, o =>
    let t := beNat ((f.drop o).take 2)
    if t = 0x8100 ∨ t = 0x88A8 then etherType f n (o + 4) else (t, o + 2)
/-- The protocol that an IPv6 packet carries and where it begins, behind extension headers; none in a fragment. At most `n` headers. -/
def ipv6Proto (f : List Byte) : Nat → Nat → Nat → Option (Nat × Nat)
  | 0, _, _ => none
  | n + 1, proto, o =>
    if proto = 0 ∨ proto = 43 ∨ proto = 60 then ipv6Proto f n (natAt f o 1) (o + 8 + 8 * natAt f (o + 1) 1)
    else if proto = 51 then ipv6Proto f n (natAt f o 1) (o + 8 + 4 * natAt f (o + 1) 1)
    else if proto = 44 then
      (if beNat ((f.drop (o + 2)).take 2) / 8 ≠ 0 ∨ (natAt f (o + 3) 1).testBit 0 then none else ipv6Proto f n (natAt f o 1) (o + 8))
    else some (proto, o)
/-- The hash input of a frame under HTYPE, if it is hashed (R244). It is sought behind VLAN tags and IPv6 extension headers (DEDUCED, log 22). -/
def hashInput (htype : Nat) (f : List Byte) : Option (List Byte) :=
  let (et, o) := etherType f 8 12
  let ports (proto : Nat) (o : Nat) : List Byte :=
    if (proto = 6 ∧ htype.testBit 2) ∨ (proto = 17 ∧ htype.testBit 3) then (f.drop o).take 4 else []
  if et = 0x0800 ∧ htype.testBit 0 then
    let frag := beNat ((f.drop (o + 6)).take 2) % 2 ^ 14 ≠ 0
    let l4 := o + 4 * (natAt f o 1 % 16)
    some ((f.drop (o + 12)).take 8 ++ if frag then [] else ports (natAt f (o + 9) 1) l4)
  else if et = 0x86DD ∧ htype.testBit 1 then
    some ((f.drop (o + 8)).take 32 ++ match ipv6Proto f 16 (natAt f (o + 6) 1) (o + 40) with | some (p, o) => ports p o | none => [])
  else none
/-- The receive ring and the receive hash of a frame (R244). -/
def Mach.steer (m : Mach) (p : Nat) (f : List Byte) : Nat × Nat :=
  let ctl := m.reg (ethReg p 8)
  match if wbit ctl 4 then hashInput (wbits ctl 8 4) f else none with
  | some b =>
    let h := toeplitz (m.rssKey p) b
    (m.regField (ethReg p (0x100 + 4 * (h % 128))) 0 6, h)
  | none => (wbits ctl 16 6, 0)
/-- The filter accepts a frame (R244). -/
def Mach.accepts (m : Mach) (p : Nat) (f : List Byte) : Bool :=
  let ctl := m.reg (ethReg p 8)
  let dst := f.take 6
  let mac := leBytes 4 (m.reg (ethReg p 0)).toNat ++ leBytes 2 (m.reg (ethReg p 4)).toNat
  14 ≤ f.length && f.length ≤ 9216 &&
  (dst == mac || (wbit ctl 2 && dst.all (· == 0xFF)) || (wbit ctl 3 && (natAt f 0 1) % 2 = 1) || wbit ctl 1)
/-- Split a frame over descriptors by their lengths: pairs of a descriptor and its bytes; none where they do not hold it. -/
def spread : List (Nat × List Byte) → List Byte → Option (List ((Nat × List Byte) × List Byte))
  | _, [] => some []
  | [], _ => none
  | d :: r, f =>
    let n := natAt d.2 8 4
    (spread r (f.drop n)).map (fun t => (d, f.take n) :: t)
/-- ETH_FRAME_DROP (R244). -/
def Mach.ethDrop (m : Mach) (p : Nat) : Mach := m.setReg (ethReg p 0x10) (m.reg (ethReg p 0x10) + 1)
/-- Take a received frame (R243, R244): data first, then the descriptors. -/
def Mach.ethTake (mem : Memory) (m : Mach) (p : Nat) (f : List Byte) : Mach :=
  if !wbit (m.reg (ethReg p 8)) 0 then m
  else if !m.accepts p f then m.ethDrop p
  else
    let (q, hash) := m.steer p f
    let head := (m.reg (ringReg p 0 q 0x10)).toNat
    let (mine, m) := m.owned mem p 0 q head (min (m.ringSize p 0 q) (f.length + 1))
    match spread mine f with
    | none => m.ethDrop p
    | some ds =>
      let (m, good) := ds.foldl (fun (a : Mach × List Bool) d =>
        let (ok, m) := a.1.devPut mem (natAt d.1.2 0 8) d.2
        (m, a.2 ++ [ok])) (m, [])
      let last := ds.length - 1
      let m := (List.range ds.length).foldl (fun m i =>
        let d := ds.getD i ((0, []), [])
        let (bad, m) := m.freeBelow (if good.getD i true then 1 else 255)
        m.finishDesc mem d.1.1 d.1.2 d.2.length hash (if good.getD i true then 0 else bad + 1) (i = last)) m
      m.advanceHead p 0 q ds.length
/-- The PAUSE frame of a port (R237; IEEE 802.3 annex 31B, PRESUMED, log 22). -/
def Mach.pauseFrame (m : Mach) (p : Nat) : List Byte :=
  [0x01, 0x80, 0xC2, 0x00, 0x00, 0x01] ++ leBytes 4 (m.reg (ethReg p 0)).toNat ++ leBytes 2 (m.reg (ethReg p 4)).toNat ++ [0x88, 0x08] ++
  [0x00, 0x01, 0xFF, 0xFF] ++ leBytes 42 0
/-- A port sends a frame. -/
def Mach.ethSend (m : Mach) (p : Nat) (f : List Byte) : Mach := { m with ethOut := m.ethOut.set p (m.ethOut.get [] p ++ [f]) }
/-- A frame is MAC control, which the port takes itself. -/
def macControl (f : List Byte) : Bool := 18 ≤ f.length && beNat ((f.drop 12).take 2) = 0x8808
/-- PAUSE and priority flow control hold back the transmission of the priorities that they name, for their counts of 512 bit times at 1.6 Tb/s;
how many cycles such a count takes is open (R243; log 22). -/
def Mach.ethControl (m : Mach) (p : Nat) (f : List Byte) : Mach :=
  let hold (m : Mach) (i quanta : Nat) : Mach :=
    let (n, m) := m.freeBelow (quanta + 1)
    { m with ethPause := m.ethPause.set (8 * p + i) (m.now + n) }
  match beNat ((f.drop 14).take 2) with
  | 0x0001 => (List.range 8).foldl (fun m i => hold m i (beNat ((f.drop 16).take 2))) m
  | 0x0101 => (List.range 8).foldl (fun m i =>
      if (natAt f 17 1).testBit i then hold m i (beNat ((f.drop (18 + 2 * i)).take 2)) else m) m
  | _ => m
/-- A frame at a port: where a stack holds back what it writes, it waits in the port's buffer, and the frames behind it too; a buffer more than
half full, whose size is open, sends PAUSE (R237; log 22). -/
def Mach.ethFrame (mem : Memory) (m : Mach) (p : Nat) (f : List Byte) : Mach :=
  let again (m : Mach) : Mach :=
    let (k, m) := m.freeBelow 2
    (if k = 0 then m else m.ethSend p (m.pauseFrame p)).schedule (m.now + 1) (.ethFrameReceive p f)
  let next (m : Mach) : Mach :=
    match m.ethIn.get [] p with
    | [] => m
    | g :: r => { m with ethIn := m.ethIn.set p r }.schedule m.now (.ethFrameReceive p g)
  if macControl f then next (m.ethControl p f) else m.orWait again (fun m => next (m.ethTake mem p f))
/-- ETH_FRAME_RECEIVE (R237, R243, R244). -/
def execEthFrameReceive (port : Nat) (frame : List Byte) (s : State) :=
  lift (fun mem m =>
    let busy : Bool := m.timers.any (fun e => match e.2 with | .ethFrameReceive p _ => p = port | _ => false)
    if port ≥ 4 then m
    else if busy then { m with ethIn := m.ethIn.set port (m.ethIn.get [] port ++ [frame]) }
    else m.ethFrame mem port frame) s

/-! ## Transmission (R243, R244) -/

/-- The descriptors of the next frame of a transmit ring, as far as its EOP. -/
def upToEop : List (Nat × List Byte) → Option (List (Nat × List Byte))
  | [] => none
  | d :: r => if (natAt d.2 0xC 4).testBit 1 then some [d] else (upToEop r).map (d :: ·)
/-- The priority of a frame, by the tag that it begins with (PRESUMED, log 22). -/
def framePrio (f : List Byte) : Nat := if beNat ((f.drop 12).take 2) = 0x8100 then natAt f 14 1 / 32 else 0
/-- A transmit ring of an enabled port has a frame to send. -/
def Mach.txFrame (mem : Memory) (m : Mach) (p q : Nat) : Option (List (Nat × List Byte)) :=
  if p ≥ 4 ∨ q ≥ 64 ∨ !wbit (m.reg (ethReg p 0xC)) 0 ∨ m.now < m.txWait.get 0 (64 * p + q) then none
  else upToEop (m.owned mem p 1 q (m.reg (ringReg p 1 q 0x10)).toNat (m.ringSize p 1 q)).1
/-- ETH_FRAME_TRANSMIT (R237, R243, R244): a frame that cannot be read or is too long is finished with an error status (log 22); one whose
priority is held back waits in its ring. -/
def execEthFrameTransmit (port ring : Nat) (s : State) :=
  lift (fun mem m =>
    match m.txFrame mem port ring with
    | none => m
    | some ds =>
      let later (t : Nat) (m : Mach) : Mach := { m with txWait := m.txWait.set (64 * port + ring) t }
      m.orWait (later (m.now + 1)) fun m =>
      let (parts, m) := ds.foldl (fun (a : List (Option (List Byte)) × Mach) d =>
        let (b, m) := a.2.devGet mem (natAt d.2 0 8) (natAt d.2 8 4)
        (a.1 ++ [b], m)) ([], m)
      let frame := parts.flatMap (fun b => b.getD [])
      let good : Bool := parts.all (·.isSome) && frame.length ≤ 9216
      let until' := m.ethPause.get 0 (8 * port + framePrio frame)
      if m.now < until' then later until' m
      else
      let (bad, m) := m.freeBelow (if good then 1 else 255)
      let last := ds.length - 1
      let m := (List.range ds.length).foldl (fun m i =>
        let d := ds.getD i (0, [])
        m.finishDesc mem d.1 d.2 (natAt d.2 8 4) 0 (if good then 0 else bad + 1) (i = last)) m
      (if good then m.ethSend port frame else m).advanceHead port 1 ring ds.length) s
/-- The transmit rings whose TAIL has been written, as port and ring. -/
def Mach.txRings (m : Mach) : List (Nat × Nat) :=
  m.regs.filterMap (fun e => match regPlace e.1 with
    | .etx o =>
      let n := (o - 0x1000) / 0x20
      if 0x1000 ≤ o ∧ o < 0x5000 ∧ o % 0x20 = 0xC ∧ n % 128 ≥ 64 then some (n / 128, n % 64) else none
    | _ => none)
/-- The next transmit ring with a frame to send: no rule orders the rings (log 22). -/
def Mach.txDue (mem : Memory) (m : Mach) : Option (Nat × Nat) := m.txRings.find? (fun e => (m.txFrame mem e.1 e.2).isSome)

end Sys2Proof.Machine
end

