-- ==== Sys2Proof/Machine/NvmeUnit.lean ====
section
/-! DEFINITION. The NVMe module (R245, R285, R286). What these rules take from NVM Express Base 2.0 and the NVM Command Set 1.0 by
reference is PRESUMED (log 16). -/
namespace Sys2Proof.Machine

/-! ## Status values (R285: SC in bits [7:0], SCT in [10:8]; PRESUMED, log 16) -/

/-- Successful Completion. -/
def nvOk : Nat := 0x000
/-- Invalid Command Opcode. -/
def nvOpcode : Nat := 0x001
/-- Invalid Field in Command. -/
def nvField : Nat := 0x002
/-- Data Transfer Error. -/
def nvTransfer : Nat := 0x004
/-- Invalid Namespace or Format. -/
def nvNamespace : Nat := 0x00B
/-- LBA Out of Range. -/
def nvRange : Nat := 0x080
/-- Completion Queue Invalid. -/
def nvCq : Nat := 0x100
/-- Invalid Queue Identifier. -/
def nvQid : Nat := 0x101
/-- Invalid Queue Size. -/
def nvSize : Nat := 0x102
/-- Invalid Log Page. -/
def nvLog : Nat := 0x109
/-- Invalid Queue Deletion. -/
def nvDelete : Nat := 0x10C
/-- Feature Identifier Not Saveable. -/
def nvSave : Nat := 0x10D
/-- Unrecovered Read Error. -/
def nvRead : Nat := 0x281

/-! ## Data pointers (R245: PRPs only) -/

/-- The pages of a PRP list, for `n` bytes still to go, as far as it can be read, and whether all of it could; the last entry of a full page
names the next page of the list. -/
def Mach.prpList (mem : Memory) (m : Mach) : Nat → Nat → Nat → List (Nat × Nat) × Bool × Mach
  | 0, _, _ => ([], true, m)
  | fuel + 1, at', n =>
    if n = 0 then ([], true, m)
    else match m.devGet mem at' 8 with
      | (none, m) => ([], false, m)
      | (some b, m) =>
        let e := leNat b
        if at' % 4096 = 4088 ∧ n > 4096 then m.prpList mem fuel e n
        else
          let (r, ok, m) := m.prpList mem fuel (at' + 8) (n - min n 4096)
          ((e, min n 4096) :: r, ok, m)
/-- The pieces of memory of a command's data that its PRPs name, and whether they could all be read. -/
def Mach.pieces (mem : Memory) (m : Mach) (prp1 prp2 n : Nat) : List (Nat × Nat) × Bool × Mach :=
  let first := min n (4096 - prp1 % 4096)
  let rest := n - first
  if rest = 0 then ([(prp1, first)], true, m)
  else if rest ≤ 4096 then ([(prp1, first), (prp2, rest)], true, m)
  else
    let (r, ok, m) := m.prpList mem (2 * (rest / 4096) + 4) prp2 rest
    ((prp1, first) :: r, ok, m)
/-- The pieces of memory of a command's data. -/
def Mach.prps (mem : Memory) (m : Mach) (prp1 prp2 n : Nat) : Option (List (Nat × Nat)) × Mach :=
  let (l, ok, m) := m.pieces mem prp1 prp2 n
  (if ok then some l else none, m)
/-- Write data to the pieces; false where one faults. -/
def Mach.scatter (mem : Memory) (m : Mach) : List (Nat × Nat) → List Byte → Bool × Mach
  | [], _ => (true, m)
  | (pa, n) :: r, b =>
    let (ok, m) := m.devPut mem pa (b.take n)
    let (ok', m) := m.scatter mem r (b.drop n)
    (ok && ok', m)
/-- Read the data of the pieces. -/
def Mach.gather (mem : Memory) (m : Mach) : List (Nat × Nat) → Option (List Byte) × Mach
  | [] => (some [], m)
  | (pa, n) :: r =>
    let (b, m) := m.devGet mem pa n
    let (t, m) := m.gather mem r
    (b.bind (fun x => t.map (x ++ ·)), m)
/-- Send a structure to the host's buffer. -/
def Mach.sendData (mem : Memory) (m : Mach) (prp1 prp2 : Nat) (b : List Byte) : Nat × Mach :=
  match m.prps mem prp1 prp2 b.length with
  | (none, m) => (nvTransfer, m)
  | (some l, m) => let (ok, m) := m.scatter mem l b; (if ok then nvOk else nvTransfer, m)

/-! ## I/O commands (R245, R285, R286) -/

/-- The bytes that a failed Read leaves: each the old one or the block's (R286). -/
def Mach.mixed (m : Mach) : List Byte → List Byte → List Byte × Mach
  | o :: os, n :: ns =>
    let (k, m) := m.freeBelow 2
    let (r, m) := m.mixed os ns
    ((if k = 1 then n else o) :: r, m)
  | _, _ => ([], m)
/-- The bytes of a failed Read in one piece of its buffer: each stays or takes the block's, where it can be written; of a line with a word that
fails its check, all stay or all take the block's (R286; log 16). -/
def Mach.mixPiece (mem : Memory) (m : Mach) (pa : Nat) (b : List Byte) : Nat → Mach
  | 0 => m
  | k + 1 =>
    if b = [] then m
    else
      let j := min b.length (128 - pa % 128)
      match m.devGet mem pa j with
      | (some old, m) =>
        let (mix, m) := m.mixed old (b.take j)
        (m.devPut mem pa mix).2.mixPiece mem (pa + j) (b.drop j) k
      | (none, m) =>
        let (n, m) := m.freeBelow 2
        (if n = 1 then (m.devPut mem pa (b.take j)).2 else m).mixPiece mem (pa + j) (b.drop j) k
/-- The buffer of a Read that fails (R286). -/
def Mach.mixAll (mem : Memory) (m : Mach) : List (Nat × Nat) → List Byte → Mach
  | [], _ => m
  | (pa, n) :: r, b => (m.mixPiece mem pa (b.take n) (n / 128 + 2)).mixAll mem r (b.drop n)
/-- Blocks of the media, as far as they exist. -/
def Mach.mediaRead (mem : Memory) (m : Mach) (lba n : Nat) : List Byte := m.rdN mem (keyNvm (4096 * lba)) (4096 * min n (2 ^ 33 - lba))
/-- A Read that fails: each byte of its buffer, where the pieces of the buffer are known, holds its old value or the block's (R286). An SGL
that is one data block names its buffer too (PRESUMED, log 16). -/
def Mach.failRead (mem : Memory) (m : Mach) (c : List Byte) (status : Nat) : Nat × Mach :=
  let lba := natAt c 0x28 8
  let n := natAt c 0x30 2 + 1
  let (l, _, m) : List (Nat × Nat) × Bool × Mach :=
    if natAt c 1 1 / 64 ≠ 0 then (if natAt c 0x27 1 = 0 then [(natAt c 0x18 8, min (natAt c 0x20 4) (4096 * n))] else [], true, m)
    else m.pieces mem (natAt c 0x18 8) (natAt c 0x20 8) (4096 * n)
  (status, m.mixAll mem l (m.mediaRead mem lba n))
/-- Zero blocks of the media. -/
def Mach.mediaZero (mem : Memory) (m : Mach) (lba n : Nat) : Mach := m.zero mem (keyNvm (4096 * lba)) (4096 * n)
/-- Dataset Management: each range of a deallocation reads zero afterwards (PRESUMED, log 16). -/
def Mach.deallocate (mem : Memory) (m : Mach) (b : List Byte) (n : Nat) : Mach :=
  (List.range n).foldl (fun m i => m.mediaZero mem (natAt b (16 * i + 8) 8) (natAt b (16 * i + 4) 4)) m
/-- An I/O command: its status. Whether the media can be read is open: a Read may fail (R286). -/
def Mach.ioCommand (mem : Memory) (m : Mach) (c : List Byte) : Nat × Mach :=
  let op := natAt c 0 1
  let lba := natAt c 0x28 8
  let n := natAt c 0x30 2 + 1
  let inRange := lba + n ≤ 2 ^ 33
  let prp1 := natAt c 0x18 8
  let prp2 := natAt c 0x20 8
  let fail (status : Nat) (m : Mach) : Nat × Mach := if op = 2 then m.failRead mem c status else (status, m)
  if op ≠ 0 ∧ op ≠ 1 ∧ op ≠ 2 ∧ op ≠ 8 ∧ op ≠ 9 then (nvOpcode, m)
  else if natAt c 1 1 / 64 ≠ 0 then fail nvField m
  else if natAt c 4 4 ≠ 1 ∧ !(op = 0 ∧ natAt c 4 4 = 0xFFFFFFFF) then fail nvNamespace m
  else if (op = 1 ∨ op = 2 ∨ op = 8) ∧ !inRange then fail nvRange m
  else match op with
    | 0 => (nvOk, m)
    | 8 => (nvOk, m.mediaZero mem lba n)
    | 1 =>
      match m.prps mem prp1 prp2 (4096 * n) with
      | (none, m) => (nvTransfer, m)
      | (some l, m) => match m.gather mem l with
        | (some b, m) => (nvOk, m.store (keyNvm (4096 * lba)) b)
        | (none, m) => (nvTransfer, m)
    | 2 =>
      match m.prps mem prp1 prp2 (4096 * n) with
      | (none, m) => fail nvTransfer m
      | (some l, m) =>
        let (bad, m) := m.freeBelow 2
        if bad = 1 then fail nvRead m
        else
          let (ok, m') := m.scatter mem l (m.mediaRead mem lba n)
          if ok || m'.stuck then (nvOk, m') else fail nvTransfer m
    | _ =>
      let k := natAt c 0x28 1 + 1
      match m.prps mem prp1 prp2 (16 * k) with
      | (none, m) => (nvTransfer, m)
      | (some l, m) => match m.gather mem l with
        | (some b, m) =>
          if (List.range k).any (fun i => natAt b (16 * i + 8) 8 + natAt b (16 * i + 4) 4 > 2 ^ 33) then (nvRange, m)
          else (nvOk, if (natAt c 0x2C 4).testBit 2 then m.deallocate mem b k else m)
        | (none, m) => (nvTransfer, m)

/-! ## Admin commands (R245; log 16) -/

/-- A structure of Identify: 4,096 bytes, 0 where nothing is given. -/
def page (b : List Byte) : List Byte := (b ++ leBytes 4096 0).take 4096
/-- The structures of Identify, for a namespace and a command set (NVM, 0): the namespace, the controller, the list of active namespaces,
the namespace's descriptors (its UUID, which no rule gives, and its command set), those of the NVM command set, the namespace independent
of a command set, the combinations of command sets; or the status of a refusal. -/
def identify (cns nsid csi : Nat) : Except Nat (List Byte) :=
  let ns (b : List Byte) : Except Nat (List Byte) := if nsid = 1 then .ok (page b) else .error nvNamespace
  let set (x : Except Nat (List Byte)) : Except Nat (List Byte) := if csi = 0 then x else .error nvField
  let list : Except Nat (List Byte) := if nsid ≥ 0xFFFFFFFE then .error nvNamespace else .ok (page (if nsid = 0 then leBytes 4 1 else []))
  match cns with
  | 0x00 => ns (leBytes 8 (2 ^ 33) ++ leBytes 8 (2 ^ 33) ++ leBytes 8 (2 ^ 33) ++ leBytes 104 0 ++ leBytes 4 (12 * 2 ^ 16))
  | 0x01 => .ok (page (leBytes 80 0 ++ leBytes 4 0x00020000 ++ leBytes 27 0 ++ [1] ++ leBytes 400 0 ++ [0x66, 0x44] ++ leBytes 2 0 ++
      leBytes 4 1 ++ leBytes 2 0x000C))
  | 0x02 => list
  | 0x03 => ns ([3, 16, 0, 0] ++ (List.range 16).map (fun i => BitVec.ofNat 8 (Config.nvmeUuid i)) ++ [4, 1, 0, 0, 0])
  | 0x05 => set (ns [])
  | 0x06 => set (.ok (page []))
  | 0x07 => set list
  | 0x08 => ns (leBytes 14 0 ++ [1])
  | 0x1C => .ok (page [1])
  | _ => .error nvField
/-- The Error Information log page: newest first (R245). -/
def Nvme.errorPage (n : Nvme) (len : Nat) : List Byte :=
  let count := n.errlog.length
  let entry (i : Nat) : List Byte :=
    let e := n.errlog.getD (count - 1 - i) (0, 0)
    leBytes 8 (count - i) ++ leBytes 2 e.1 ++ leBytes 30 0 ++ leBytes 8 e.2 ++ leBytes 16 0
  (((List.range (min count 64)).flatMap entry) ++ leBytes len 0).take len
/-- A page of 4-byte entries, of which those with a number in the list hold 1. -/
def marked (n : Nat) (l : List Nat) : List Byte := (List.range n).flatMap (fun i => leBytes 4 (if l.contains i then 1 else 0))
/-- `n` bytes that no rule gives. -/
def Mach.freeBytes (m : Mach) : Nat → List Byte × Mach
  | 0 => ([], m)
  | n + 1 =>
    let (v, m) := m.freeBelow 256
    let (r, m) := m.freeBytes n
    (BitVec.ofNat 8 v :: r, m)
/-- The feature identifiers that the controller has: those that an I/O controller must have. -/
def featureIds : List Nat := [1, 2, 4, 5, 7, 8, 9, 10, 11]
/-- A log page: supported pages, errors, health and firmware slots, whose contents no rule gives, commands, features, management. -/
def Mach.logPage (m : Mach) (id : Nat) : Option (List Byte) × Mach :=
  match id with
  | 0x00 => (some (marked 256 [0, 1, 2, 3, 5, 0x12, 0x13]), m)
  | 0x01 => (some (m.nvme.errorPage 4096), m)
  | 0x02 => let (b, m) := m.freeBytes 512; (some b, m)
  | 0x03 => let (b, m) := m.freeBytes 512; (some b, m)
  | 0x05 => (some (marked 256 [0, 1, 2, 4, 5, 6, 8, 9, 10] ++ marked 256 [0, 1, 2, 8, 9] ++ leBytes 2048 0), m)
  | 0x12 => (some (marked 256 featureIds), m)
  | 0x13 => (some (leBytes 1024 0), m)
  | _ => (none, m)
/-- The value of a feature that has not been set: one that no rule gives, the same each time it is read. -/
def Mach.featureDefault (m : Mach) (fid : Nat) : Word × Mach :=
  match m.nvme.features.get? (256 + fid) with
  | some v => (v, m)
  | none => let (v, m) := m.freeWord; (v, { m with nvme := { m.nvme with features := m.nvme.features.set (256 + fid) v } })
/-- The number of queues that are allocated: 64 of each kind, as 0-based counts. -/
def queueCount : Word := 0x003F003F
/-- Get Features: the current value, the default or saved one, or whether the value can be changed. -/
def Mach.getFeature (m : Mach) (c : List Byte) : Word × Nat × Mach :=
  let fid := natAt c 0x28 1
  if !featureIds.contains fid then (0, nvField, m)
  else if fid = 7 then (queueCount, nvOk, m)
  else match natAt c 0x29 1 % 8 with
    | 0 =>
      (match m.nvme.features.get? fid with
      | some v => (v, nvOk, m)
      | none => let (v, m) := m.featureDefault fid; (v, nvOk, m))
    | 3 => (4, nvOk, m)
    | _ => let (v, m) := m.featureDefault fid; (v, nvOk, m)
/-- Set Features: no value is saved. -/
def Mach.setFeature (m : Mach) (c : List Byte) : Word × Nat × Mach :=
  let fid := natAt c 0x28 1
  if !featureIds.contains fid then (0, nvField, m)
  else if (natAt c 0x28 4).testBit 31 then (0, nvSave, m)
  else if fid = 7 then (queueCount, nvOk, m)
  else (0, nvOk, { m with nvme := { m.nvme with features := m.nvme.features.set fid (word (natAt c 0x2C 4)) } })
/-- An admin command: its DW0 and its status. -/
def Mach.adminCommand (mem : Memory) (m : Mach) (c : List Byte) : Word × Nat × Mach :=
  let n := m.nvme
  let op := natAt c 0 1
  let prp1 := natAt c 0x18 8
  let prp2 := natAt c 0x20 8
  let qid := natAt c 0x28 2
  let size := natAt c 0x2A 2 + 1
  let contiguous : Bool := natAt c 0x2C 1 % 2 = 1
  let st (s : Nat) (m : Mach) : Word × Nat × Mach := (0, s, m)
  if !([0, 1, 2, 4, 5, 6, 8, 9, 10].contains op) then st nvOpcode m
  else if natAt c 1 1 / 64 ≠ 0 then st nvField m
  else match op with
    | 0x00 => if qid = 0 ∨ (n.sqs.get? qid).isNone then st nvQid m else st nvOk { m with nvme := { n with sqs := n.sqs.erase qid } }
    | 0x01 =>
      let cq := natAt c 0x2E 2
      if qid = 0 ∨ qid > 64 ∨ (n.sqs.get? qid).isSome then st nvQid m
      else if size < 2 ∨ size > 4096 then st nvSize m
      else if cq = 0 ∨ (n.cqs.get? cq).isNone then st nvCq m
      else if !contiguous then st nvField m
      else st nvOk { m with nvme := { n with sqs := n.sqs.set qid { base := prp1, size, cq } } }
    | 0x02 =>
      let len := 4 * (natAt c 0x2A 2 + 2 ^ 16 * natAt c 0x2C 2 + 1)
      let off := natAt c 0x30 8
      (match m.logPage (natAt c 0x28 1) with
      | (none, m) => st nvLog m
      | (some b, m) =>
        if off > b.length ∨ off % 4 ≠ 0 then st nvField m
        else let (s, m) := m.sendData mem prp1 prp2 ((b.drop off ++ leBytes len 0).take len); st s m)
    | 0x04 =>
      if qid = 0 ∨ (n.cqs.get? qid).isNone then st nvQid m
      else if n.sqs.any (fun e => e.2.cq = qid) then st nvDelete m
      else st nvOk { m with nvme := { n with cqs := n.cqs.erase qid } }
    | 0x05 =>
      if qid = 0 ∨ qid > 64 ∨ (n.cqs.get? qid).isSome then st nvQid m
      else if size < 2 ∨ size > 4096 then st nvSize m
      else if !contiguous then st nvField m
      else st nvOk { m with nvme := { n with cqs := n.cqs.set qid { base := prp1, size } } }
    | 0x06 =>
      (match identify (natAt c 0x28 1) (natAt c 4 4) (natAt c 0x2F 1) with
      | .ok b => let (s, m) := m.sendData mem prp1 prp2 b; st s m
      | .error e => st e m)
    | 0x08 => (1, nvOk, m)
    | 0x09 => m.setFeature c
    | _ => m.getFeature c

/-! ## Queues and doorbells (R245, R285) -/

/-- A completion queue has no free entry. -/
def NvmeCq.full (q : NvmeCq) : Bool := (q.tail + 1) % q.size = q.head
/-- A submission queue has a command to fetch and an entry for its completion. -/
def Mach.nvmeReadyFor (m : Mach) (qid : Nat) : Bool :=
  m.nvme.rdy && (match m.nvme.sqs.get? qid with
    | some p => p.head ≠ p.tail && (match m.nvme.cqs.get? p.cq with | some c => !c.full | none => false)
    | none => false)
/-- When a queue's next command completes is open (log 4). -/
def Mach.nvmeKick (m : Mach) (qid : Nat) : Mach :=
  if m.nvmeReadyFor qid && !m.timers.any (fun e => e.2 == .nvmeCommandComplete qid) then
    let (t, m) := m.someTime (m.now + 1)
    m.schedule t (.nvmeCommandComplete qid)
  else m
/-- Every submission queue that posts to a completion queue may go on. -/
def Mach.nvmeKickAll (m : Mach) (cq : Nat) : Mach := (m.nvme.sqs.filter (fun e => e.2.cq = cq)).foldl (fun m e => m.nvmeKick e.1) m
/-- NVME_DOORBELL (R245): an invalid value or queue is logged, and nothing else happens. -/
def execNvmeDoorbell (off : Nat) (value : Word) (s : State) :=
  lift (fun _ m =>
    let qid := (off - 0x1000) / 8
    let v := value.toNat
    let n := m.nvme
    let bad : Mach := { m with nvme := { n with errlog := n.errlog ++ [(qid, v)] } }
    if off < 0x1000 ∨ off % 4 ≠ 0 then m
    else if (off - 0x1000) % 8 = 4 then
      match n.cqs.get? qid with
      | none => bad
      | some c => if v ≥ c.size then bad else { m with nvme := { n with cqs := n.cqs.set qid { c with head := v } } }.nvmeKickAll qid
    else match n.sqs.get? qid with
      | none => bad
      | some q => if v ≥ q.size then bad else { m with nvme := { n with sqs := n.sqs.set qid { q with tail := v } } }.nvmeKick qid) s
/-- Post a completion entry, and go on. -/
def Mach.nvmePost (mem : Memory) (m : Mach) (qid : Nat) (dw0 : Word) (status cid : Nat) : Mach :=
  match m.nvme.sqs.get? qid with
  | none => m
  | some q =>
    match m.nvme.cqs.get? q.cq with
    | none => m
    | some c =>
      let head := (q.head + 1) % q.size
      let dw3 := cid + (if c.phase then 2 ^ 16 else 0) + status * 2 ^ 17
      let entry := leBytes 4 dw0.toNat ++ leBytes 4 0 ++ leBytes 2 head ++ leBytes 2 qid ++ leBytes 4 dw3
      let m := (m.devPut mem (c.base + 16 * c.tail) entry).2
      let tail := (c.tail + 1) % c.size
      let n := m.nvme
      { m with nvme := { n with
        sqs := n.sqs.set qid { q with head }, cqs := n.cqs.set q.cq { c with tail, phase := if tail = 0 then !c.phase else c.phase } } }.nvmeKick qid
/-- NVME_COMMAND_COMPLETE (R237, R245, R285): the next entry of a submission queue is fetched and done, and its completion posted after its
data. A queue that the command itself deletes takes no completion of it. -/
def execNvmeCommandComplete (qid : Nat) (s : State) :=
  lift (fun mem m =>
    match m.nvme.sqs.get? qid with
    | none => m
    | some p =>
      if !m.nvmeReadyFor qid then m
      else m.orWait (fun m => m.schedule (m.now + 1) (.nvmeCommandComplete qid)) fun m =>
        let (e, m) := m.devGet mem (p.base + 64 * p.head) 64
        let c := e.getD (leBytes 64 0)
        let (dw0, status, m) : Word × Nat × Mach :=
          if e.isNone then (0, nvTransfer, m)
          else if qid = 0 then m.adminCommand mem c
          else let (s, m) := m.ioCommand mem c; (0, s, m)
        m.nvmePost mem qid dw0 status (natAt c 2 2)) s
/-- CC.SHN asks for a shutdown (R245): CSTS.SHST says that it is processed, and after a time that is not fixed that it is complete. -/
def Mach.nvmeShutdown (m : Mach) (was value : Word) : Mach :=
  if wbits value 14 2 = 0 ∨ wbits was 14 2 ≠ 0 ∨ m.nvme.shst ≠ 0 then m
  else
    let (t, m) := m.someTime (m.now + 1)
    { m with nvme := { m.nvme with shst := 1 }, deeds := m.deeds ++ [(t, .nvmeShut)] }
/-- NVME_ENABLE (R245): a write of CC. Enabling takes a time that is not fixed; disabling resets the controller; SHN shuts it down. -/
def execNvmeEnable (value : Word) (s : State) :=
  lift (fun _ m =>
    let was := wbit m.nvme.cc 0
    let on := wbit value 0
    let m := m.nvmeShutdown m.nvme.cc value
    let m : Mach := { m with nvme := { m.nvme with cc := value } }
    if on && !was then
      let (k, m) := m.freeBelow 3000000000
      m.schedule (m.now + 1 + k) .nvmeReady
    else if was && !on then { m with nvme := { m.nvme with rdy := false, shst := 0, intm := 0, sqs := [], cqs := [], features := [] } }
    else m) s
/-- NVME_READY (R245): CSTS.RDY is 1, and the admin queue stands as AQA, ASQ and ACQ give it. -/
def execNvmeReady (s : State) :=
  lift (fun _ m =>
    let n := m.nvme
    if !wbit n.cc 0 ∨ n.rdy then m
    else { m with nvme := { n with
      rdy := true, sqs := n.sqs.set 0 { base := n.asq, size := wbits n.aqa 0 12 + 1, cq := 0 }
      cqs := n.cqs.set 0 { base := n.acq, size := wbits n.aqa 16 12 + 1 } } }) s

end Sys2Proof.Machine
end

