-- ==== Sys2Proof/Machine/Shard.lean ====
section
/-! DEFINITION. The supplied kernel shard of a hamlet: how it takes SYSCALL records, and its calls (R198, R199, R284; log 26). Each action of
a shard is a deed of the agenda, since the time of an operation is not fixed (R198). -/
namespace Sys2Proof.Machine

/-! ## Errors and address spaces (R199) -/

/-- The result words of an error: −code in v[A], and all ones in v[A+1] where the result is of 64 bits. -/
def callErr (code : Nat) (wide : Bool) : List Word := word (2 ^ 32 - code) :: if wide then [0xFFFFFFFF] else []
/-- A number of 64 bits from a pair of words, low word first. -/
def pairOf (l : List Word) (i : Nat) : Nat := (l.getD i 0).toNat + (l.getD (i + 1) 0).toNat * 2 ^ 32
/-- The shard's state for a context. -/
def Mach.proc (m : Mach) (ctx : Nat) : Proc := m.procs.get {} ctx
/-- Change it. -/
def Mach.modProc (m : Mach) (ctx : Nat) (f : Proc → Proc) : Mach := { m with procs := m.procs.set ctx (f (m.proc ctx)) }
/-- The space of a context: root PPN and ASID (R191, R203). -/
def Mach.spaceOf (mem : Memory) (m : Mach) (ctx : Nat) : Nat × Nat × Mach :=
  let (d, m) := m.descriptor mem ctx
  (bits (natAt d 4 4) 0 12 * 2 ^ 32 + natAt d 0 4, bits (natAt d 4 4) 12 16, m)
/-- Every page of a range of a context's space is mapped with a permission (R199). -/
def Mach.rangeOk (mem : Memory) (m : Mach) (ctx va n : Nat) (a : Access) : Bool :=
  (List.range (ceilDiv (va % 4096 + n) 4096)).all (fun i =>
    match m.feXlat mem ctx (va / 4096 * 4096 + 4096 * i) a with | .ok _ _ => true | _ => false)

/-! ## Page tables (R191, R284) -/

/-- The PTE of a page at U privilege, readable, and writable or not, with A and D set. -/
def leafPte (ppn : Nat) (wr : Bool) : Nat := ppn * 1024 + (if wr then 0xD7 else 0xD3)
/-- Take a page from those that the shards may give out, and zero it. -/
def Mach.takePage (mem : Memory) (m : Mach) (clear : Bool) : Option (Nat × Mach) :=
  match m.pool with
  | [] => none
  | p :: r =>
    let m := { m with pool := r }
    some (p, if clear then (m.memWriteN mem noPart (4096 * p) (leBytes 4096 0) 0 0 33).2 else m)
/-- Set the last-level entry of a page, from a table of level `lvl - 1` on; tables that are missing are made. -/
def Mach.setPte (mem : Memory) (vpn pte : Nat) : Nat → Nat → Mach → Option Mach
  | 0, _, _ => none
  | lvl + 1, ppn, m =>
    let pa := 4096 * ppn + 8 * bits vpn (9 * lvl) 9
    if lvl = 0 then some (m.memWriteN mem noPart pa (leBytes 8 pte) 0 0 2).2
    else
      let (b, _, m) := m.memReadN mem noPart pa 8 0 0 2
      let x := leNat b
      if x.testBit 0 then (if bits x 1 3 ≠ 0 then none else setPte mem vpn pte lvl (bits x 10 44) m)
      else match m.takePage mem true with
        | none => none
        | some (p, m) => setPte mem vpn pte lvl p (m.memWriteN mem noPart pa (leBytes 8 (p * 1024 + 1)) 0 0 2).2
/-- Map `n` pages of a context's space, each to a page given out; none where memory to back them cannot be obtained. -/
def Mach.mapRange (mem : Memory) (root va : Nat) (wr clear : Bool) (m : Mach) (n : Nat) : Option Mach :=
  (List.range n).foldl (fun (r : Option Mach) i => r.bind fun m =>
    (m.takePage mem clear).bind fun e => e.2.setPte mem (va % 2 ^ 48 / 4096 + i) (leafPte e.1 wr) 4 root) (some m)
/-- Unmap `n` pages: their entries become 0, their pages return, the buffer of the shard's hamlet forgets them, and the shards of the other
hamlets are asked to forget them (R193). -/
def Mach.unmapRange (mem : Memory) (m : Mach) (h ctx va n : Nat) : Mach :=
  let (root, asid, m) := m.spaceOf mem ctx
  (List.range n).foldl (fun m i =>
    let at' := va + 4096 * i
    let vpn := at' % 2 ^ 48 / 4096
    let page := match m.feXlat mem ctx at' .load with | .ok pa _ => [pa / 4096] | _ => []
    let m := (m.setPte mem vpn 0 4 root).getD m
    let m := { m with pool := m.pool ++ page }.sfence h (some at') (some asid)
    (m.residents ctx).foldl (fun m e =>
      if e.1 = h then m
      else
        let (t, m) := m.someTime (m.now + 1)
        { m with deeds := m.deeds ++ [(t, .sfence e.1 (some at') (some asid))] }) m) m
/-- The lowest address of an area that meets an alignment and leaves `n` bytes free within it (R284). -/
def lowestFit (base len : Nat) (used : List (Nat × Nat)) (align n : Nat) : Option Nat :=
  let free (a : Nat) : Bool := a + n ≤ base + len && used.all (fun u => a + n ≤ u.1 || u.1 + u.2 ≤ a)
  minBy id (((base :: used.map (fun u => u.1 + u.2)).map (fun a => roundUp (max a base) align)).filter free)

/-! ## The calls (R199, R284) -/

/-- What an operation does when it starts: its result, if it has one then, or a wait until it can start. -/
inductive Served where
  | done (r : List Word) (m : Mach) | waits (m : Mach) | later (pa : Nat)
/-- ALLOC (R284). -/
def Mach.callAlloc (mem : Memory) (m : Mach) (ctx : Nat) (a : List Word) : Served :=
  let size := pairOf a 0
  let al := (a.getD 2 0).toNat
  if size = 0 ∨ al < 12 ∨ al > 30 then .done (callErr 2 true) m
  else
    let n := roundUp size 4096
    match lowestFit (Config.heapBase ctx) (Config.heapLength ctx) (m.proc ctx).allocs (2 ^ al) n with
    | none => .done (callErr 3 true) m
    | some va =>
      let (root, _, m') := m.spaceOf mem ctx
      match m'.mapRange mem root va true (wbit (a.getD 3 0) 0) (n / 4096) with
      | none => .done (callErr 3 true) m
      | some m => .done [word va, word (va / 2 ^ 32)] (m.modProc ctx (fun p => { p with allocs := p.allocs ++ [(va, n)] }))
/-- FREE (R284). -/
def Mach.callFree (mem : Memory) (m : Mach) (h ctx : Nat) (a : List Word) : Served :=
  let va := pairOf a 0
  match (m.proc ctx).allocs.find? (fun e => e.1 = va) with
  | none => .done (callErr 2 false) m
  | some e =>
    .done [0] ((m.unmapRange mem h ctx va (e.2 / 4096)).modProc ctx (fun p => { p with allocs := p.allocs.filter (fun e => e.1 ≠ va) }))
/-- The bytes of an open file. -/
def Mach.fileOf (m : Mach) (path : List Byte) : List Byte := ((m.files.find? (fun f => f.1 = path)).map (·.2)).getD []
/-- Set the bytes of a file, creating it. -/
def Mach.setFile (m : Mach) (path b : List Byte) : Mach :=
  { m with files := (m.files.filter (fun f => f.1 ≠ path)) ++ [(path, b)] }
/-- MMAP: a mapping of a file's pages above the heap, at the lowest free address (log 26). -/
def Mach.callMmap (mem : Memory) (m : Mach) (ctx : Nat) (a : List Word) : Served :=
  let n := (a.getD 2 0).toNat
  match (m.proc ctx).descs.get? (a.getD 0 0).toNat with
  | some (.file path rd wr) =>
    let w := wbit (a.getD 3 0) 1
    if n = 0 ∨ (w && !wr) ∨ (wbit (a.getD 3 0) 0 && !rd) then .done (callErr 2 true) m
    else
      let base := roundUp (Config.heapBase ctx + Config.heapLength ctx) 4096
      match lowestFit base (2 ^ 47 - base) (m.proc ctx).maps 4096 (4096 * n) with
      | none => .done (callErr 3 true) m
      | some va =>
        let (root, _, m') := m.spaceOf mem ctx
        match m'.mapRange mem root va w true n with
        | none => .done (callErr 3 true) m
        | some m1 =>
          let b := ((m.fileOf path).drop (4096 * (a.getD 1 0).toNat)).take (4096 * n)
          let m2 := (List.range (ceilDiv b.length 4096)).foldl (fun (m : Mach) i =>
            match m.feXlat mem ctx (va + 4096 * i) .load with
            | .ok pa m => (m.memWriteN mem noPart pa ((b.drop (4096 * i)).take 4096) 0 0 33).2
            | _ => m) m1
          .done [word va, word (va / 2 ^ 32)] (m2.modProc ctx (fun p => { p with maps := p.maps ++ [(va, 4096 * n)] }))
  | _ => .done (callErr 7 true) m
/-- The lowest number that no open descriptor of a context holds (R284). -/
def Proc.freeDesc (p : Proc) : Nat :=
  (((List.range (p.descs.length + 1)).filter (fun i => (p.descs.get? i).isNone)).head?).getD 0
/-- OPEN: the path ends with a NUL within 256 bytes. -/
def Mach.callOpen (mem : Memory) (m : Mach) (ctx : Nat) (a : List Word) : Served :=
  let va := pairOf a 0
  let reach := (List.range 256).takeWhile (fun i => m.rangeOk mem ctx (va + i) 1 .load)
  match m.feRead mem ctx va reach.length 8 with
  | .held pa => .later pa
  | .fault => .done (callErr 2 false) m
  | .ok b m =>
    match findPos (· == 0) b with
    | none => .done (callErr 2 false) m
    | some n =>
      let path := b.take n
      let flags := a.getD 2 0
      let d := (m.proc ctx).freeDesc
      let opened (m : Mach) : Served :=
        .done [word d] (m.modProc ctx (fun p => { p with descs := p.descs.set d (.file path (wbit flags 0) (wbit flags 1)) }))
      if m.files.any (fun f => f.1 = path) then opened m
      else if wbit flags 2 then opened (m.setFile path []) else .done (callErr 4 false) m
/-- READ and WRITE: a file's bytes from an offset. -/
def Mach.callFile (mem : Memory) (m : Mach) (ctx : Nat) (a : List Word) (write : Bool) : Served :=
  let d := (a.getD 0 0).toNat
  let va := pairOf a 1
  let n := (a.getD 3 0).toNat
  let off := pairOf a 4
  match (m.proc ctx).descs.get? d with
  | some (.file path rd wr) =>
    let old := m.fileOf path
    if !(if write then wr else rd) then .done (callErr 7 false) m
    else if !m.rangeOk mem ctx va n (if write then .load else .store) then .done (callErr 2 false) m
    else if write then
      match m.feRead mem ctx va n (n / 128 + 2) with
      | .held pa => .later pa
      | .fault => .done (callErr 5 false) m
      | .ok b m => .done [word n] (m.setFile path ((old ++ leBytes (off - old.length) 0).take off ++ b ++ old.drop (off + n)))
    else
      let b := (old.drop off).take n
      match m.feWrite mem ctx va b .store (n / 128 + 2) with
      | .held pa => .later pa
      | .fault => .done (callErr 5 false) m
      | .ok _ m => .done [word b.length] m
  | _ => .done (callErr 7 false) m
/-- SEND and RECV: what a socket sends goes out; what it receives is what has come, or 0 at the end of the stream, or a wait. -/
def Mach.callSocket (mem : Memory) (m : Mach) (ctx : Nat) (a : List Word) (send : Bool) : Served :=
  let d := (a.getD 0 0).toNat
  let va := pairOf a 1
  let n := (a.getD 3 0).toNat
  match (m.proc ctx).descs.get? d with
  | some (.socket k p ip rp inb ended out) =>
    if !m.rangeOk mem ctx va n (if send then .load else .store) then .done (callErr 2 false) m
    else if send then
      match m.feRead mem ctx va n (n / 128 + 2) with
      | .held pa => .later pa
      | .fault => .done (callErr 5 false) m
      | .ok b m => .done [word n] (m.modProc ctx (fun x => { x with descs := x.descs.set d (.socket k p ip rp inb ended (out ++ b)) }))
    else if inb = [] ∧ !ended ∧ n ≠ 0 then .waits m
    else
      let b := inb.take n
      match m.feWrite mem ctx va b .store (n / 128 + 2) with
      | .held pa => .later pa
      | .fault => .done (callErr 5 false) m
      | .ok _ m =>
        .done [word b.length] (m.modProc ctx (fun x => { x with descs := x.descs.set d (.socket k p ip rp (inb.drop n) ended out) }))
  | _ => .done (callErr 7 false) m
/-- The address of a FUTEX operation. -/
def ShardOp.va (o : ShardOp) : Nat := pairOf o.args 0
/-- FUTEXWAKE: the lanes that wait on the word, in the order in which their operations began and by lane, up to a count. -/
def Mach.callWake (m : Mach) (o : ShardOp) : Served :=
  let waits (x : ShardOp) : Bool := x.call = 11 && x.begun && x.result.isNone && x.ctx = o.ctx && x.va = o.va
  let (ops, _, woken) := m.ops.foldl (fun (a : List ShardOp × Nat × Nat) x =>
    if !waits x then (a.1 ++ [x], a.2.1, a.2.2)
    else
      let ls := (lanesOf x.lanes).take a.2.1
      let mask := maskOf (fun l => ls.contains l)
      let wake : List ShardOp := if ls = [] then [] else [{ x with lanes := mask, result := some [0] }]
      let rest : List ShardOp := if x.lanes &&& ~~~mask = 0 then [] else [{ x with lanes := x.lanes &&& ~~~mask }]
      (a.1 ++ wake ++ rest, a.2.1 - ls.length, a.2.2 + ls.length)) ([], (o.args.getD 2 0).toNat, 0)
  .done [word woken] { m with ops }
/-- EXITPROC: every warp of the context ends, and its descriptors are closed. -/
def Mach.callExit (m : Mach) (ctx : Nat) : Mach :=
  let m := (m.residents ctx).foldl (fun m e =>
    ((m.ham e.1).ctxWarps e.2).foldl (fun m w => (m.modWarp e.1 w.1 (fun x => x.exitLanes m.now 0xFFFFFFFF)).endWarp e.1 w.1) m) m
  { m with ops := m.ops.filter (fun o => o.ctx ≠ ctx) }.modProc ctx (fun p => { p with descs := [] })
/-- IOGRANT: window `i` of the context's slot on every hamlet where the context is resident (R89). -/
def Mach.callGrant (m : Mach) (ctx : Nat) (a : List Word) : Served :=
  let va := pairOf a 0
  let pages := (a.getD 2 0).toNat
  let i := (a.getD 4 0).toNat
  if !canonical64 va ∨ va % 4096 ≠ 0 ∨ pages = 0 ∨ pages > 1048575 ∨ i > 3 then .done (callErr 2 false) m
  else
    .done [0] ((m.residents ctx).foldl (fun m e =>
      let reg (k : Nat) := hamReg e.1 (0x400 + 0x40 * e.2 + 0x10 * i + 4 * k)
      let m := ((m.setReg (reg 0) (word va)).setReg (reg 1) (word (va / 2 ^ 32 % 2 ^ 16))).setReg (reg 2) (word pages)
      m.setReg (reg 3) (1 + 2 * (a.getD 3 0 &&& 3))) m)
/-- What an operation does when it starts (R199). -/
def Mach.serve (mem : Memory) (m : Mach) (o : ShardOp) : Served :=
  let a := o.args
  let arg (i : Nat) : Nat := (a.getD i 0).toNat
  match o.call with
  | 0 => .done [0] m
  | 1 => m.callAlloc mem o.ctx a
  | 2 => m.callFree mem o.ham o.ctx a
  | 3 => m.callMmap mem o.ctx a
  | 4 => m.callOpen mem o.ctx a
  | 5 => m.callFile mem o.ctx a false
  | 6 => m.callFile mem o.ctx a true
  | 7 =>
    if ((m.proc o.ctx).descs.get? (arg 0)).isNone then .done (callErr 7 false) m
    else .done [0] (m.modProc o.ctx (fun p => { p with descs := p.descs.erase (arg 0) }))
  | 8 =>
    if arg 0 > 1 then .done (callErr 2 false) m
    else
      let d := (m.proc o.ctx).freeDesc
      .done [word d] (m.modProc o.ctx (fun p =>
        { p with descs := p.descs.set d (.socket (a.getD 0 0) (a.getD 1 0) (a.getD 2 0) (a.getD 3 0) [] false []) }))
  | 9 => m.callSocket mem o.ctx a true
  | 10 => m.callSocket mem o.ctx a false
  | 11 =>
    if o.va % 4 ≠ 0 then .done (callErr 2 false) m
    else match m.feRead mem o.ctx o.va 4 1 with
      | .held pa => .later pa
      | .fault => .done (callErr 2 false) m
      | .ok b m => if leWord b ≠ a.getD 2 0 then .done (callErr 6 false) m else .waits m
  | 12 => if o.va % 4 ≠ 0 ∨ !m.rangeOk mem o.ctx o.va 4 .load then .done (callErr 2 false) m else m.callWake o
  | 13 =>
    if arg 2 > 4096 ∨ !m.rangeOk mem o.ctx o.va (arg 2) .load then .done (callErr 2 false) m
    else match m.feRead mem o.ctx o.va (arg 2) 34 with
      | .held pa => .later pa
      | .fault => .done (callErr 5 false) m
      | .ok b m => .done [word (arg 2)] { m with console := m.console ++ b }
  | 14 => .waits (m.callExit o.ctx)
  | 15 => m.callGrant o.ctx a
  | _ => .done (callErr 1 false) m

/-! ## Records and operations (R198) -/

/-- The groups of a record: the lanes of its mask by their six argument words, in ascending order of the lowest lane of each. -/
def recordGroups (ws : List Word) : List (Word × List Word) :=
  let mask := ws.getD 1 0
  let args (l : Nat) : List Word := (ws.drop (8 + 6 * l)).take 6
  ((lanesOf mask).filter (fun l => (List.range l).all (fun k => !wbit mask k || args k ≠ args l))).map (fun l =>
    (maskOf (fun k => wbit mask k && args k = args l), args l))
/-- The slot of a hamlet whose record has landed and carries the lowest sequence number. -/
def Mach.nextRecord (mem : Memory) (m : Mach) (h : Nat) : Option Nat :=
  minBy (fun j => ((m.scWords mem h j).getD 4 0).toNat) ((List.range 5).filter (fun j => wbit (m.reg (hamReg h 0x638)) j))
/-- The shard takes a record: an operation for each group, and the slot is freed (R196, R198). -/
def Mach.takeRecord (mem : Memory) (m : Mach) (h j : Nat) : Mach :=
  let ws := m.scWords mem h j
  let w0 := ws.getD 0 0
  let ctx := m.ctxNum h (ctxField w0)
  let m := (recordGroups ws).foldl (fun (m : Mach) g =>
    let (id, m) := m.fresh
    let o : ShardOp :=
      { id, ham := h, warp := wbits w0 16 6, ctx, lanes := g.1, call := wbits w0 0 9, reg := wbits (ws.getD 3 0) 0 6, args := g.2 }
    { m with ops := m.ops ++ [o] }) m
  m.scFree h (2 ^ j)
/-- An operation ends: its result is written to v[A], and to v[A+1] where it is of 64 bits, of every lane of the group, which one RESUMECMD
resumes (R198). -/
def Mach.endOp (m : Mach) (o : ShardOp) (r : List Word) : Mach :=
  let m := { m with ops := m.ops.filter (fun x => x.id ≠ o.id || x.lanes ≠ o.lanes) }
  let m := (lanesOf o.lanes).foldl (fun m l =>
    ((List.range r.length).zip r).foldl (fun m e => m.windowWrite o.ham o.warp (128 * (o.reg + e.1) + 4 * l) e.2) m) m
  (m.setReg (hamReg o.ham 0x640) o.lanes).resumeCmd o.ham (word o.warp)
/-- The context of an operation stands on its hamlet, and is not under a save. -/
def Mach.opHome (m : Mach) (o : ShardOp) : Bool := ((m.ham o.ham).ctxSlot o.ctx).isSome && !m.placementStopped o.ctx
/-- The next operation of a hamlet that has not started. -/
def Mach.nextOp (m : Mach) (h : Nat) : Option ShardOp := m.ops.find? (fun o => o.ham = h && !o.begun)
/-- Start an operation. -/
def Mach.startOp (mem : Memory) (m : Mach) (o : ShardOp) : Mach :=
  let set (m : Mach) (r : Option (List Word)) : Mach :=
    { m with ops := updateFirst (fun x => x.id = o.id) (fun x => { x with begun := true, result := r }) m.ops }
  match m.serve mem o with
  | .done r m => set m (some r)
  | .waits m => set m none
  | .later pa => m.hotWait pa
/-- An action of a hamlet's shard (R198): one of its operations that can end does, or its next operation starts, or it takes a record; which
of these is open. -/
def shardAct (h : Nat) : Act := fun mem m =>
  let ready := m.ops.filter (fun o => o.ham = h && o.result.isSome && m.opHome o)
  let (k, m) := m.freeBelow (ready.length + 1)
  match ready[k]? with
  | some o => m.endOp o (o.result.getD [])
  | none => match m.nextOp h with
    | some o => if m.opHome o then m.startOp mem o else m
    | none => match m.nextRecord mem h with
      | some j => m.takeRecord mem h j
      | none => m
/-- Bytes come for a socket; none mean the end of its stream. Operations that wait for them get them in order. -/
def netData (ctx d : Nat) (b : List Byte) : Act := fun mem m =>
  match (m.proc ctx).descs.get? d with
  | some (.socket k p ip rp inb ended out) =>
    let m := m.modProc ctx (fun x => { x with descs := x.descs.set d (.socket k p ip rp (inb ++ b) (ended || b == []) out) })
    let waits (o : ShardOp) : Bool := o.call = 10 && o.begun && o.result.isNone && o.ctx = ctx && (o.args.getD 0 0).toNat = d
    (m.ops.filter waits).foldl (fun m o => m.startOp mem o) m
  | _ => m

end Sys2Proof.Machine
end

