-- ==== Sys2Proof/Machine/Deeds.lean ====
section
/-! DEFINITION. What agents outside the model do beside the rows of the opcode table, and what befalls the hardware (log 1). -/
namespace Sys2Proof.Machine

/-- The monitor of a core reports that its image has failed its check: a mailbox message to the boot Reeve, whose words are open (R228; log 7). -/
def Mach.bootReport (m : Mach) (core : Nat) : Mach :=
  ((List.range 14).foldl (fun m i => let (v, m) := m.freeWord; m.setReg (mailBase core + 0x808 + 4 * i) v) m).mailSend core 0
/-- A word of an engine's array fails its check from now on, if the array holds it (R194). -/
def Engine.spoil (e : Engine) (unit word : Nat) : Engine :=
  let fifo (f : Fifo) : Fifo := if 8 * word < f.data.length then { f with fails := word :: f.fails } else f
  match unit with
  | 0 => if word < 512 * 32 then { e with accFails := word :: e.accFails } else e
  | 1 => { e with fifoW := fifo e.fifoW }
  | 2 => { e with fifoA := fifo e.fifoA }
  | _ => { e with shadow := e.shadow.map (fun t => if 8 * word < t.bytes.length then { t with fails := word :: t.fails } else t) }
/-- What a deed does. -/
def Deed.act : Deed → Act
  | .createQueue q qcb fields => Machine.createQueue q qcb fields
  | .loadShadow q fields => fun _ m => m.loadShadow q fields
  | .steal x => takeShipment x
  | .shard h => shardAct h
  | .sfence h va asid => fun _ m => m.sfence h va asid
  | .pages l => fun _ m => { m with pool := m.pool ++ l }
  | .netData ctx d b => Machine.netData ctx d b
  | .report c => fun _ m => m.bootReport c
  | .linkAck p n => fun _ m => m.linkAck p n
  | .linkNak p => fun _ m => m.linkNak p
  | .linkServe p => fun mem m => m.linkServe mem p
  | .token seq loads requests => loadToken seq loads requests
  | .podWrite pa b => fun _ m => if pa < 2 ^ 46 ∧ pa / 2 ^ 40 ≠ m.ownPkg then m.store pa b else m
  | .flip k => fun _ m => { m with flips := k :: m.flips }
  | .spoil k => fun _ m => { m with poison := k :: m.poison }
  | .spoilEngine h u k => fun _ m => m.modHam h (fun x => { x with eng := x.eng.spoil u k })
  | .symbols a l => fun _ m => { m with eccErr := m.eccErr.set a (addSymbols (m.eccErr.get [] a) l) }
  | .parity h w key lanes => fun _ m => m.modWarp h w (fun x => { x with parity := x.parity.set key (x.parity.get 0 key ||| lanes) })
  | .nvmeShut => fun _ m => if m.nvme.shst = 1 then { m with nvme := { m.nvme with shst := 2 } } else m
  | .deviceError f w2 w3 => fun _ m => m.modFunc f (fun x => { x with events := x.events ++ [(3, w2, w3)] })

end Sys2Proof.Machine
end

