-- ==== Sys2Proof/Machine/Fp.lean ====
section
/-! DEFINITION. The F-pipe instructions: FP32 and FP64 arithmetic, packed halves, dot products, FUN functions, conversions,
compares, and the FX functions (R127, R267, R269 to R271, R307, R323 to R328, R333, R334, R338 to R342). -/
namespace Sys2Proof.Machine

/-- FP32 words of two sources (R325, R333). -/
def fp2 (d a b : BitVec 6) (q : BitVec 1) (g : BitVec 2) (f : Rnd → Nat → Nat → Nat × Nat) : Act :=
  fpV d q g.toNat 6 (fun m l => f m.rm (m.vn a l) (m.vn b l))
/-- FP32 words that also read vD (R325, R333). -/
def fp3 (d a b : BitVec 6) (q : BitVec 1) (g : BitVec 2) (f : Mach → Nat → Nat → Nat → Nat × Nat) : Act :=
  fpV d q g.toNat 6 (fun m l => f m (m.vn a l) (m.vn b l) (m.vn d l))
/-- FP64 words of two sources (R325, R327). -/
def dp2 (d a b : BitVec 6) (q : BitVec 1) (g : BitVec 2) (f : Rnd → Nat → Nat → Nat × Nat) : Act :=
  fpV2 d q g.toNat 12 (fun m l => f m.rm (m.v2n a l) (m.v2n b l))
/-- FUN words on FP32 (R339). -/
def fun1 (d a : BitVec 6) (q : BitVec 1) (g : BitVec 2) (f : Rnd → Nat → Nat × Nat) : Act :=
  fpV d q g.toNat 14 (fun m l => f m.rm (m.vn a l))
/-- FUN words on FP64 (R339). -/
def fun2 (d a : BitVec 6) (q : BitVec 1) (g : BitVec 2) (f : Rnd → Nat → Nat × Nat) : Act :=
  fpV2 d q g.toNat 14 (fun m l => f m.rm (m.v2n a l))
/-- A fused multiply-add on each 16-bit half; the flags are the OR of both (R307). -/
def half2 (F : Fmt) (mode : Rnd) (a b d : Nat) : Nat × Nat :=
  let lo := F.fma mode (a % 65536) (b % 65536) (d % 65536)
  let hi := F.fma mode (a / 65536) (b / 65536) (d / 65536)
  (hi.1 * 65536 + lo.1, hi.2 ||| lo.2)
/-- The element pairs of a packed dot product (R118, R127). -/
def pairsOf (w a b : Nat) : List (Nat × Nat) := (List.range (32 / w)).map (fun j => (bits a (w * j) w, bits b (w * j) w))

/-- FADD (R333). -/
def execFadd (_ : Hdr) (d a b : BitVec 6) (q : BitVec 1) (g : BitVec 2) (s : State) := lift (fp2 d a b q g F32.add) s
/-- FSUB (R333). -/
def execFsub (_ : Hdr) (d a b : BitVec 6) (q : BitVec 1) (g : BitVec 2) (s : State) := lift (fp2 d a b q g F32.sub) s
/-- FMUL (R333). -/
def execFmul (_ : Hdr) (d a b : BitVec 6) (q : BitVec 1) (g : BitVec 2) (s : State) := lift (fp2 d a b q g F32.mul) s
/-- FMIN (R333). -/
def execFmin (_ : Hdr) (d a b : BitVec 6) (q : BitVec 1) (g : BitVec 2) (s : State) := lift (fp2 d a b q g (fun _ => F32.minmax false)) s
/-- FMAX (R333). -/
def execFmax (_ : Hdr) (d a b : BitVec 6) (q : BitVec 1) (g : BitVec 2) (s : State) := lift (fp2 d a b q g (fun _ => F32.minmax true)) s
/-- FFMA (R333). -/
def execFfma (_ : Hdr) (d a b : BitVec 6) (q : BitVec 1) (g : BitVec 2) (s : State) :=
  lift (fp3 d a b q g (fun m a b d => F32.fma m.rm a b d)) s
/-- HFMA2 (R307). -/
def execHfma2 (_ : Hdr) (d a b : BitVec 6) (q : BitVec 1) (g : BitVec 2) (s : State) :=
  lift (fp3 d a b q g (fun m a b d => half2 F16 m.rm a b d)) s
/-- BFMA2 (R307). -/
def execBfma2 (_ : Hdr) (d a b : BitVec 6) (q : BitVec 1) (g : BitVec 2) (s : State) :=
  lift (fp3 d a b q g (fun m a b d => half2 BF16 m.rm a b d)) s
/-- FDOT4 (R127, R334). -/
def execFdot4 (_ : Hdr) (d a b : BitVec 6) (q : BitVec 1) (g : BitVec 2) (s : State) :=
  lift (fp3 d a b q g (fun m a b d => F32.dot (if m.f8 then E5M2 else E4M3) m.rm d (pairsOf 8 a b))) s
/-- FDOT8 (R127, R334). -/
def execFdot8 (_ : Hdr) (d a b : BitVec 6) (q : BitVec 1) (g : BitVec 2) (s : State) :=
  lift (fp3 d a b q g (fun m a b d => F32.dot E2M1 m.rm d (pairsOf 4 a b))) s
/-- DADD (R327). -/
def execDadd (_ : Hdr) (d a b : BitVec 6) (q : BitVec 1) (g : BitVec 2) (s : State) := lift (dp2 d a b q g F64.add) s
/-- DMUL (R327). -/
def execDmul (_ : Hdr) (d a b : BitVec 6) (q : BitVec 1) (g : BitVec 2) (s : State) := lift (dp2 d a b q g F64.mul) s
/-- DFMA (R327). -/
def execDfma (_ : Hdr) (d a b : BitVec 6) (q : BitVec 1) (g : BitVec 2) (s : State) :=
  lift (fpV2 d q g.toNat 12 (fun m l => F64.fma m.rm (m.v2n a l) (m.v2n b l) (m.v2n d l))) s

/-- FNEG (R270). -/
def execFneg (_ : Hdr) (d a : BitVec 6) (q : BitVec 1) (g : BitVec 2) (s : State) := lift (fun1 d a q g (fun _ => F32.negAbs false)) s
/-- FABS (R270). -/
def execFabs (_ : Hdr) (d a : BitVec 6) (q : BitVec 1) (g : BitVec 2) (s : State) := lift (fun1 d a q g (fun _ => F32.negAbs true)) s
/-- FRCP (R270). -/
def execFrcp (_ : Hdr) (d a : BitVec 6) (q : BitVec 1) (g : BitVec 2) (s : State) := lift (fun1 d a q g F32.rcp) s
/-- FRSQ (R340). -/
def execFrsq (_ : Hdr) (d a : BitVec 6) (q : BitVec 1) (g : BitVec 2) (s : State) := lift (fun1 d a q g (fun _ => frsqFn)) s
/-- FSQRT (R270). -/
def execFsqrt (_ : Hdr) (d a : BitVec 6) (q : BitVec 1) (g : BitVec 2) (s : State) := lift (fun1 d a q g F32.sqrt) s
/-- FEXP2 (R340). -/
def execFexp2 (_ : Hdr) (d a : BitVec 6) (q : BitVec 1) (g : BitVec 2) (s : State) := lift (fun1 d a q g (fun _ => fexp2Fn)) s
/-- FLOG2 (R340). -/
def execFlog2 (_ : Hdr) (d a : BitVec 6) (q : BitVec 1) (g : BitVec 2) (s : State) := lift (fun1 d a q g (fun _ => flog2Fn)) s
/-- FSIN (R340). -/
def execFsin (_ : Hdr) (d a : BitVec 6) (q : BitVec 1) (g : BitVec 2) (s : State) := lift (fun1 d a q g (fun _ => fsinFn)) s
/-- FCOS (R340). -/
def execFcos (_ : Hdr) (d a : BitVec 6) (q : BitVec 1) (g : BitVec 2) (s : State) := lift (fun1 d a q g (fun _ => fcosFn)) s
/-- FTANH (R340). -/
def execFtanh (_ : Hdr) (d a : BitVec 6) (q : BitVec 1) (g : BitVec 2) (s : State) := lift (fun1 d a q g (fun _ => ftanhFn)) s
/-- FFLOOR (R339). -/
def execFfloor (_ : Hdr) (d a : BitVec 6) (q : BitVec 1) (g : BitVec 2) (s : State) := lift (fun1 d a q g (fun _ => F32.integral .rdn)) s
/-- FCEIL (R339). -/
def execFceil (_ : Hdr) (d a : BitVec 6) (q : BitVec 1) (g : BitVec 2) (s : State) := lift (fun1 d a q g (fun _ => F32.integral .rup)) s
/-- FRND (R339). -/
def execFrnd (_ : Hdr) (d a : BitVec 6) (q : BitVec 1) (g : BitVec 2) (s : State) := lift (fun1 d a q g F32.integral) s
/-- FTRUNC (R339). -/
def execFtrunc (_ : Hdr) (d a : BitVec 6) (q : BitVec 1) (g : BitVec 2) (s : State) := lift (fun1 d a q g (fun _ => F32.integral .rtz)) s
/-- DRCP (R270). -/
def execDrcp (_ : Hdr) (d a : BitVec 6) (q : BitVec 1) (g : BitVec 2) (s : State) := lift (fun2 d a q g F64.rcp) s
/-- DSQRT (R270). -/
def execDsqrt (_ : Hdr) (d a : BitVec 6) (q : BitVec 1) (g : BitVec 2) (s : State) := lift (fun2 d a q g F64.sqrt) s
/-- DNEG (R270). -/
def execDneg (_ : Hdr) (d a : BitVec 6) (q : BitVec 1) (g : BitVec 2) (s : State) := lift (fun2 d a q g (fun _ => F64.negAbs false)) s
/-- DABS (R270). -/
def execDabs (_ : Hdr) (d a : BitVec 6) (q : BitVec 1) (g : BitVec 2) (s : State) := lift (fun2 d a q g (fun _ => F64.negAbs true)) s

/-- The conversions of R256 with F[5] = 0, by function value: 64-bit source, 64-bit result, and the function; a narrow source
is taken from its low bits. -/
def cvtFn (f : Nat) (mode : Rnd) (x : Nat) : Nat × Nat :=
  match f with
  | 0x00 => cvtFloat F32 mode (F64.dec x)
  | 0x01 => cvtFloat F64 mode (F32.dec x)
  | 0x02 => cvtFloat F16 mode (F32.dec x)
  | 0x03 => cvtFloat F32 mode (F16.dec (x % 2 ^ 16))
  | 0x04 => cvtFloat BF16 mode (F32.dec x)
  | 0x05 => cvtFloat F32 mode (BF16.dec (x % 2 ^ 16))
  | 0x06 => cvtFloat E4M3 mode (F32.dec x)
  | 0x07 => cvtFloat F32 mode (E4M3.dec (x % 2 ^ 8))
  | 0x08 => cvtFloat E5M2 mode (F32.dec x)
  | 0x09 => cvtFloat F32 mode (E5M2.dec (x % 2 ^ 8))
  | 0x0A => cvtFloat E2M1 mode (F32.dec x)
  | 0x0B => cvtFloat F32 mode (E2M1.dec (x % 2 ^ 4))
  | 0x0C => cvtInt true 32 mode (F32.dec x)
  | 0x0D => cvtInt false 32 mode (F32.dec x)
  | 0x0E => cvtFloat F32 mode (intVal (BitVec.ofNat 32 x).toInt)
  | 0x0F => cvtFloat F32 mode (intVal x)
  | 0x10 => cvtInt true 32 mode (F64.dec x)
  | 0x11 => cvtInt false 32 mode (F64.dec x)
  | 0x12 => cvtFloat F64 mode (intVal (BitVec.ofNat 32 x).toInt)
  | 0x13 => cvtFloat F64 mode (intVal x)
  | 0x14 => cvtInt true 8 mode (F32.dec x)
  | _ => cvtInt true 4 mode (F32.dec x)

/-- A conversion, by function value and mode (R323). -/
def cvtWord (f : Nat) (d a : BitVec 6) (q : BitVec 1) (g : BitVec 2) (mode : Mach → Rnd) : Act :=
  let src (m : Mach) (l : Nat) : Nat := if f = 0x00 ∨ f = 0x10 ∨ f = 0x11 then m.v2n a l else m.vn a l
  if f = 0x01 ∨ f = 0x12 ∨ f = 0x13 then fpV2 d q g.toNat 6 (fun m l => cvtFn f (mode m) (src m l))
  else fpV d q g.toNat 6 (fun m l => cvtFn f (mode m) (src m l))

/-- CVT with FPMODE.RM (R324). -/
def execCvt (_ : Hdr) (d a : BitVec 6) (f : BitVec 5) (q : BitVec 1) (g : BitVec 2) (s : State) :=
  lift (cvtWord f.toNat d a q g Mach.rm) s
/-- CVT with an explicit mode, on the four pairs of R256. -/
def execCvtMode (_ : Hdr) (d a : BitVec 6) (p : BitVec 2) (m : BitVec 3) (q : BitVec 1) (g : BitVec 2) (s : State) :=
  lift (cvtWord (match p.toNat with | 0 => 0x02 | 1 => 0x04 | 2 => 0x0C | _ => 0x00) d a q g (fun _ => rndOf m.toNat)) s

/-- FCMP and DCMP (R328): each active lane writes its bit of kK, ANDed with the old bit under `.AND`; FX always updates. -/
def fpCmp (F : Fmt) (lat : Nat) (k c : BitVec 4) (n : BitVec 1) (x y : Mach → Nat → Nat) : Act := fun _ m =>
  let act := m.active 0
  let r (l : Nat) := F.cond c.toNat (x m l) (y m l)
  m.flagged 0 lat act (fun l => (r l).2) (fun m' =>
    m'.writeK lat k.toNat act (maskOf (fun l => (r l).1 && (n = 0 || wbit (m.k k.toNat) l))))
/-- FCMP (R328). -/
def execFcmp (_ : Hdr) (k f : BitVec 4) (a b : BitVec 6) (n : BitVec 1) (s : State) :=
  lift (fpCmp F32 6 k f n (fun m => m.vn a) (fun m => m.vn b)) s
/-- DCMP (R328). -/
def execDcmp (_ : Hdr) (k f : BitVec 4) (a b : BitVec 6) (n : BitVec 1) (s : State) :=
  lift (fpCmp F64 12 k f n (fun m => m.v2n a) (fun m => m.v2n b)) s

/-- FXRD (R341). -/
def execFxrd (_ : Hdr) (d : BitVec 6) (g : BitVec 2) (s : State) :=
  lift (fun _ m => m.writeV 6 d.toNat (m.active g.toNat) (fun l => m.fxv l)) s
/-- FXCLR (R341, R342). -/
def execFxclr (_ : Hdr) (a : BitVec 6) (g : BitVec 2) (s : State) :=
  lift (fun _ m => m.fixed .fxAndn 6 [0] (m.active g.toNat)
    ((lanesOf (m.active g.toNat)).map (fun l => (l, m.v a.toNat l &&& 0x1F)))) s
/-- FXSET (R341, R342). -/
def execFxset (_ : Hdr) (a : BitVec 6) (g : BitVec 2) (s : State) :=
  lift (fun _ m => m.orFx 6 (m.active g.toNat) (fun l => m.v a.toNat l &&& 0x1F)) s

end Sys2Proof.Machine
end

