-- ==== Sys2Proof/Machine/Int.lean ====
section
/-! DEFINITION. The integer, bit, immediate, move and scalar instructions of the I pipe (R263 to R266, R295 to R297, R305,
R306, R313, R315, R345 to R348, R351, R365, R366, R368, R376 to R379, R395), and NOP (R367). -/
namespace Sys2Proof.Machine

/-- A format A word: per active lane vD = f(vA, vB), landing 4 cycles after issue (R295). -/
def alu2 (d a b : BitVec 6) (g : BitVec 3) (f : Word → Word → Word) : Act := fun _ m =>
  m.writeV 4 d.toNat (m.active g.toNat) (fun l => f (m.v a.toNat l) (m.v b.toNat l))
/-- As alu2, also reading vD (R263). -/
def alu3 (d a b : BitVec 6) (g : BitVec 3) (f : Word → Word → Word → Word) : Act := fun _ m =>
  m.writeV 4 d.toNat (m.active g.toNat) (fun l => f (m.v a.toNat l) (m.v b.toNat l) (m.v d.toNat l))
/-- A format C word: no guard (R297). -/
def aluI (d a : BitVec 6) (f : Word → Word) : Act := fun _ m =>
  m.writeV 4 d.toNat (m.active 0) (fun l => f (m.v a.toNat l))
/-- An IUN word (R315). -/
def aluU (d : BitVec 6) (g : BitVec 2) (f : Mach → Nat → Word) : Act := fun _ m =>
  m.writeV 4 d.toNat (m.active g.toNat) (f m)
/-- A SOP word: s[D] from s[D] and s[A], once per issue (R377). -/
def sop (d a : BitVec 8) (f : Word → Word → Word) : Act := fun _ m =>
  m.writeS 4 d.toNat (f (m.s d.toNat) (m.s a.toNat))

/-- Signed minimum. -/
def sMin (a b : Word) : Word := if BitVec.slt b a then b else a
/-- Signed maximum. -/
def sMax (a b : Word) : Word := if BitVec.slt a b then b else a
/-- Unsigned minimum. -/
def uMin (a b : Word) : Word := if b < a then b else a
/-- Unsigned maximum. -/
def uMax (a b : Word) : Word := if a < b then b else a
/-- A shift count: the low five bits (R376). -/
def cnt (b : Word) : Nat := wbits b 0 5
/-- The high word of the signed product (R345). -/
def mulHi (a b : Word) : Word := ((a.signExtend 64 * b.signExtend 64) >>> 32).setWidth 32
/-- The high word of the unsigned product (R345). -/
def mulHiU (a b : Word) : Word := ((a.setWidth 64 * b.setWidth 64) >>> 32).setWidth 32
/-- BYTP (R313). -/
def bytp (a b : Word) : Word :=
  word (((List.range 4).map (fun j =>
    if wbit b (8 * j + 7) then 0 else wbits a (8 * wbits b (8 * j) 2) 8 * 2 ^ (8 * j))).sum)
/-- The field of BFE: width w taken at p, zeros above bit 31, extended (R305). -/
def bfe (a b : Word) : Word :=
  let p := wbits b 0 5
  let w := min (wbits b 8 6) 32
  let f := bits a.toNat p w
  if wbit b 15 && w > 0 && f.testBit (w - 1) then word (f + 2 ^ 32 - 2 ^ w) else word f
/-- BFI (R306). -/
def bfi (a b d : Word) : Word :=
  let p := wbits b 0 5
  let w := min (wbits b 8 6) 32
  let mask := word ((2 ^ w - 1) * 2 ^ p)
  (d &&& ~~~mask) ||| ((a <<< p) &&& mask)
/-- A packed dot product added to d, elements of `w` bits (R127). -/
def idot (signed : Bool) (w : Nat) (a b d : Word) : Word :=
  let el (x : Word) (j : Nat) : Int :=
    let u := wbits x (w * j) w
    if signed && u ≥ 2 ^ (w - 1) then (u : Int) - 2 ^ w else u
  let s : Int := ((List.range (32 / w)).map (fun j => el a j * el b j)).sum
  d + BitVec.ofInt 32 s
/-- The number of zero bits above the highest 1 bit (R315). -/
def clz (a : Word) : Nat := if a = 0 then 32 else 31 - Nat.log2 a.toNat

/-- IADD (R345). -/
def execIadd (_ : Hdr) (d a b : BitVec 6) (g : BitVec 3) (s : State) := lift (alu2 d a b g (· + ·)) s
/-- ISUB (R345). -/
def execIsub (_ : Hdr) (d a b : BitVec 6) (g : BitVec 3) (s : State) := lift (alu2 d a b g (· - ·)) s
/-- IMUL (R345). -/
def execImul (_ : Hdr) (d a b : BitVec 6) (g : BitVec 3) (s : State) := lift (alu2 d a b g (· * ·)) s
/-- IMULH (R345). -/
def execImulh (_ : Hdr) (d a b : BitVec 6) (g : BitVec 3) (s : State) := lift (alu2 d a b g mulHi) s
/-- IMULHU (R345). -/
def execImulhu (_ : Hdr) (d a b : BitVec 6) (g : BitVec 3) (s : State) := lift (alu2 d a b g mulHiU) s
/-- IMAD (R345). -/
def execImad (_ : Hdr) (d a b : BitVec 6) (g : BitVec 3) (s : State) := lift (alu3 d a b g (fun a b d => a * b + d)) s
/-- IMIN (R345). -/
def execImin (_ : Hdr) (d a b : BitVec 6) (g : BitVec 3) (s : State) := lift (alu2 d a b g sMin) s
/-- IMAX (R345). -/
def execImax (_ : Hdr) (d a b : BitVec 6) (g : BitVec 3) (s : State) := lift (alu2 d a b g sMax) s
/-- IMINU (R345). -/
def execIminu (_ : Hdr) (d a b : BitVec 6) (g : BitVec 3) (s : State) := lift (alu2 d a b g uMin) s
/-- IMAXU (R345). -/
def execImaxu (_ : Hdr) (d a b : BitVec 6) (g : BitVec 3) (s : State) := lift (alu2 d a b g uMax) s
/-- AND (R295). -/
def execAnd (_ : Hdr) (d a b : BitVec 6) (g : BitVec 3) (s : State) := lift (alu2 d a b g (· &&& ·)) s
/-- OR (R368). -/
def execOr (_ : Hdr) (d a b : BitVec 6) (g : BitVec 3) (s : State) := lift (alu2 d a b g (· ||| ·)) s
/-- XOR (R368). -/
def execXor (_ : Hdr) (d a b : BitVec 6) (g : BitVec 3) (s : State) := lift (alu2 d a b g (· ^^^ ·)) s
/-- ANDN (R295). -/
def execAndn (_ : Hdr) (d a b : BitVec 6) (g : BitVec 3) (s : State) := lift (alu2 d a b g (fun a b => a &&& ~~~b)) s
/-- SEL (R379): kG selects and is no guard. -/
def execSel (_ : Hdr) (d a b : BitVec 6) (g : BitVec 3) (s : State) :=
  lift (fun _ m => m.writeV 4 d.toNat (m.active 0)
    (fun l => if wbit (m.k g.toNat) l then m.v a.toNat l else m.v b.toNat l)) s
/-- SHL (R376). -/
def execShl (_ : Hdr) (d a b : BitVec 6) (g : BitVec 3) (s : State) := lift (alu2 d a b g (fun a b => a <<< cnt b)) s
/-- SHR (R376). -/
def execShr (_ : Hdr) (d a b : BitVec 6) (g : BitVec 3) (s : State) := lift (alu2 d a b g (fun a b => a >>> cnt b)) s
/-- SAR (R376). -/
def execSar (_ : Hdr) (d a b : BitVec 6) (g : BitVec 3) (s : State) :=
  lift (alu2 d a b g (fun a b => a.sshiftRight (cnt b))) s
/-- ROT (R376). -/
def execRot (_ : Hdr) (d a b : BitVec 6) (g : BitVec 3) (s : State) :=
  lift (alu2 d a b g (fun a b => a.rotateLeft (cnt b))) s
/-- IADD64 (R346). -/
def execIadd64 (_ : Hdr) (d a b : BitVec 6) (g : BitVec 3) (s : State) :=
  lift (fun _ m => m.writeV2 4 d.toNat (m.active g.toNat) (fun l => m.v2 a.toNat l + m.v2 b.toNat l)) s
/-- BYTP (R313). -/
def execBytp (_ : Hdr) (d a b : BitVec 6) (g : BitVec 3) (s : State) := lift (alu2 d a b g bytp) s
/-- BFE (R305). -/
def execBfe (_ : Hdr) (d a b : BitVec 6) (g : BitVec 3) (s : State) := lift (alu2 d a b g bfe) s
/-- BFI (R306). -/
def execBfi (_ : Hdr) (d a b : BitVec 6) (g : BitVec 3) (s : State) := lift (alu3 d a b g bfi) s
/-- IDOT4 (R127). -/
def execIdot4 (_ : Hdr) (d a b : BitVec 6) (g : BitVec 3) (s : State) := lift (alu3 d a b g (idot true 8)) s
/-- IDOT4U (R127). -/
def execIdot4u (_ : Hdr) (d a b : BitVec 6) (g : BitVec 3) (s : State) := lift (alu3 d a b g (idot false 8)) s
/-- IDOT8 (R127). -/
def execIdot8 (_ : Hdr) (d a b : BitVec 6) (g : BitVec 3) (s : State) := lift (alu3 d a b g (idot true 4)) s
/-- IDIV (R351): not implemented; it traps whether or not a lane is active. -/
def execIdiv (_ : Hdr) (_ _ _ : BitVec 6) (_ : BitVec 3) (s : State) := lift (fun _ m => m.trapWord 1 3) s
/-- IREM (R351): as IDIV. -/
def execIrem (_ : Hdr) (_ _ _ : BitVec 6) (_ : BitVec 3) (s : State) := lift (fun _ m => m.trapWord 1 3) s

/-- IADDI (R347). -/
def execIaddi (_ : Hdr) (d a : BitVec 6) (i : BitVec 9) (s : State) := lift (aluI d a (· + sextw i)) s
/-- ANDI (R297). -/
def execAndi (_ : Hdr) (d a : BitVec 6) (i : BitVec 9) (s : State) := lift (aluI d a (· &&& sextw i)) s
/-- ORI (R368). -/
def execOri (_ : Hdr) (d a : BitVec 6) (i : BitVec 9) (s : State) := lift (aluI d a (· ||| sextw i)) s
/-- XORI (R368). -/
def execXori (_ : Hdr) (d a : BitVec 6) (i : BitVec 9) (s : State) := lift (aluI d a (· ^^^ sextw i)) s
/-- SHLI (R376). -/
def execShli (_ : Hdr) (d a : BitVec 6) (i : BitVec 5) (s : State) := lift (aluI d a (· <<< i.toNat)) s
/-- SHRI (R376). -/
def execShri (_ : Hdr) (d a : BitVec 6) (i : BitVec 5) (s : State) := lift (aluI d a (· >>> i.toNat)) s
/-- SARI (R376). -/
def execSari (_ : Hdr) (d a : BitVec 6) (i : BitVec 5) (s : State) := lift (aluI d a (fun a => a.sshiftRight i.toNat)) s
/-- IMULI (R347). -/
def execImuli (_ : Hdr) (d a : BitVec 6) (i : BitVec 9) (s : State) := lift (aluI d a (· * sextw i)) s
/-- MOVL (R365). -/
def execMovl (_ : Hdr) (d : BitVec 5) (i : BitVec 16) (s : State) :=
  lift (fun _ m => m.writeV 4 d.toNat (m.active 0) (fun _ => i.setWidth 32)) s
/-- MOVH (R365): vD[15:0] is kept. -/
def execMovh (_ : Hdr) (d : BitVec 5) (i : BitVec 16) (s : State) :=
  lift (fun _ m => m.writeV 4 d.toNat (m.active 0) (fun l => i ++ (m.v d.toNat l).setWidth 16)) s
/-- SMOVL (R378). -/
def execSmovl (_ : Hdr) (d : BitVec 5) (i : BitVec 16) (s : State) :=
  lift (fun _ m => m.writeS 4 d.toNat (i.setWidth 32)) s
/-- SMOVH (R378): s[D][15:0] is kept. -/
def execSmovh (_ : Hdr) (d : BitVec 5) (i : BitVec 16) (s : State) :=
  lift (fun _ m => m.writeS 4 d.toNat (i ++ (m.s d.toNat).setWidth 16)) s
/-- MOVS (R366). -/
def execMovs (_ : Hdr) (d : BitVec 6) (s : BitVec 8) (st : State) :=
  lift (fun _ m => m.writeV 4 d.toNat (m.active 0) (fun _ => m.s s.toNat)) st
/-- VTOS (R395): vA of lane D, whatever that lane's state. -/
def execVtos (_ : Hdr) (d a : BitVec 6) (s : BitVec 8) (st : State) :=
  lift (fun _ m => m.writeS 4 s.toNat (m.v a.toNat d.toNat)) st
/-- IADDS (R348). -/
def execIadds (_ : Hdr) (d a : BitVec 6) (s : BitVec 8) (st : State) :=
  lift (fun _ m => m.writeV 4 d.toNat (m.active 0) (fun l => m.v a.toNat l + m.s s.toNat)) st
/-- IMADS (R348). -/
def execImads (_ : Hdr) (d a : BitVec 6) (s : BitVec 8) (st : State) :=
  lift (fun _ m => m.writeV 4 d.toNat (m.active 0) (fun l => m.v a.toNat l * m.s s.toNat + m.v d.toNat l)) st

/-- SADD (R377). -/
def execSadd (_ : Hdr) (d a : BitVec 8) (s : State) := lift (sop d a (· + ·)) s
/-- SSUB (R377). -/
def execSsub (_ : Hdr) (d a : BitVec 8) (s : State) := lift (sop d a (· - ·)) s
/-- SMUL (R377). -/
def execSmul (_ : Hdr) (d a : BitVec 8) (s : State) := lift (sop d a (· * ·)) s
/-- SAND (R377). -/
def execSand (_ : Hdr) (d a : BitVec 8) (s : State) := lift (sop d a (· &&& ·)) s
/-- SOR (R377). -/
def execSor (_ : Hdr) (d a : BitVec 8) (s : State) := lift (sop d a (· ||| ·)) s
/-- SXOR (R377). -/
def execSxor (_ : Hdr) (d a : BitVec 8) (s : State) := lift (sop d a (· ^^^ ·)) s
/-- SSHL (R377). -/
def execSshl (_ : Hdr) (d a : BitVec 8) (s : State) := lift (sop d a (fun d a => d <<< cnt a)) s
/-- SSHR (R377). -/
def execSshr (_ : Hdr) (d a : BitVec 8) (s : State) := lift (sop d a (fun d a => d >>> cnt a)) s
/-- SSAR (R377). -/
def execSsar (_ : Hdr) (d a : BitVec 8) (s : State) := lift (sop d a (fun d a => d.sshiftRight (cnt a))) s
/-- SMIN (R377). -/
def execSmin (_ : Hdr) (d a : BitVec 8) (s : State) := lift (sop d a sMin) s
/-- SMAX (R377). -/
def execSmax (_ : Hdr) (d a : BitVec 8) (s : State) := lift (sop d a sMax) s
/-- SMINU (R377). -/
def execSminu (_ : Hdr) (d a : BitVec 8) (s : State) := lift (sop d a uMin) s
/-- SMAXU (R377). -/
def execSmaxu (_ : Hdr) (d a : BitVec 8) (s : State) := lift (sop d a uMax) s
/-- SMOV (R377). -/
def execSmov (_ : Hdr) (d a : BitVec 8) (s : State) := lift (sop d a (fun _ a => a)) s
/-- SNOT (R377). -/
def execSnot (_ : Hdr) (d a : BitVec 8) (s : State) := lift (sop d a (fun _ a => ~~~a)) s
/-- SNEG (R377). -/
def execSneg (_ : Hdr) (d a : BitVec 8) (s : State) := lift (sop d a (fun _ a => -a)) s
/-- SEQ (R377). -/
def execSeq (_ : Hdr) (d a : BitVec 8) (s : State) := lift (sop d a (fun d a => bword (d == a))) s
/-- SLT (R377). -/
def execSlt (_ : Hdr) (d a : BitVec 8) (s : State) := lift (sop d a (fun d a => bword (BitVec.slt d a))) s
/-- SLTU (R377). -/
def execSltu (_ : Hdr) (d a : BitVec 8) (s : State) := lift (sop d a (fun d a => bword (BitVec.ult d a))) s
/-- SADDI (R378). -/
def execSaddi (_ : Hdr) (d : BitVec 8) (i : BitVec 13) (s : State) :=
  lift (fun _ m => m.writeS 4 d.toNat (m.s d.toNat + sextw i)) s

/-- POPC (R315). -/
def execPopc (_ : Hdr) (d a : BitVec 6) (g : BitVec 2) (s : State) :=
  lift (aluU d g (fun m l => word (popCount (m.v a.toNat l)))) s
/-- CLZ (R315). -/
def execClz (_ : Hdr) (d a : BitVec 6) (g : BitVec 2) (s : State) :=
  lift (aluU d g (fun m l => word (clz (m.v a.toNat l)))) s
/-- BREV (R315). -/
def execBrev (_ : Hdr) (d a : BitVec 6) (g : BitVec 2) (s : State) := lift (aluU d g (fun m l => (m.v a.toNat l).reverse)) s
/-- NOT (R315). -/
def execNot (_ : Hdr) (d a : BitVec 6) (g : BitVec 2) (s : State) := lift (aluU d g (fun m l => ~~~m.v a.toNat l)) s
/-- INEG (R315). -/
def execIneg (_ : Hdr) (d a : BitVec 6) (g : BitVec 2) (s : State) := lift (aluU d g (fun m l => -m.v a.toNat l)) s
/-- IABS (R315). -/
def execIabs (_ : Hdr) (d a : BitVec 6) (g : BitVec 2) (s : State) :=
  lift (aluU d g (fun m l => let x := m.v a.toNat l; if wbit x 31 then -x else x)) s
/-- LID (R315). -/
def execLid (_ : Hdr) (d : BitVec 6) (g : BitVec 2) (s : State) := lift (aluU d g (fun _ l => word l)) s

/-- NOP (R250, R367): nothing beyond its issue. -/
def execNop (_ : Hdr) (s : State) := lift (fun _ m => m) s

end Sys2Proof.Machine
end

