-- ==== Sys2Proof/Machine/Registers.lean ====
section
/-! DEFINITION. Reads and writes of the register space by control cores (R10 to R12, R222), of the NVMe module's registers (R240, R245)
and of the register pages of host-link functions (R230 to R232): what REGISTER_WRITE does at every address. -/
namespace Sys2Proof.Machine

/-! ## The register page of a host-link function (R230 to R232, R239) -/

/-- The number that the model gives to offset `off` of function `f`'s register page, which no aperture holds (log 21). -/
def fnReg (f off : Nat) : Nat := 2 ^ 48 + 0x10000 * f + off
/-- The function and offset that an address beyond the physical space stands for. -/
def fnPlace (a : Nat) : Option (Nat × Nat) :=
  if 2 ^ 48 ≤ a ∧ a < fnReg 257 0 then some ((a - 2 ^ 48) / 0x10000, (a - 2 ^ 48) % 0x10000) else none
/-- FEATSTAT[0], GO (R230): the driver's choice is accepted or refused. -/
def Mach.negotiate (m : Mach) (f : Nat) : Mach :=
  let x := m.func f
  let d (i : Nat) : Word := x.drv.getD i 0
  let good : Bool := d 0 &&& ~~~m.offer = 0 && d 1 = 0 && d 2 = 0 && d 3 = 0 && wbit (d 0) 2
  if f > 256 ∨ x.refused then m
  else m.modFunc f (fun x => if good then { x with ok := true } else { x with ok := false, refused := true })
/-- FEATURE_NEGOTIATE (R230): a refused function stays refused until its reset. -/
def execFeatureNegotiate (func : Nat) (s : State) := lift (fun _ m => m.negotiate func) s
/-- A 32-bit write to a function's register page; EVBASE is held as two words. -/
def Mach.fnWrite (m : Mach) (f off : Nat) (v : Word) : Mach :=
  if 0x110 ≤ off ∧ off < 0x120 ∧ off % 4 = 0 then m.modFunc f (fun x => { x with drv := x.drv.set ((off - 0x110) / 4) v })
  else match off with
    | 0x120 => if wbit v 0 then m.negotiate f else m
    | 0x140 => m.modFunc f (fun x => { x with evbase := x.evbase / 2 ^ 32 * 2 ^ 32 + v.toNat })
    | 0x144 => m.modFunc f (fun x => { x with evbase := v.toNat * 2 ^ 32 + x.evbase % 2 ^ 32 })
    | 0x148 => m.modFunc f (fun x => { x with evcfg := wbits v 0 5 })
    | 0x14C => m.modFunc f (fun x => { x with evhead := v })
    | _ => m
/-- A 32-bit read of a function's register page; after a boot that failed the feature registers read 0 (R228). -/
def Mach.fnRead (m : Mach) (f off : Nat) : Word :=
  let x := m.func f
  if m.unbooted && 0x100 ≤ off && off < 0x124 then 0
  else if 0x110 ≤ off ∧ off < 0x120 ∧ off % 4 = 0 then x.drv.getD ((off - 0x110) / 4) 0
  else match off with
    | 0x100 => m.offer
    | 0x120 => word (2 * x.ok.toNat + 4 * x.refused.toNat)
    | 0x138 => x.lasth
    | 0x13C => x.dbrej
    | 0x140 => word x.evbase
    | 0x144 => word (x.evbase / 2 ^ 32)
    | 0x148 => word x.evcfg
    | 0x14C => x.evhead
    | 0x150 => x.nextd
    | _ => 0

/-! ## Writes (R10) -/

/-- A write of MBTXGO, offset 0x840 of a core's mailbox registers; any other mailbox register stores the value (R229). -/
def Mach.mailWrite (m : Mach) (a core off : Nat) (v : Word) : Mach :=
  if off = 0x840 then m.mailSend core (wbits v 0 10) else m.writeReg a v
/-- A write to a hamlet's block. -/
def Mach.hamWrite (m : Mach) (a h off : Nat) (v : Word) : Mach :=
  if off = 0x630 then m.headWrite h (wbits v 0 9)
  else if off = 0x634 then
    (match wbits v 8 2 with
    | 0 => m.replyRetry h (wbits v 0 8)
    | 1 => m.replyAbort h (wbits v 0 8)
    | _ => m)
  else if off = 0x638 then m.scFree h (wbits v 0 5)
  else if off = 0x648 then m.resumeCmd h v
  else if 0x800 ≤ off ∧ off < 0x850 then m.mailWrite a h off v
  else if 0x10000 ≤ off ∧ off < 0x110000 then m.windowWrite h ((off - 0x10000) / 0x4000) (off % 0x4000) v
  else m.writeReg a v
/-- A write to a die's command-processor block (R205, R220, R229): RESUME and RING of one write both act, RESUME first. -/
def Mach.cpqWrite (mem : Memory) (m : Mach) (a d off : Nat) (v : Word) : Mach :=
  if 0x1000 ≤ off ∧ off < 0x1400 then
    let q := 256 * d + (off - 0x1000) / 4
    let m := if wbit v 1 then m.resumeQueue mem q else m
    if wbit v 0 then m.ring mem q else m
  else if 0x200 ≤ off ∧ off < 0x210 then (if wbit v 0 then m.kick mem (4 * d + (off - 0x200) / 4) else m)
  else if 0x800 ≤ off ∧ off < 0xC00 ∧ off % 0x100 < 0x50 then
    m.mailWrite a (640 + 4 * d + (off - 0x800) / 0x100) (0x800 + off % 0x100) v
  else m.writeReg a v
/-- A write to the steward's block (R23, R215, R229). -/
def Mach.stwWrite (mem : Memory) (m : Mach) (a off : Nat) (v : Word) : Mach :=
  if 0x3000 ≤ off ∧ off < 0x30A0 then m.partownWrite ((off - 0x3000) / 4) v
  else if off = 0x320C then
    (match wbits v 16 2 with
    | 1 => prcmdSave (wbits v 0 12) mem m
    | 2 => prcmdRestore (wbits v 0 12) mem m
    | _ => m)
  else if 0x800 ≤ off ∧ off < 0x850 then m.mailWrite a 656 off v
  else m.writeReg a v
/-- A 32-bit write by a control core, or by the host to a function's page (R10 to R12): a register with no behaviour of its own stores
the value under its access codes, any other acts. -/
def registerWrite (a : Nat) (v : Word) : Act := fun mem m =>
  match fnPlace a with
  | some (f, off) => m.fnWrite f off v
  | none =>
    if 0x800000000000 ≤ a ∧ a < 0x800000004000 then m.nvmeSet (a - 0x800000000000) v
    else if a % 4 ≠ 0 then m
    else match regPlace a with
      | .ham h off => m.hamWrite a h off v
      | .slc s off => if off = 0x10 then m.ccarveWrite mem s v else m.writeReg a v
      | .net d off => if 0x100 ≤ off ∧ off < 0x128 then m.govWrite (10 * d + (off - 0x100) / 4) v else m.writeReg a v
      | .cpq d off => m.cpqWrite mem a d off v
      | .hbm k off => if off = 0 then m.thctlWrite k v else m.writeReg a v
      | .stw off => m.stwWrite mem a off v
      | _ => m.writeReg a v
/-- REGISTER_WRITE (R10 to R12). -/
def execRegisterWrite (addr : Nat) (value : Word) (s : State) := lift (registerWrite addr value) s

/-! ## Reads (R10) -/

/-- A 32-bit read by a control core, or by the host of a function's page: WO and reserved bits read zero (R10, R11). -/
def Mach.readReg (m : Mach) (a : Nat) : Word :=
  match fnPlace a with
  | some (f, off) => m.fnRead f off
  | none =>
    if 0x800000000000 ≤ a ∧ a < 0x800000004000 then m.nvmeWord (a - 0x800000000000)
    else if a % 4 ≠ 0 then 0
    else match regPlace a with
      | .ham h off =>
        if 0x10000 ≤ off ∧ off < 0x110000 then m.windowRead h ((off - 0x10000) / 0x4000) (off % 0x4000) else m.reg a
      | .slc s off => if 0x104 ≤ off ∧ off < 0x180 ∧ off % 8 = 4 then word (m.occCount (.slc s off) ((off - 0x104) / 8)) else m.reg a
      | .llc k off => if 0x104 ≤ off ∧ off < 0x180 ∧ off % 8 = 4 then word (m.occCount (.llc k off) ((off - 0x104) / 8)) else m.reg a
      | _ => m.reg a

end Sys2Proof.Machine
end

