-- ==== Sys2Proof/Machine/Dispatch.lean ====
section
/-! DEFINITION. One instruction's effect: the arm of each constructor calls its meaning. -/
namespace Sys2Proof.Machine

/-- The effect of one instruction: for an instruction word, under the issue context `cur` of the state. -/
def exec (i : Instr) (s : State) : Host.Outcome State Fault Refusal :=
  match i with
  | .iadd h d a b g => Sys2Proof.Machine.execIadd h d a b g s
  | .isub h d a b g => Sys2Proof.Machine.execIsub h d a b g s
  | .imul h d a b g => Sys2Proof.Machine.execImul h d a b g s
  | .imulh h d a b g => Sys2Proof.Machine.execImulh h d a b g s
  | .imulhu h d a b g => Sys2Proof.Machine.execImulhu h d a b g s
  | .imad h d a b g => Sys2Proof.Machine.execImad h d a b g s
  | .imin h d a b g => Sys2Proof.Machine.execImin h d a b g s
  | .imax h d a b g => Sys2Proof.Machine.execImax h d a b g s
  | .iminu h d a b g => Sys2Proof.Machine.execIminu h d a b g s
  | .imaxu h d a b g => Sys2Proof.Machine.execImaxu h d a b g s
  | .and h d a b g => Sys2Proof.Machine.execAnd h d a b g s
  | .or h d a b g => Sys2Proof.Machine.execOr h d a b g s
  | .xor h d a b g => Sys2Proof.Machine.execXor h d a b g s
  | .andn h d a b g => Sys2Proof.Machine.execAndn h d a b g s
  | .sel h d a b g => Sys2Proof.Machine.execSel h d a b g s
  | .shl h d a b g => Sys2Proof.Machine.execShl h d a b g s
  | .shr h d a b g => Sys2Proof.Machine.execShr h d a b g s
  | .sar h d a b g => Sys2Proof.Machine.execSar h d a b g s
  | .rot h d a b g => Sys2Proof.Machine.execRot h d a b g s
  | .iadd64 h d a b g => Sys2Proof.Machine.execIadd64 h d a b g s
  | .bytp h d a b g => Sys2Proof.Machine.execBytp h d a b g s
  | .bfe h d a b g => Sys2Proof.Machine.execBfe h d a b g s
  | .bfi h d a b g => Sys2Proof.Machine.execBfi h d a b g s
  | .idot4 h d a b g => Sys2Proof.Machine.execIdot4 h d a b g s
  | .idot4u h d a b g => Sys2Proof.Machine.execIdot4u h d a b g s
  | .idot8 h d a b g => Sys2Proof.Machine.execIdot8 h d a b g s
  | .idiv h d a b g => Sys2Proof.Machine.execIdiv h d a b g s
  | .irem h d a b g => Sys2Proof.Machine.execIrem h d a b g s
  | .icmp h k f a b n => Sys2Proof.Machine.execIcmp h k f a b n s
  | .fcmp h k f a b n => Sys2Proof.Machine.execFcmp h k f a b n s
  | .dcmp h k f a b n => Sys2Proof.Machine.execDcmp h k f a b n s
  | .iaddi h d a imm => Sys2Proof.Machine.execIaddi h d a imm s
  | .andi h d a imm => Sys2Proof.Machine.execAndi h d a imm s
  | .ori h d a imm => Sys2Proof.Machine.execOri h d a imm s
  | .xori h d a imm => Sys2Proof.Machine.execXori h d a imm s
  | .shli h d a imm => Sys2Proof.Machine.execShli h d a imm s
  | .shri h d a imm => Sys2Proof.Machine.execShri h d a imm s
  | .sari h d a imm => Sys2Proof.Machine.execSari h d a imm s
  | .imuli h d a imm => Sys2Proof.Machine.execImuli h d a imm s
  | .movl h d imm => Sys2Proof.Machine.execMovl h d imm s
  | .movh h d imm => Sys2Proof.Machine.execMovh h d imm s
  | .smovl h d imm => Sys2Proof.Machine.execSmovl h d imm s
  | .smovh h d imm => Sys2Proof.Machine.execSmovh h d imm s
  | .movs h d s1 => Sys2Proof.Machine.execMovs h d s1 s
  | .vtos h d a s1 => Sys2Proof.Machine.execVtos h d a s1 s
  | .iadds h d a s1 => Sys2Proof.Machine.execIadds h d a s1 s
  | .imads h d a s1 => Sys2Proof.Machine.execImads h d a s1 s
  | .sadd h d a => Sys2Proof.Machine.execSadd h d a s
  | .ssub h d a => Sys2Proof.Machine.execSsub h d a s
  | .smul h d a => Sys2Proof.Machine.execSmul h d a s
  | .sand h d a => Sys2Proof.Machine.execSand h d a s
  | .sor h d a => Sys2Proof.Machine.execSor h d a s
  | .sxor h d a => Sys2Proof.Machine.execSxor h d a s
  | .sshl h d a => Sys2Proof.Machine.execSshl h d a s
  | .sshr h d a => Sys2Proof.Machine.execSshr h d a s
  | .ssar h d a => Sys2Proof.Machine.execSsar h d a s
  | .smin h d a => Sys2Proof.Machine.execSmin h d a s
  | .smax h d a => Sys2Proof.Machine.execSmax h d a s
  | .sminu h d a => Sys2Proof.Machine.execSminu h d a s
  | .smaxu h d a => Sys2Proof.Machine.execSmaxu h d a s
  | .smov h d a => Sys2Proof.Machine.execSmov h d a s
  | .snot h d a => Sys2Proof.Machine.execSnot h d a s
  | .sneg h d a => Sys2Proof.Machine.execSneg h d a s
  | .seq h d a => Sys2Proof.Machine.execSeq h d a s
  | .slt h d a => Sys2Proof.Machine.execSlt h d a s
  | .sltu h d a => Sys2Proof.Machine.execSltu h d a s
  | .saddi h d imm => Sys2Proof.Machine.execSaddi h d imm s
  | .fadd h d a b q g => Sys2Proof.Machine.execFadd h d a b q g s
  | .fsub h d a b q g => Sys2Proof.Machine.execFsub h d a b q g s
  | .fmul h d a b q g => Sys2Proof.Machine.execFmul h d a b q g s
  | .ffma h d a b q g => Sys2Proof.Machine.execFfma h d a b q g s
  | .fmin h d a b q g => Sys2Proof.Machine.execFmin h d a b q g s
  | .fmax h d a b q g => Sys2Proof.Machine.execFmax h d a b q g s
  | .dadd h d a b q g => Sys2Proof.Machine.execDadd h d a b q g s
  | .dmul h d a b q g => Sys2Proof.Machine.execDmul h d a b q g s
  | .dfma h d a b q g => Sys2Proof.Machine.execDfma h d a b q g s
  | .hfma2 h d a b q g => Sys2Proof.Machine.execHfma2 h d a b q g s
  | .bfma2 h d a b q g => Sys2Proof.Machine.execBfma2 h d a b q g s
  | .fdot4 h d a b q g => Sys2Proof.Machine.execFdot4 h d a b q g s
  | .fdot8 h d a b q g => Sys2Proof.Machine.execFdot8 h d a b q g s
  | .fneg h d a q g => Sys2Proof.Machine.execFneg h d a q g s
  | .fabs h d a q g => Sys2Proof.Machine.execFabs h d a q g s
  | .frcp h d a q g => Sys2Proof.Machine.execFrcp h d a q g s
  | .frsq h d a q g => Sys2Proof.Machine.execFrsq h d a q g s
  | .fsqrt h d a q g => Sys2Proof.Machine.execFsqrt h d a q g s
  | .fexp2 h d a q g => Sys2Proof.Machine.execFexp2 h d a q g s
  | .flog2 h d a q g => Sys2Proof.Machine.execFlog2 h d a q g s
  | .fsin h d a q g => Sys2Proof.Machine.execFsin h d a q g s
  | .fcos h d a q g => Sys2Proof.Machine.execFcos h d a q g s
  | .ftanh h d a q g => Sys2Proof.Machine.execFtanh h d a q g s
  | .ffloor h d a q g => Sys2Proof.Machine.execFfloor h d a q g s
  | .fceil h d a q g => Sys2Proof.Machine.execFceil h d a q g s
  | .frnd h d a q g => Sys2Proof.Machine.execFrnd h d a q g s
  | .ftrunc h d a q g => Sys2Proof.Machine.execFtrunc h d a q g s
  | .drcp h d a q g => Sys2Proof.Machine.execDrcp h d a q g s
  | .dsqrt h d a q g => Sys2Proof.Machine.execDsqrt h d a q g s
  | .dneg h d a q g => Sys2Proof.Machine.execDneg h d a q g s
  | .dabs h d a q g => Sys2Proof.Machine.execDabs h d a q g s
  | .cvt h d a f q g => Sys2Proof.Machine.execCvt h d a f q g s
  | .cvtMode h d a p m q g => Sys2Proof.Machine.execCvtMode h d a p m q g s
  | .qswz h d a m g => Sys2Proof.Machine.execQswz h d a m g s
  | .qbcast h d a j g => Sys2Proof.Machine.execQbcast h d a j g s
  | .qdiffx h d a g => Sys2Proof.Machine.execQdiffx h d a g s
  | .qdiffy h d a g => Sys2Proof.Machine.execQdiffy h d a g s
  | .shfl h d a b g => Sys2Proof.Machine.execShfl h d a b g s
  | .voteNz h k a n => Sys2Proof.Machine.execVoteNz h k a n s
  | .voteZ h k a n => Sys2Proof.Machine.execVoteZ h k a n s
  | .matchK h k a => Sys2Proof.Machine.execMatchK h k a s
  | .redw h d a f g => Sys2Proof.Machine.execRedw h d a f g s
  | .scanw h d a f g => Sys2Proof.Machine.execScanw h d a f g s
  | .kand h k a b => Sys2Proof.Machine.execKand h k a b s
  | .kor h k a b => Sys2Proof.Machine.execKor h k a b s
  | .kxor h k a b => Sys2Proof.Machine.execKxor h k a b s
  | .kandn h k a b => Sys2Proof.Machine.execKandn h k a b s
  | .knot h k a => Sys2Proof.Machine.execKnot h k a s
  | .kmov h k a => Sys2Proof.Machine.execKmov h k a s
  | .ktos h d a => Sys2Proof.Machine.execKtos h d a s
  | .stok h d a => Sys2Proof.Machine.execStok h d a s
  | .kpop h d a => Sys2Proof.Machine.execKpop h d a s
  | .join h k g => Sys2Proof.Machine.execJoin h k g s
  | .leave h k g => Sys2Proof.Machine.execLeave h k g s
  | .waitk h k g => Sys2Proof.Machine.execWaitk h k g s
  | .elect h k g => Sys2Proof.Machine.execElect h k g s
  | .ksync h k a g => Sys2Proof.Machine.execKsync h k a g s
  | .popc h d a g => Sys2Proof.Machine.execPopc h d a g s
  | .clz h d a g => Sys2Proof.Machine.execClz h d a g s
  | .brev h d a g => Sys2Proof.Machine.execBrev h d a g s
  | .not h d a g => Sys2Proof.Machine.execNot h d a g s
  | .ineg h d a g => Sys2Proof.Machine.execIneg h d a g s
  | .iabs h d a g => Sys2Proof.Machine.execIabs h d a g s
  | .lid h d g => Sys2Proof.Machine.execLid h d g s
  | .fxrd h d g => Sys2Proof.Machine.execFxrd h d g s
  | .fxclr h a g => Sys2Proof.Machine.execFxclr h a g s
  | .fxset h a g => Sys2Proof.Machine.execFxset h a g s
  | .vrd h d a g => Sys2Proof.Machine.execVrd h d a g s
  | .vwr h a b g => Sys2Proof.Machine.execVwr h a b g s
  | .lds h t a o z => Sys2Proof.Machine.execLds h t a o z s
  | .sts h t a o z => Sys2Proof.Machine.execSts h t a o z s
  | .ldc h t a o z h1 => Sys2Proof.Machine.execLdc h t a o z h1 s
  | .stc h t a o z h1 => Sys2Proof.Machine.execStc h t a o z h1 s
  | .ldx h t a o z h1 => Sys2Proof.Machine.execLdx h t a o z h1 s
  | .stx h t a o z h1 => Sys2Proof.Machine.execStx h t a o z h1 s
  | .ldio h t a o z => Sys2Proof.Machine.execLdio h t a o z s
  | .stio h t a o z => Sys2Proof.Machine.execStio h t a o z s
  | .spill h t a o z h1 => Sys2Proof.Machine.execSpill h t a o z h1 s
  | .fill h t a o z h1 => Sys2Proof.Machine.execFill h t a o z h1 s
  | .atomAdd h t a b s1 => Sys2Proof.Machine.execAtomAdd h t a b s1 s
  | .atomFadd h t a b s1 => Sys2Proof.Machine.execAtomFadd h t a b s1 s
  | .atomMin h t a b s1 => Sys2Proof.Machine.execAtomMin h t a b s1 s
  | .atomMax h t a b s1 => Sys2Proof.Machine.execAtomMax h t a b s1 s
  | .atomAnd h t a b s1 => Sys2Proof.Machine.execAtomAnd h t a b s1 s
  | .atomOr h t a b s1 => Sys2Proof.Machine.execAtomOr h t a b s1 s
  | .atomXor h t a b s1 => Sys2Proof.Machine.execAtomXor h t a b s1 s
  | .atomExch h t a b s1 => Sys2Proof.Machine.execAtomExch h t a b s1 s
  | .atomCas h t a b s1 => Sys2Proof.Machine.execAtomCas h t a b s1 s
  | .atomInc h t a b s1 => Sys2Proof.Machine.execAtomInc h t a b s1 s
  | .bra h k o => Sys2Proof.Machine.execBra h k o s
  | .brasZ h s1 o => Sys2Proof.Machine.execBrasZ h s1 o s
  | .brasNz h s1 o => Sys2Proof.Machine.execBrasNz h s1 o s
  | .brx h a g => Sys2Proof.Machine.execBrx h a g s
  | .call h d o => Sys2Proof.Machine.execCall h d o s
  | .ret h a g => Sys2Proof.Machine.execRet h a g s
  | .exit h g => Sys2Proof.Machine.execExit h g s
  | .syscall h n a => Sys2Proof.Machine.execSyscall h n a s
  | .trap h imm g => Sys2Proof.Machine.execTrap h imm g s
  | .tret h => Sys2Proof.Machine.execTret h s
  | .bkpt h g => Sys2Proof.Machine.execBkpt h g s
  | .srd h d a => Sys2Proof.Machine.execSrd h d a s
  | .swr h d a => Sys2Proof.Machine.execSwr h d a s
  | .fence h s1 k g => Sys2Proof.Machine.execFence h s1 k g s
  | .binit h b s1 g => Sys2Proof.Machine.execBinit h b s1 g s
  | .barr h b s1 g => Sys2Proof.Machine.execBarr h b s1 g s
  | .barrd h b s1 g => Sys2Proof.Machine.execBarrd h b s1 g s
  | .barrj h b s1 g => Sys2Proof.Machine.execBarrj h b s1 g s
  | .bwait h b s1 g => Sys2Proof.Machine.execBwait h b s1 g s
  | .bsync h b g => Sys2Proof.Machine.execBsync h b g s
  | .copy h h1 s1 n p z => Sys2Proof.Machine.execCopy h h1 s1 n p z s
  | .copys h h1 s1 n p z => Sys2Proof.Machine.execCopys h h1 s1 n p z s
  | .copym h h1 s1 n p z => Sys2Proof.Machine.execCopym h h1 s1 n p z s
  | .gath h h1 s1 n p z => Sys2Proof.Machine.execGath h h1 s1 n p z s
  | .pref h h1 s1 n p z => Sys2Proof.Machine.execPref h h1 s1 n p z s
  | .amo h h1 s1 n p z => Sys2Proof.Machine.execAmo h h1 s1 n p z s
  | .layset h s1 n z => Sys2Proof.Machine.execLayset h s1 n z s
  | .cpwait h s1 p z => Sys2Proof.Machine.execCpwait h s1 p z s
  | .mmop h h1 s1 n z => Sys2Proof.Machine.execMmop h h1 s1 n z s
  | .mmsp h h1 s1 n z => Sys2Proof.Machine.execMmsp h h1 s1 n z s
  | .mmdrain h h1 s1 n z => Sys2Proof.Machine.execMmdrain h h1 s1 n z s
  | .mmwait h s1 z => Sys2Proof.Machine.execMmwait h s1 z s
  | .batonTake h z => Sys2Proof.Machine.execBatonTake h z s
  | .batonPass h z => Sys2Proof.Machine.execBatonPass h z s
  | .qenq h s1 n z => Sys2Proof.Machine.execQenq h s1 n z s
  | .qwait h s1 z => Sys2Proof.Machine.execQwait h s1 z s
  | .taskget h s1 z => Sys2Proof.Machine.execTaskget h s1 z s
  | .taskend h s1 z => Sys2Proof.Machine.execTaskend h s1 z s
  | .enq h s1 z => Sys2Proof.Machine.execEnq h s1 z s
  | .lease h imm => Sys2Proof.Machine.execLease h imm s
  | .yield h => Sys2Proof.Machine.execYield h s
  | .nop h => Sys2Proof.Machine.execNop h s
  | .packageReset => Sys2Proof.Machine.execPackageReset s
  | .governorStep parish depth => Sys2Proof.Machine.execGovernorStep parish depth s
  | .powerControlTick watts => Sys2Proof.Machine.execPowerControlTick watts s
  | .thermalHot stack temp => Sys2Proof.Machine.execThermalHot stack temp s
  | .freezeEnd => Sys2Proof.Machine.execFreezeEnd s
  | .flitEjection req => Sys2Proof.Machine.execFlitEjection req s
  | .homeAccess req => Sys2Proof.Machine.execHomeAccess req s
  | .peerForwardRequest req => Sys2Proof.Machine.execPeerForwardRequest req s
  | .remoteSharedRequest req => Sys2Proof.Machine.execRemoteSharedRequest req s
  | .loadDataReturn req => Sys2Proof.Machine.execLoadDataReturn req s
  | .vrdLanding ham warp pend => Sys2Proof.Machine.execVrdLanding ham warp pend s
  | .vwrLanding ham warp pend => Sys2Proof.Machine.execVwrLanding ham warp pend s
  | .activeSetJoin ham warp => Sys2Proof.Machine.execActiveSetJoin ham warp s
  | .forcedJoin ham warp => Sys2Proof.Machine.execForcedJoin ham warp s
  | .activeSetLeave ham warp => Sys2Proof.Machine.execActiveSetLeave ham warp s
  | .leaseReestimate ham warp => Sys2Proof.Machine.execLeaseReestimate ham warp s
  | .passedOverExpiry ham warp => Sys2Proof.Machine.execPassedOverExpiry ham warp s
  | .streakExpiry ham warp => Sys2Proof.Machine.execStreakExpiry ham warp s
  | .yieldExpiry ham warp => Sys2Proof.Machine.execYieldExpiry ham warp s
  | .clusterPlacement launch => Sys2Proof.Machine.execClusterPlacement launch s
  | .blockWarpsEligible ham block => Sys2Proof.Machine.execBlockWarpsEligible ham block s
  | .blockEnd ham block => Sys2Proof.Machine.execBlockEnd ham block s
  | .contextLeave ham slot => Sys2Proof.Machine.execContextLeave ham slot s
  | .laysetArrival ham id => Sys2Proof.Machine.execLaysetArrival ham id s
  | .commandStart ham unit => Sys2Proof.Machine.execCommandStart ham unit s
  | .commandChunk ham chan => Sys2Proof.Machine.execCommandChunk ham chan s
  | .chunkAcknowledgement ham chan cmd => Sys2Proof.Machine.execChunkAcknowledgement ham chan cmd s
  | .amoPerform ham chan => Sys2Proof.Machine.execAmoPerform ham chan s
  | .fqreplyRetry ham entry => Sys2Proof.Machine.execFqreplyRetry ham entry s
  | .fqreplyAbort ham entry => Sys2Proof.Machine.execFqreplyAbort ham entry s
  | .clusterBarrierMessage msg => Sys2Proof.Machine.execClusterBarrierMessage msg s
  | .clusterFlipMessage msg => Sys2Proof.Machine.execClusterFlipMessage msg s
  | .barrierAnswer msg => Sys2Proof.Machine.execBarrierAnswer msg s
  | .qengComplete ham => Sys2Proof.Machine.execQengComplete ham s
  | .shadowLatchLoad ham => Sys2Proof.Machine.execShadowLatchLoad ham s
  | .parameterBlockArrival ham id => Sys2Proof.Machine.execParameterBlockArrival ham id s
  | .engineContextSwitch ham => Sys2Proof.Machine.execEngineContextSwitch ham s
  | .engineCommandStart ham => Sys2Proof.Machine.execEngineCommandStart ham s
  | .mmopTile ham => Sys2Proof.Machine.execMmopTile ham s
  | .activationRowEntry ham => Sys2Proof.Machine.execActivationRowEntry ham s
  | .engineCommandComplete ham => Sys2Proof.Machine.execEngineCommandComplete ham s
  | .drainStart ham => Sys2Proof.Machine.execDrainStart ham s
  | .drainReserve ham => Sys2Proof.Machine.execDrainReserve ham s
  | .drainChunk ham => Sys2Proof.Machine.execDrainChunk ham s
  | .mmspChunk ham => Sys2Proof.Machine.execMmspChunk ham s
  | .fenceRelease ham warp => Sys2Proof.Machine.execFenceRelease ham warp s
  | .orderedAtomRelease ham warp => Sys2Proof.Machine.execOrderedAtomRelease ham warp s
  | .operandLogAccess ham warp entry => Sys2Proof.Machine.execOperandLogAccess ham warp entry s
  | .pageWalkComplete ham walk => Sys2Proof.Machine.execPageWalkComplete ham walk s
  | .fetchFault ham warp code => Sys2Proof.Machine.execFetchFault ham warp code s
  | .sfenceVma ham va asid => Sys2Proof.Machine.execSfenceVma ham va asid s
  | .scstatFree ham bits => Sys2Proof.Machine.execScstatFree ham bits s
  | .resumecmd ham value => Sys2Proof.Machine.execResumecmd ham value s
  | .warpWindowWrite ham warp off value => Sys2Proof.Machine.execWarpWindowWrite ham warp off value s
  | .wctlClrh ham warp => Sys2Proof.Machine.execWctlClrh ham warp s
  | .wctlStop ham warp on => Sys2Proof.Machine.execWctlStop ham warp on s
  | .wctlStep ham warp on => Sys2Proof.Machine.execWctlStep ham warp on s
  | .qdbRing queue => Sys2Proof.Machine.execQdbRing queue s
  | .qdbResume queue => Sys2Proof.Machine.execQdbResume queue s
  | .wdogKick core => Sys2Proof.Machine.execWdogKick core s
  | .watchdogRestart core => Sys2Proof.Machine.execWatchdogRestart core s
  | .packetStart queue => Sys2Proof.Machine.execPacketStart queue s
  | .launch queue => Sys2Proof.Machine.execLaunch queue s
  | .batch queue => Sys2Proof.Machine.execBatch queue s
  | .waitsem queue => Sys2Proof.Machine.execWaitsem queue s
  | .waitsemPoll queue => Sys2Proof.Machine.execWaitsemPoll queue s
  | .signal queue => Sys2Proof.Machine.execSignal queue s
  | .muster queue => Sys2Proof.Machine.execMuster queue s
  | .musterReserveGrant queue part => Sys2Proof.Machine.execMusterReserveGrant queue part s
  | .musterStartToken queue part => Sys2Proof.Machine.execMusterStartToken queue part s
  | .musterRetry queue => Sys2Proof.Machine.execMusterRetry queue s
  | .copyq queue => Sys2Proof.Machine.execCopyq queue s
  | .fenceq queue => Sys2Proof.Machine.execFenceq queue s
  | .qmark queue => Sys2Proof.Machine.execQmark queue s
  | .packetComplete queue => Sys2Proof.Machine.execPacketComplete queue s
  | .taskDeal id => Sys2Proof.Machine.execTaskDeal id s
  | .loadToken seq token => Sys2Proof.Machine.execLoadToken seq token s
  | .stealAck card => Sys2Proof.Machine.execStealAck card s
  | .loadTokenReissue => Sys2Proof.Machine.execLoadTokenReissue s
  | .enqRequest id => Sys2Proof.Machine.execEnqRequest id s
  | .prcmdSave ctx => Sys2Proof.Machine.execPrcmdSave ctx s
  | .prcmdRestore ctx => Sys2Proof.Machine.execPrcmdRestore ctx s
  | .preemptStage2 => Sys2Proof.Machine.execPreemptStage2 s
  | .preemptReset => Sys2Proof.Machine.execPreemptReset s
  | .mailboxSend core dest => Sys2Proof.Machine.execMailboxSend core dest s
  | .mailboxDeliver id => Sys2Proof.Machine.execMailboxDeliver id s
  | .featureNegotiate func => Sys2Proof.Machine.execFeatureNegotiate func s
  | .functionReset func => Sys2Proof.Machine.execFunctionReset func s
  | .hostDoorbell func value => Sys2Proof.Machine.execHostDoorbell func value s
  | .eventRingWrite func => Sys2Proof.Machine.execEventRingWrite func s
  | .partownWrite parish value => Sys2Proof.Machine.execPartownWrite parish value s
  | .ccarveWrite slice value => Sys2Proof.Machine.execCcarveWrite slice value s
  | .clodorFlitReceive port flit => Sys2Proof.Machine.execClodorFlitReceive port flit s
  | .linkPortDown port => Sys2Proof.Machine.execLinkPortDown port s
  | .ethFrameReceive port frame => Sys2Proof.Machine.execEthFrameReceive port frame s
  | .ethFrameTransmit port ring => Sys2Proof.Machine.execEthFrameTransmit port ring s
  | .nvmeDoorbell off value => Sys2Proof.Machine.execNvmeDoorbell off value s
  | .nvmeCommandComplete qid => Sys2Proof.Machine.execNvmeCommandComplete qid s
  | .nvmeEnable value => Sys2Proof.Machine.execNvmeEnable value s
  | .nvmeReady => Sys2Proof.Machine.execNvmeReady s
  | .registerWrite addr value => Sys2Proof.Machine.execRegisterWrite addr value s
  | .stackBelowRel stack temp => Sys2Proof.Machine.execStackBelowRel stack temp s
  | .linkPortUp port => Sys2Proof.Machine.execLinkPortUp port s
  | .fqctlHeadWrite ham head => Sys2Proof.Machine.execFqctlHeadWrite ham head s
  | .handlerModeSaveWaitExpiry ham warp => Sys2Proof.Machine.execHandlerModeSaveWaitExpiry ham warp s

end Sys2Proof.Machine
end

