-- ==== Sys2Proof/Machine/Issue.lean ====
section
/-! DEFINITION. The issue of instruction words: fetching a packet (R249), the runs of a warp (R34, R35, R37), the group at a program
counter and its encoding checks (R61, R62, R66), what keeps a group from issuing (R49, R64 to R67, R114, R332, R371), the choice of
context and warp (R52, R59), and a group's effects, now or later (R61, R63, R326, R335). -/
namespace Sys2Proof.Machine

/-! ## Fetch (R249; log 10) -/

/-- The word at a physical address, as a fetch sees it: the copy of the home slice where there is one. -/
def Mach.peek (mem : Memory) (m : Mach) (q pa : Nat) : Word :=
  match m.target q pa with
  | .main _ =>
    let s := m.homeSlice q pa
    match if m.homed q pa then m.sliceLine s pa else none with
    | some c => leWord (m.rdN mem (keyL2 s c.set c.way + pa % 128) 4)
    | none => leWord (m.rdN mem pa 4)
  | _ => leWord (m.devRead mem q pa 4).1
/-- The outcome of fetching a packet: its words from the program counter on, with their program counters; a wait; a walk to start; or a
fetch fault, with its virtual address. -/
inductive Fetched where
  | words (l : List (Word × Word)) | wait | walk (va : Nat) | fault (c : Cause) (va : Nat)
  deriving DecidableEq, Repr
/-- The word at a program counter of a warp, or why it cannot be had. -/
def Mach.fetchWord (mem : Memory) (m : Mach) (h w : Nat) (pc : Word) : Fetched :=
  let va := m.fetchVa h w pc
  let q := m.partHam h
  match m.translate h (m.warpCtx h w) va .fetch with
  | .miss => .walk va
  | .fault c => .fault c va
  | .hit pa =>
    match m.reach q pa true with
    | .ok => .words [(pc, m.peek mem q pa)]
    | .held => .wait
    | .fault c => .fault c va
/-- The words at some program counters; the first that cannot be had decides. -/
def Mach.fetchAll (mem : Memory) (m : Mach) (h w : Nat) : List Word → Fetched
  | [] => .words []
  | pc :: r =>
    match m.fetchWord mem h w pc with
    | .words a => match m.fetchAll mem h w r with
      | .words b => .words (a ++ b)
      | x => x
    | x => x
/-- Fetch the packet of a program counter: a fault on either of its pages is a fetch fault (R249). -/
def Mach.fetchPacket (mem : Memory) (m : Mach) (h w : Nat) (pc : Word) : Fetched :=
  let k := m.slotOf h w pc
  let later := (List.range (3 - k)).map (fun i => pc + word (4 * i))
  match m.fetchAll mem h w (later ++ (List.range k).map (fun i => pc - word (4 * (k - i)))) with
  | .words l => .words (l.take (3 - k))
  | x => x

/-! ## Runs (R34, R35, R37) -/

/-- The lanes at a program counter. -/
def Warp.at' (x : Warp) (pc : Word) : Word := maskOf (fun l => (x.lane l).pc == pc)
/-- The ready lanes that may issue, in handler mode the handler lanes among them (R181). Lanes that have been released and may not issue yet (R44) form no run until they may: other runs issue
meanwhile, and count for R37 as if they were alone (DESIGN CHOICE, log 23). -/
def Warp.free (x : Warp) (now : Nat) : Word :=
  maskOf (fun l => (x.lane l).st == .ready && (x.lane l).after ≤ now && (!x.hmode || wbit (x.kr 0) l))
/-- The runs of a warp by rising program counter. -/
def Warp.runs (x : Warp) (now : Nat) : List (Word × Word) :=
  let f := x.free now
  (sortBy id (dedup ((lanesOf f).map (fun l => (x.lane l).pc.toNat)))).map (fun p => (word p, f &&& x.at' (word p)))
/-- The run that issues next: program counter, lanes, whether it is the head run, whether another exists. -/
def Warp.chosen (x : Warp) (now : Nat) : Option (Word × Word × Bool × Bool) :=
  match x.runs now with
  | [] => none
  | [a] => some (a.1, a.2, true, false)
  | a :: b :: _ => if x.second then some (b.1, b.2, false, true) else some (a.1, a.2, true, true)

/-! ## Encoding checks (R62, R66, R258, R371) -/

/-- The active lanes of a word of a bundle. -/
def Warp.actOf (x : Warp) (bundle : Word) (i : Instr) : Word :=
  let g := (form i).guard
  bundle &&& x.kr 0 &&& (if g = 0 then 0xFFFFFFFF else x.kr g)
/-- The outstanding writes of a register file to a register, in some lanes of a mask. -/
def Warp.awaiting (x : Warp) (file : RFile) (r : Nat) (lanes : Word) : List Pend :=
  x.pends.filter (fun p => p.file == file && p.regs.contains r && (file == .s || file == .k || (p.mask &&& lanes) != 0))
/-- Register `r` of a file is among the destinations of a word. -/
def Form.writes (f : Form) (file : RFile) (r : Nat) : Bool :=
  match file with
  | .v => f.vd.contains r
  | .s => f.sd.contains r
  | .k => f.kd.contains r
  | .fxOr => f.fxWrite
  | .fxAndn => false
/-- Later words of a FENCE's or an ordered ATOM's group that are to write a register in some lanes of a mask, when the hold ends (R29, R299,
R335). -/
def Warp.coming (x : Warp) (file : RFile) (r : Nat) (lanes : Word) : List Form :=
  x.fences.flatMap (fun h => (h.rest.map (fun e => form (instrOf e.2))).filter (fun f =>
    f.writes file r && (file == .s || file == .k || (h.mask &&& lanes) != 0)))
/-- A shortfall: cycles, register, file number, lowest lane. -/
abbrev Short := Nat × Nat × Nat × Nat
/-- The shortfall of reading or writing a register at a cycle: an outstanding fixed-latency write lands after `by'`. A write that a hold
keeps back lands its latency after the release (R29), at the earliest the next cycle; when the release will be is not known yet. So where the
earliest landing is in time, whether the extended one is, and in every case the shortfall in cycles, are read from a free value `u` (log 23). -/
def Warp.short (x : Warp) (now u : Nat) (file : RFile) (fileNo r : Nat) (lanes : Word) (by' : Nat) : Option Short :=
  let late := (x.awaiting file r lanes).filter (fun p => !p.var && (match p.land with | some t => t > by' | none => false))
  let back := (x.coming file r lanes).any (fun f => !f.var && (now + 1 + f.lat > by' || u % 2 = 1))
  let n := if back then max 1 (u / 2) else maxOf (late.map (fun p => p.land.getD 0 - by'))
  let where' := maskOf (fun l => wbit lanes l && late.any (fun p => wbit p.mask l))
  if late = [] && !back then none
  else some (n, r, fileNo, if file == .s || file == .k then (lowestLane lanes).getD 0 else (lowestLane where').getD 0)
/-- The first undersized wait of a word: its sources, then its fixed-latency destinations, which must land after every outstanding
write to them (R66). `held` is the latency by which its group is withheld, if it is: its results land then (R29, R326). VRD is exempt
(R287). -/
def Warp.undersized (x : Warp) (now u : Nat) (held : Option Nat) (bundle : Word) (i : Instr) : Option Short :=
  let f := form i
  let act := x.actOf bundle i
  let short := x.short now u
  let src := (ownSources i).map (fun r => short .v 0 r act now) ++
    (crossSources i x bundle act).map (fun e => short .v 0 e.1 e.2 now) ++
    f.sa.map (fun r => short .s 1 r bundle now) ++ f.ka.map (fun r => short .k 2 r bundle now) ++
    (if f.fxRead then [(short .fxOr 3 0 act now).orElse (fun _ => short .fxAndn 3 0 act now)] else [])
  let lands := now + held.getD f.lat - 1
  let dst := if f.var then [] else
    f.vd.map (fun r => short .v 0 r act lands) ++ f.sd.map (fun r => short .s 1 r bundle lands) ++
    f.kd.map (fun r => short .k 2 r bundle lands)
  match i with
  | .vrd .. => none
  | _ => (src ++ dst).findSome? id
/-- The details of an undersized wait (R177). -/
def shortWords (s : Short) : Word × Word := (word (s.2.1 % 256 + s.2.2.1 % 4 * 2 ^ 8 + s.1 % 2 ^ 16 * 2 ^ 16), word (s.2.2.2 % 32))
/-- R62: the words of the group that begins a list of words, and the word that fails a check, if any. `used` holds the pipes taken by
the words before; `check` is the check of R66. -/
def groupWords (check : Instr → Option Short) : List Pipe → List (Word × Word) → List (Word × Word) × Option EncAt
  | _, [] => ([], none)
  | used, (pc, w) :: rest =>
    let bad (code : Nat) (d1 d2 : Word) : List (Word × Word) × Option EncAt :=
      let e : EncAt := { pc, word := w, code, d1, d2 }
      ([], some e)
    let c := (hdrOf w).1
    match decode w with
    | .error .reservedOp => bad 1 0 0
    | .error .badField => bad 2 0 0
    | .ok i =>
      let p := (form i).pipe
      match i with
      | .idiv .. => bad 3 0 0
      | .irem .. => bad 3 0 0
      | _ =>
        if (p != .none && used.contains p) || (c && endsGroup i) then bad 4 0 0
        else if c && rest = [] then bad 5 0 0
        else match check i with
          | some s => bad 6 (shortWords s).1 (shortWords s).2
          | none =>
            if c then
              let (l, e) := groupWords check (p :: used) rest
              ((pc, w) :: l, e)
            else ([(pc, w)], none)

/-! ## Stalls (R49, R64, R67, R114, R332) -/

/-- The register writes of a word that return at variable latency. -/
def Form.entries (f : Form) : Nat := if f.var then f.vd.length + f.sd.length + f.kd.length else 0
/-- The outstanding register writes that R67 counts, those that a hold keeps back among them. -/
def Warp.varCount (x : Warp) : Nat :=
  (x.pends.filter (·.var)).foldl (fun t p => t + p.regs.length) 0 +
  (x.fences.flatMap (·.rest)).foldl (fun t e => t + (form (instrOf e.2)).entries) 0
/-- R67: the group has a variable-latency word, and the warp's 32 entries cannot take the writes of such words. -/
def Warp.entriesFull (x : Warp) (is : List Instr) : Bool :=
  let n := is.foldl (fun t i => t + (form i).entries) 0
  n != 0 && x.varCount + n > 32
/-- R67: a word awaits an outstanding variable-latency write. -/
def Warp.awaits (x : Warp) (bundle : Word) (i : Instr) : Bool :=
  let f := form i
  let act := x.actOf bundle i
  let on (file : RFile) (r : Nat) (lanes : Word) : Bool :=
    (x.awaiting file r lanes).any (·.var) || (x.coming file r lanes).any (·.var)
  (ownSources i ++ f.vd).any (fun r => on .v r act) ||
  (crossSources i x bundle act).any (fun e => on .v e.1 e.2) ||
  (f.sa ++ f.sd).any (fun r => on .s r bundle) || (f.ka ++ f.kd).any (fun r => on .k r bundle)
/-- R114: the range scoreboard stalls a thread access of the active lanes, if its address checks pass; so does an earlier LDIO or STIO of a lane
to the same line of Commons (R157). -/
def Mach.rangeStall (m : Mach) (h w : Nat) (bundle : Word) (i : Instr) : Bool :=
  let x := m.warp h w
  let b := m.block h x.block
  let act := x.actOf bundle i
  let off (a : BitVec 6) (o size l : Nat) : Word := x.vr a.toNat l + word (o * size)
  let shared (store : Bool) (size : Nat) (addr : Nat → Word) : Bool :=
    (firstFail act (fun l => m.sharedCheck b (addr l) size)).isNone &&
    (lanesOf act).any (fun l => sharedRank b (addr l) = b.rank && m.sbWait h 0 store (gransOf (arrOff b (wbits (addr l) 0 18)) size))
  let commons (cross store : Bool) (size : Nat) (addr : Nat → Word) : Bool :=
    (firstFail act (fun l => m.commonsCheck h b.ctx cross (addr l) size store)).isNone &&
    (lanesOf act).any (fun l =>
      let (die, o) := m.commonsX h b.ctx cross (addr l)
      (die = hamDie h && m.sbWait h 1 store (gransOf o size)) || m.ioBefore h w l die o)
  let atom (a : BitVec 6) (so : BitVec 3) : Bool :=
    if so = 0 then shared true 4 (x.vr a.toNat) else commons false true 4 (x.vr a.toNat)
  match i with
  | .lds _ _ a o z => shared false (sizeOf z) (off a o.toNat (sizeOf z))
  | .sts _ _ a o z => shared true (sizeOf z) (off a o.toNat (sizeOf z))
  | .ldc _ _ a o z _ => commons false false (sizeOf z) (off a o.toNat (sizeOf z))
  | .ldx _ _ a o z _ => commons true false (sizeOf z) (off a o.toNat (sizeOf z))
  | .stc _ _ a o z _ => commons false true (sizeOf z) (off a o.toNat (sizeOf z))
  | .stx _ _ a o z _ => commons true true (sizeOf z) (off a o.toNat (sizeOf z))
  | .atomAdd _ _ a _ so | .atomFadd _ _ a _ so | .atomMin _ _ a _ so | .atomMax _ _ a _ so | .atomAnd _ _ a _ so
  | .atomOr _ _ a _ so | .atomXor _ _ a _ so | .atomExch _ _ a _ so | .atomCas _ _ a _ so | .atomInc _ _ a _ so => atom a so
  | _ => false
/-- The words whose record or parameter block is read after they have issued (R99, R142). -/
def readsLater : Instr → Bool
  | .layset .. | .mmop .. | .mmsp .. | .mmdrain .. => true
  | _ => false
/-- R332: an EXIT waits for its active lanes' variable-latency results and operand-log entries, and for the records and parameter blocks
that its warp's commands still await. -/
def Mach.exitWaits (m : Mach) (h w : Nat) (bundle : Word) (i : Instr) : Bool :=
  let x := m.warp h w
  let act := x.actOf bundle i
  match i with
  | .exit .. =>
    x.pends.any (fun p => p.var && p.file == .v && (p.mask &&& act) != 0) || x.log.any (fun e => (e.mask &&& act) != 0) ||
    (m.ham h).lays.any (fun y => y.warp = w) || x.fences.any (fun f => f.rest.any (fun e => readsLater (instrOf e.2)))
  | _ => false
/-- The words that a full queue, log, record slot or scoreboard can keep from issuing, which their meanings decide. -/
def mayStall : Instr → Bool
  | .syscall .. | .layset .. | .copy .. | .copys .. | .copym .. | .gath .. | .pref .. | .amo .. | .mmop .. | .mmsp .. | .mmdrain ..
  | .qenq .. | .enq .. | .ldio .. | .stio .. | .spill .. | .fill .. => true
  | _ => false

/-! ## A group and its effects -/

/-- A group at a program counter: its warp, its bundle, its words with their program counters, the word after them that fails a check,
and the program counter after its last word. -/
structure IssueGroup where
  ham : Nat
  warp : Nat
  bundle : Word
  pc : Word
  head : Bool
  others : Bool
  words : List (Word × Word)
  enc : Option EncAt
  succ : Word
  deriving DecidableEq, Repr

/-- R326: the latency by which a group that may take an arithmetic trap is withheld, or none. -/
def withholdOf (fpmode : Word) (ws : List (Word × Word)) : Option Nat :=
  let l := (ws.map (fun e => instrOf e.2)).filter (fun i => (form i).flags)
  if wbits fpmode 8 5 = 0 || l = [] then none else some (maxOf (l.map (fun i => (form i).lat)))
/-- The group of a warp at its chosen run, from the words of its packet (R61, R62). Where it may be withheld, R66 judges its results by the
latency of the group that passes every other check. -/
def Mach.groupOf (m : Mach) (h w : Nat) (r : Word × Word × Bool × Bool) (ws : List (Word × Word)) : IssueGroup :=
  let x := m.warp h w
  let check := wbit (m.reg (hamReg h (0x310 + 4 * m.warpCtx h w))) 16
  let held := withholdOf x.fpmode (groupWords (fun _ => none) [] ws).1
  let u := (m.freeBelow (2 ^ 17)).1
  let (l, e) := groupWords (fun i => if check then x.undersized m.now u held r.2.1 i else none) [] ws
  { ham := h, warp := w, bundle := r.2.1, pc := r.1, head := r.2.2.1, others := r.2.2.2, words := l, enc := e,
    succ := r.1 + word (4 * l.length) }
/-- The instructions of a group. -/
def IssueGroup.instrs (g : IssueGroup) : List Instr := g.words.map (fun e => instrOf e.2)
/-- The quarter of a warp slot (R47). -/
def quarterOf (w : Nat) : Nat := w / 16 % 4
/-- The wait of a group: the largest W among its words (R65). -/
def IssueGroup.wait (g : IssueGroup) : Nat :=
  maxOf (g.words.map (fun e => (hdrOf e.2).2))
/-- The first register that a word reads and whose parity fails: register, file, the lanes affected (R176, R177). -/
def Warp.parityFail (x : Warp) (bundle : Word) (i : Instr) : Option (Nat × Nat × Word) :=
  let f := form i
  let act := x.actOf bundle i
  let fail (file r : Nat) (lanes : Word) : Option (Nat × Nat × Word) :=
    let l := x.parity.get 0 (256 * file + r) &&& lanes
    if l = 0 then none else some (r, file, l)
  if x.parity = [] then none
  else
    ((ownSources i).map (fun r => fail 0 r act) ++ (crossSources i x bundle act).map (fun e => fail 0 e.1 e.2) ++
      f.sa.map (fun r => fail 1 r bundle) ++ f.ka.map (fun r => fail 2 r bundle) ++
      (if f.fxRead then [fail 3 0 act] else [])).findSome? id
/-- A word that reads a register whose parity fails traps its bundle, always to the Reeve (R176, R177, R179). That the error is found by such a
read is the model's reading; no move makes one (DEDUCED, log 23). -/
def Mach.parityTrap (m : Mach) (e : Nat × Nat × Word) : Mach :=
  m.trapHard 2 (word (e.1 + 256 * e.2.1)) (word ((lowestLane e.2.2).getD 0 * 2 ^ 16)) e.2.2
/-- The words of a group take effect in slot order, until a trap or a hold ends it (R63). A quad word that holds its lanes does not end it
(DESIGN CHOICE, log 23; see quadWord). -/
def runWords : List (Word × Word) → State → State
  | [], s => s
  | (pc, w) :: rest, s =>
    match decode w with
    | .error _ => s
    | .ok i =>
      let m := { s.m with cur := { s.m.cur with pc, word := w, rest } }
      match m.cw.parityFail m.cur.bundle i with
      | some e => { s with m := m.parityTrap e }
      | none => match exec i { s with m } with
        | .next s' => if s'.m.cur.stop then s' else runWords rest s'
        | _ => s
/-- The bundle's lanes take a program counter. -/
def Mach.bundleTo (m : Mach) (pc : Word) : Mach := m.modCw (fun x => x.modLanes m.cur.bundle (fun y => { y with pc }))
/-- A group becomes the current one (R35, R61): its lanes take its successor. -/
def Mach.enter (m : Mach) (g : IssueGroup) : Mach :=
  let c : Issue :=
    { ham := g.ham, warp := g.warp, bundle := g.bundle, all := g.bundle, pc := g.pc, succ := g.succ, head := g.head, others := g.others,
      fpmode := (m.warp g.ham g.warp).fpmode, issued := m.now, enc := g.enc }
  { m with cur := c }.bundleTo g.succ
/-- A word that ends its group's effects until its hold ends (R299, R335). -/
def holds : Instr → Bool
  | .fence .. => true
  | .atomAdd _ _ _ _ so | .atomFadd _ _ _ _ so | .atomMin _ _ _ _ so | .atomMax _ _ _ _ so | .atomAnd _ _ _ _ so
  | .atomOr _ _ _ _ so | .atomXor _ _ _ _ so | .atomExch _ _ _ _ so | .atomCas _ _ _ _ so | .atomInc _ _ _ _ so => so.toNat ≥ 3
  | _ => false
/-- The words of groups of a hamlet that have issued and take effect later, and that need a place in some unit: what takes them up. -/
def Mach.owed (m : Mach) (h : Nat) : List (Issue × List (Word × Word)) :=
  (m.ham h).warps.flatMap (fun e =>
    let c (bundle all succ : Word) (snap : Snap) (fpmode : Word) : Issue :=
      { ham := h, warp := e.1, bundle, all, pc := succ, succ, fpmode, issued := m.now, snap := some snap, atOnce := true }
    (e.2.withheld.map (fun g => (c g.bundle g.all g.succ g.snap g.fpmode, g.words)) ++
      e.2.fences.map (fun f => (c f.mask f.all f.succ f.snap f.fpmode, f.rest))).filter (fun y => y.2.any (fun z => mayStall (instrOf z.2))))
/-- Every word of a group could issue: none of those that a full unit may refuse is refused, once the words that have issued before and take
effect later have had their places. -/
def issuable (g : IssueGroup) (s : State) : Bool :=
  if !g.instrs.any mayStall then true
  else
    let s := (s.m.owed g.ham).foldl (fun s y => runWords y.2 { s with m := { s.m with cur := y.1 } }) s
    !(runWords (g.words.filter (fun e => !holds (instrOf e.2))) { s with m := s.m.enter g }).m.cur.stalled
/-- R49: the group may issue in this cycle. -/
def Mach.ready (m : Mach) (mem : Memory) (g : IssueGroup) : Bool :=
  let x := m.warp g.ham g.warp
  let is := g.instrs
  !is.any (fun i => x.awaits g.bundle i) && !x.entriesFull is &&
  !((m.ham g.ham).fbusy.get 0 (quarterOf g.warp) > m.now && is.any (fun i => (form i).pipe == .f)) &&
  !is.any (fun i => m.rangeStall g.ham g.warp g.bundle i || m.exitWaits g.ham g.warp g.bundle i) &&
  issuable g { m, mem }

/-- R62: after the words before it, the word that fails a check traps the bundle's lanes that stand at it. -/
def Mach.encTrap (m : Mach) : Mach :=
  match m.cur.enc with
  | none => m
  | some e =>
    let mask := m.cur.bundle &&& m.cw.readyMask &&& m.cw.at' e.pc
    if m.cur.stop || mask = 0 then m
    else
      let m := if e.code = 6 then { m with free := m.free + 1 } else m
      { m.takeTrapAt m.cur.ham m.cur.warp (m.cur.issued + 12) 1 e.code e.word e.d1 e.d2 e.pc mask false with
        cur := { m.cur with stop := true, trapped := true } }
/-- R176, R224: a step trap after a group: the bundle's ready lanes at the lowest program counter, with the next word. -/
def Mach.stepTrap (mem : Memory) (m : Mach) : Mach :=
  let h := m.cur.ham
  let w := m.cur.warp
  let x := m.cw
  let ctl := m.reg (wctlReg h w)
  let lanes := lanesOf (m.cur.bundle &&& x.readyMask)
  if !wbit ctl 0 || wbit ctl 1 || m.cur.trapped || m.cur.stalled || x.withheld ≠ [] then m
  else match minBy (fun l => (x.lane l).pc.toNat) lanes with
    | none => m
    | some l =>
      let pc := (x.lane l).pc
      let (d, m) : Word × Mach := match m.fetchWord mem h w pc with
        | .words ((_, d) :: _) => (d, m)
        | _ => m.freeWord
      m.takeTrapAt h w (m.cur.issued + 12) 7 2 d 0 0 pc (m.cur.bundle &&& x.readyMask &&& x.at' pc) false
/-- The words of a group have taken effect: the traps that follow them. -/
def endGroup (s : State) : State :=
  let m := (s.m.encTrap).stepTrap s.mem
  s.settle { (m.unreserve ((m.cur.snap.map (·.record)).getD none)).mmGiveUp ((m.cur.snap.map (·.mm)).getD none) with cur := {} }

/-! ## The choice (R49, R52, R59, R397) -/

/-- A warp may issue in this cycle, if its group may (R49, R57, R65, R216, R224, R237, R247, R326). -/
def Mach.mayIssue (m : Mach) (h w : Nat) (x : Warp) : Bool :=
  !x.withheld.any (fun g => g.atOnce && !g.begun) && x.active && !x.ended && !x.stopped && x.nextIssue ≤ m.now && x.fetchBad.isNone && !m.frozen && !(m.throttle && m.now % 4 = 3) &&
  !wbit (m.reg (wctlReg h w)) 1
/-- The group that a warp would issue now. -/
def Mach.candidate (mem : Memory) (m : Mach) (h w : Nat) (x : Warp) : Option IssueGroup :=
  if !m.mayIssue h w x || x.yieldUntil.isSome then none
  else match x.chosen m.now with
    | none => none
    | some r =>
      match m.fetchPacket mem h w r.1 with
      | .words ws =>
        let g := m.groupOf h w r ws
        if m.ready mem g then some g else none
      | _ => none
/-- The candidates of a quarter. -/
def Mach.candidates (mem : Memory) (m : Mach) (h q : Nat) : List IssueGroup :=
  (m.ham h).warps.filterMap (fun e => if quarterOf e.1 = q then m.candidate mem h e.1 e.2 else none)
/-- The weight of a context slot (R52, R68). -/
def Mach.weight (m : Mach) (h c : Nat) : Nat := m.regField (hamReg h (0x310 + 4 * c)) 0 8
/-- R52: the context that a quarter chooses among those that are eligible, and the deficit counters after the choice. -/
def Mach.chooseTenant (m : Mach) (h q : Nat) (elig : List Nat) : Option (Nat × SMap Nat) :=
  let x := m.ham h
  let d (a : SMap Nat) (c : Nat) : Nat := a.get 0 (4 * q + c)
  let refill (a : SMap Nat) : SMap Nat :=
    x.ctxs.foldl (fun a e => a.set (4 * q + e.1) (min (d a e.1 + m.weight h e.1) (2 * m.weight h e.1))) a
  let a := if elig.any (fun c => d x.dfc c > 0) then x.dfc else refill x.dfc
  match minBy (fun c => 1024 - d a c) (sortBy id elig) with
  | none => none
  | some c => some (c, a.set (4 * q + c) (d a c - 1))
/-- R59: the group of the preferred warp of the lowest slot, else of the earliest placed. -/
def Mach.chooseWarp (m : Mach) (h : Nat) (l : List IssueGroup) : Option IssueGroup :=
  match minBy (·.warp) (l.filter (fun g => (m.warp h g.warp).prefer)) with
  | some g => some g
  | none => minBy (fun g => (m.warp h g.warp).placed) l
/-- What a quarter issues in this cycle: the group, the other warps that were passed over, the deficit counters. -/
def Mach.quarterPick (mem : Memory) (m : Mach) (h q : Nat) : Option (IssueGroup × List Nat × SMap Nat) :=
  let l := m.candidates mem h q
  let ctx (g : IssueGroup) : Nat := m.warpCtx h g.warp
  match m.chooseTenant h q (dedup (l.map ctx)) with
  | none => none
  | some (c, d) =>
    let l := l.filter (fun g => ctx g = c)
    (m.chooseWarp h l).map (fun g => (g, (l.filter (fun y => y.warp ≠ g.warp)).map (·.warp), d))
/-- The order in which synchronisation words of one cycle act (R110, R113, R140). -/
def classOf : Instr → Nat
  | .batonPass .. => 0
  | .barrd .. | .barrj .. => 2
  | .binit .. => 3
  | .bwait .. => 4
  | _ => 1
/-- The place of some words in that order. -/
def clsOf (is : List Instr) : Nat :=
  let l := is.map classOf
  if l.contains 0 then 0 else max 1 (maxOf l)
/-- The place of a group in the order of its cycle: by class, hamlet and quarter. -/
def IssueGroup.place (g : IssueGroup) : Nat := clsOf g.instrs * 4096 + 4 * g.ham + quarterOf g.warp
/-- The next group to issue in this cycle, by class, hamlet and quarter. -/
def Mach.nextGroup (mem : Memory) (m : Mach) : Option (IssueGroup × List Nat × SMap Nat) :=
  let all := m.hams.flatMap (fun e => (List.range 4).filterMap (fun q =>
    if m.issued.contains (4 * e.1 + q) then none else m.quarterPick mem e.1 q))
  minBy (fun r => r.1.place) all

/-! ## Issue -/

/-- A quarter issues a group (R37, R52, R59, R64, R65, R397): the counters of the choice, the wait, the F pipe. -/
def Mach.take (m : Mach) (r : IssueGroup × List Nat × SMap Nat) : Mach :=
  let g := r.1
  let h := g.ham
  let q := quarterOf g.warp
  let c := m.warpCtx h g.warp
  let m := { m with issued := (4 * h + q) :: m.issued, free := m.free + if (m.warp h g.warp).fences = [] then 0 else 1 }
  let fp64 := g.instrs.any (fun i => (form i).fp64)
  let m := m.modHam h (fun x => { x with dfc := r.2.2, fbusy := if fp64 then x.fbusy.set q (m.now + 2) else x.fbusy })
  let same (e : Nat × Warp) : Bool := e.1 ≠ g.warp && quarterOf e.1 = q && m.warpCtx h e.1 = c
  let m := m.modHam h (fun x => { x with warps := x.warps.map (fun e =>
    if same e then (e.1, { e.2 with yieldUntil := none, lastOther := m.now, passed := if r.2.1.contains e.1 then e.2.passed + 1 else e.2.passed }) else e) })
  m.modWarp h g.warp (fun x =>
    let keep := g.head && g.others && x.prevHead == g.bundle
    { x with nextIssue := m.now + 1 + g.wait, prefer := false, passed := 0, second := false, streak := if keep then x.streak else 0,
             prevHead := if g.head then g.bundle else x.prevHead })
/-- R326: the whole group waits for the largest latency of its flag-updating words. -/
def Mach.withhold (m : Mach) (g : IssueGroup) (l : Nat) : Mach :=
  let m := m.enter g
  let snap := m.snapshot g.words
  let (mm, m) := (m.reserveRecord snap.record).mmReserve g.words
  let snap := { snap with mm }
  { m.modCw (fun x =>
      let y : Withheld :=
        { due := m.now + l, issued := m.now, bundle := g.bundle, all := g.bundle, atOnce := true, words := g.words, succ := g.succ,
          snap, fpmode := x.fpmode, head := g.head, others := g.others, enc := g.enc, before := m.nextId }
      { (x.modLanes g.bundle (fun z => { z with pc := g.pc })) with
        withheld := x.withheld ++ [y], nextIssue := max x.nextIssue (m.now + l) }) with cur := {} }
/-- A quarter issues a group: it takes effect now, or is withheld. -/
def issueGroup (r : IssueGroup × List Nat × SMap Nat) (s : State) : State :=
  let g := r.1
  let m := s.m.take r
  match withholdOf (m.warp g.ham g.warp).fpmode g.words with
  | some l => { s with m := m.withhold g l }
  | none => endGroup (runWords g.words { s with m := m.enter g })

/-! ## Words that take effect later (R326, R335) -/

/-- The words that come next of a warp's groups that take effect later, of those whose cycle has come. -/
def Warp.lateNext (x : Warp) (now : Nat) : Option Withheld := x.withheld.find? (fun g => g.due ≤ now)
/-- The warps with words whose cycle has come: their places among the groups of the cycle, by class, hamlet and quarter (R303, R304). -/
def Mach.lates (m : Mach) : List (Nat × Nat × Nat) :=
  m.hams.flatMap (fun e => e.2.warps.filterMap (fun x => (x.2.lateNext m.now).map (fun g =>
    (clsOf (g.words.map (fun y => instrOf y.2)) * 4096 + 4 * e.1 + quarterOf x.1, e.1, x.1))))
/-- The first warp with such words. -/
def Mach.lateDue (m : Mach) : Option (Nat × Nat × Nat) := minBy (·.1) m.lates
/-- Take those words of a warp, and make them the current group. Its lanes take the group's successor, unless they have taken it. -/
def Mach.enterLate (m : Mach) (h w : Nat) : Option (Withheld × Mach) :=
  let x := m.warp h w
  match x.lateNext m.now with
  | none => none
  | some g =>
    let c : Issue :=
      { ham := h, warp := w, bundle := g.bundle, all := g.all, pc := g.succ, succ := g.succ, head := g.head, others := g.others,
        fpmode := g.fpmode, issued := g.issued, snap := some g.snap, atOnce := g.atOnce, enc := g.enc }
    let m := { m with cur := c }.modCw (fun x => { x with withheld := x.withheld.filter (fun y => y ≠ g) })
    some (g, if g.begun then m else m.bundleTo g.succ)
/-- A word of the group cannot take its place in a unit yet: it and those after it wait for the next cycle, and so does the warp. -/
def Mach.putBack (m : Mach) (g : Withheld) : Mach :=
  let y : Withheld := { g with due := m.now + 1, words := (m.cur.pc, m.cur.word) :: m.cur.rest, begun := true }
  { m.modCw (fun x => { x with withheld := y :: x.withheld, nextIssue := max x.nextIssue (m.now + 1) }) with cur := {} }
/-- Words that were withheld take effect. -/
def runLate (h w : Nat) (s : State) : State :=
  match s.m.enterLate h w with
  | none => s
  | some (g, m) =>
    let s := runWords g.words { s with m }
    let s := { s with m := s.m.modWarp h w (fun x => (x.landDue s.m.now).capture s.m.now) }
    if s.m.cur.stalled then { s with m := s.m.putBack g } else endGroup s

/-! ## Fetch moves (R186, R192, R249) -/

/-- What a warp whose fetch does not succeed at once needs: a walk, or the report of a fault. -/
def Mach.fetchNeed (mem : Memory) (m : Mach) (h w : Nat) (x : Warp) : Option (Word × Fetched) :=
  if !m.mayIssue h w x then none
  else match x.chosen m.now with
    | none => none
    | some r =>
      match m.fetchPacket mem h w r.1 with
      | .walk va =>
        let mine (y : Walk) : Bool := y.waiters.any (fun e => match e.1 with | .fetch w' _ va' => w' = w && va' = va | _ => false)
        if (m.ham h).walks.any mine || !m.walkRoom h (m.warpCtx h w) va then none else some (r.2.1, .walk va)
      | .fault c va => some (r.2.1, .fault c va)
      | _ => none
/-- The first warp with such a need. -/
def Mach.nextFetch (mem : Memory) (m : Mach) : Option (Nat × Nat × Word × Fetched) :=
  m.hams.findSome? (fun e => e.2.warps.findSome? (fun x => (m.fetchNeed mem e.1 x.1 x.2).map (fun r => (e.1, x.1, r))))
/-- Start the walk, or report the fault. -/
def Mach.fetchMove (m : Mach) (h w : Nat) (lanes : Word) : Fetched → Mach
  | .walk va => (m.startWalk h (m.warpCtx h w) va (.fetch w lanes va) .fetch).2
  | .fault c va => (m.modWarp h w (fun x => { x with fetchBad := some (lanes, va) })).schedule m.now (.fetchFault h w c)
  | _ => m

end Sys2Proof.Machine
end

