-- ==== Sys2Proof/Machine/Cpu.lean ====
section
/-! DEFINITION. The control cores (R26, R221, R222): registers and CSRs, physical memory protection, Sv48, accesses to memory and to the
register space, traps and interrupts. What the spec names RV64GC, Zicsr, Zifencei, Smepmp, Svnapot and Sv48 follows the RISC-V manuals
(log 7). -/
namespace Sys2Proof.Machine

/-! ## State of a core -/

/-- The core of a number. -/
def Mach.cpu (m : Mach) (c : Nat) : Cpu := m.cpus.get {} c
/-- Change a core. -/
def Mach.modCpu (m : Mach) (c : Nat) (f : Cpu → Cpu) : Mach := { m with cpus := m.cpus.set c (f (m.cpu c)) }
/-- x[r]; x0 reads zero. -/
def Cpu.xr (x : Cpu) (r : Nat) : Dword := if r = 0 then 0 else x.x.get 0 r
/-- Write x[r]; x0 discards it. -/
def Cpu.xw (x : Cpu) (r : Nat) (v : Dword) : Cpu := if r = 0 then x else { x with x := x.x.set r v }
/-- A CSR as it is held. -/
def Cpu.csrOf (x : Cpu) (n : Nat) : Nat := (x.csr.get 0 n).toNat
/-- Set a CSR. -/
def Cpu.csrSet (x : Cpu) (n v : Nat) : Cpu := { x with csr := x.csr.set n (BitVec.ofNat 64 v) }
/-- A field of mstatus. -/
def Cpu.status (x : Cpu) (lo n : Nat) : Nat := bits (x.csrOf 0x300) lo n
/-- A number with a field replaced. -/
def withBits (v lo n y : Nat) : Nat := v - bits v lo n * 2 ^ lo + y % 2 ^ n * 2 ^ lo
/-- Set a field of mstatus. -/
def Cpu.setStatus (x : Cpu) (lo n y : Nat) : Cpu := x.csrSet 0x300 (withBits (x.csrOf 0x300) lo n y)
/-- The bits of a value that a mask selects, the others from an old one. -/
def merge (mask old new : Nat) : Nat := (old &&& (2 ^ 64 - 1 - mask)) ||| (new &&& mask)
/-- Go to an address. -/
def Cpu.goto (x : Cpu) (pc : Dword) : Cpu := { x with pc }
/-- The outcome of part of an instruction: done, an exception with its cause and value, or a wait for a HOT stack or a held line. -/
inductive Rv (α : Type) where
  | ok (a : α) (m : Mach) | trap (cause tval : Nat) (m : Mach) | held (pa : Nat)
/-- One part after another. -/
def Rv.bind {α β : Type} (x : Rv α) (f : α → Mach → Rv β) : Rv β :=
  match x with
  | .ok a m => f a m
  | .trap c v m => .trap c v m
  | .held pa => .held pa

/-! ## Interrupts (R187, R229) -/

/-- The supervisor external interrupt of a core: for a Reeve its fault queue or a full record slot, for every core its mailbox. -/
def Mach.external (m : Mach) (c : Nat) : Bool :=
  let mail := m.reg (mailBase c + 0x84C)
  wbits mail 0 7 ≠ wbits mail 16 7 ||
  (isReeve c && (m.regField (hamReg c 0x630) 0 9 ≠ m.regField (hamReg c 0x630) 16 9 || m.reg (hamReg c 0x638) &&& 0x1F ≠ 0))
/-- mip: the bits that software has set, and SEIP from outside. -/
def Mach.mip (m : Mach) (c : Nat) : Nat := (m.cpu c).csrOf 0x344 ||| (if m.external c then 2 ^ 9 else 0)
/-- The interrupt that a core takes now, by cause: of those that are enabled, for M mode before for S mode. -/
def Mach.interrupt (m : Mach) (c : Nat) : Option Nat :=
  let x := m.cpu c
  let pend := m.mip c &&& x.csrOf 0x304
  let order := [11, 3, 7, 9, 1, 5]
  let toS (i : Nat) : Bool := (x.csrOf 0x303).testBit i
  let onM : Bool := x.mode < 3 || x.status 3 1 = 1
  let onS : Bool := x.mode = 0 || (x.mode = 1 && x.status 1 1 = 1)
  (order.find? (fun i => pend.testBit i && !toS i && onM)).orElse (fun _ => order.find? (fun i => pend.testBit i && toS i && onS))
/-- Enter a trap: the saved pc, cause and value, the status stack, and the handler's address; an exception or interrupt that is delegated,
from S or U mode, goes to S mode. -/
def Cpu.enter (x : Cpu) (intr : Bool) (cause tval : Nat) : Cpu :=
  let deleg := x.mode ≤ 1 && (x.csrOf (if intr then 0x303 else 0x302)).testBit cause
  let code := cause + if intr then 2 ^ 63 else 0
  let go (tvec : Nat) : Dword :=
    BitVec.ofNat 64 (tvec / 4 * 4 + if intr && tvec % 4 = 1 then 4 * cause else 0)
  if deleg then
    let x' := ((x.csrSet 0x142 code).csrSet 0x141 x.pc.toNat).csrSet 0x143 tval
    let x' := ((x'.setStatus 5 1 (x.status 1 1)).setStatus 1 1 0).setStatus 8 1 x.mode
    { x' with mode := 1, pc := go (x.csrOf 0x105) }
  else
    let x' := ((x.csrSet 0x342 code).csrSet 0x341 x.pc.toNat).csrSet 0x343 tval
    let x' := ((x'.setStatus 7 1 (x.status 3 1)).setStatus 3 1 0).setStatus 11 2 x.mode
    { x' with mode := 3, pc := go (x.csrOf 0x305) }

/-! ## Physical memory protection (R222) -/

/-- The configuration byte and the address of a PMP entry. -/
def Cpu.pmp (x : Cpu) (i : Nat) : Nat × Nat := (bits (x.csrOf (0x3A0 + i / 8 * 2)) (8 * (i % 8)) 8, x.csrOf (0x3B0 + i))
/-- The number of low one bits, at most `k`. -/
def lowOnes (v : Nat) : Nat → Nat
  | 0 => 0
  | k + 1 => if v % 2 = 1 then 1 + lowOnes (v / 2) k else 0
/-- The bytes [lo, hi) of a PMP entry; none where it is off. -/
def Cpu.pmpRange (x : Cpu) (i : Nat) : Option (Nat × Nat) :=
  let (cfg, a) := x.pmp i
  match bits cfg 3 2 with
  | 1 => some (if i = 0 then 0 else 4 * (x.pmp (i - 1)).2, 4 * a)
  | 2 => some (4 * a, 4 * a + 4)
  | 3 => let n := lowOnes a 54 + 1; some (4 * (a / 2 ^ n * 2 ^ n), 4 * (a / 2 ^ n * 2 ^ n) + 4 * 2 ^ n)
  | _ => none
/-- Reading, writing, fetching that a configuration byte allows a mode; `mml` is mseccfg.MML (Smepmp). -/
def pmpAllows (mml : Bool) (cfg mode : Nat) (rd wr ex : Bool) : Bool :=
  let r := cfg.testBit 0
  let w := cfg.testBit 1
  let x := cfg.testBit 2
  let l := cfg.testBit 7
  let fits (r w x : Bool) : Bool := (!rd || r) && (!wr || w) && (!ex || x)
  let machine : Bool := mode = 3
  if !mml then (if machine && !l then true else fits r w x)
  else if w && !r then
    (match l, x with
    | false, false => fits true machine false
    | false, true => fits true true false
    | true, false => fits false false true
    | true, true => fits machine false true)
  else if l && r && w && x then fits true false false
  else if machine = l then fits r w x else false
/-- An access of `n` bytes by a mode passes the PMP entries: the first that meets any of the bytes decides, and must hold them all; with
none, M mode passes, but for MMWP, and for a fetch under MML. -/
def Cpu.pmpOk (x : Cpu) (mode pa n : Nat) (a : Access) : Bool :=
  let rd : Bool := match a with | .load => true | .amo => true | _ => false
  let wr : Bool := match a with | .store => true | .amo => true | _ => false
  let ex : Bool := match a with | .fetch => true | _ => false
  let sec := x.csrOf 0x747
  let meets (i : Nat) : Bool := match x.pmpRange i with | some (lo, hi) => pa < hi && lo < pa + n | none => false
  match (List.range 16).find? meets with
  | some i =>
    (match x.pmpRange i with | some (lo, hi) => lo ≤ pa && pa + n ≤ hi | none => false) &&
    pmpAllows (sec.testBit 0) (x.pmp i).1 mode rd wr ex
  | none => mode = 3 && !sec.testBit 1 && !(sec.testBit 0 && ex)

/-! ## Translation (R25, R191, R192, R221) -/

/-- The cause of a page fault, and of an access fault, of a kind of access. -/
def pageFault : Access → Nat
  | .fetch => 12 | .load => 13 | _ => 15
/-- An access fault (R240). -/
def accessFault : Access → Nat
  | .fetch => 1 | .load => 5 | _ => 7
/-- A leaf lets a mode make an access: its permissions, U with SUM, MXR, and A and D, which the hardware never sets. -/
def Cpu.leafOk (x : Cpu) (mode flags : Nat) (aligned : Bool) (a : Access) : Bool :=
  let r := flags.testBit 1 || (x.status 19 1 = 1 && flags.testBit 3)
  let w := flags.testBit 2
  let ex := flags.testBit 3
  let allowed := match a with | .load => r | .store => w | .fetch => ex | .amo => r && w
  let writes := match a with | .store => true | .amo => true | _ => false
  let user := flags.testBit 4
  let fetch := match a with | .fetch => true | _ => false
  let space : Bool := if mode = 0 then user else !user || (x.status 18 1 = 1 && !fetch)
  allowed && space && aligned && flags.testBit 6 && (!writes || flags.testBit 7) && !(w && !flags.testBit 1)
/-- A walk of a core's page table: flags, page number, log2 of the pages, alignment. -/
def Mach.cpuWalk (mem : Memory) (c : Nat) (a : Access) (va : Nat) : Nat → Nat → Mach → Rv (Nat × Nat × Nat × Bool)
  | 0, _, m => .trap (pageFault a) va m
  | lvl + 1, ppn, m =>
    let q := m.corePart c
    let pa := ppn * 4096 + 8 * bits va (12 + 9 * lvl) 9
    let x := m.cpu c
    match m.target q pa with
    | .main _ =>
      if !x.pmpOk 1 pa 8 .load then .trap (accessFault a) va m
      else match m.reach q pa with
        | .held => .held pa
        | .fault _ => .trap (accessFault a) va m
        | .ok =>
          let (b, e, m) := m.devRead mem q pa 8
          let y := leNat b
          let n := y.testBit 63
          let ppn' := bits y 10 44
          if e then .trap (accessFault a) va m
          else if !y.testBit 0 || bits y 54 9 ≠ 0 || (y.testBit 2 && !y.testBit 1) then .trap (pageFault a) va m
          else if !y.testBit 1 && !y.testBit 3 then
            if n || y.testBit 4 || y.testBit 6 || y.testBit 7 then .trap (pageFault a) va m else cpuWalk mem c a va lvl ppn' m
          else if n then
            if lvl = 0 ∧ ppn' % 16 = 8 then .ok (bits y 0 8, ppn' / 16 * 16, 4, true) m else .trap (pageFault a) va m
          else .ok (bits y 0 8, ppn', 9 * lvl, ppn' % 2 ^ (9 * lvl) = 0) m
    | _ => .trap (accessFault a) va m
/-- A virtual address of `n` bits is sign-extended to 64. -/
def canonicalVa (n va : Nat) : Bool := va < 2 ^ (n - 1) || (2 ^ 64 - 2 ^ (n - 1) ≤ va && va < 2 ^ 64)
/-- The physical address of a virtual one for a mode, under Sv48, or Sv39, which an implementation of Sv48 has as well (log 7). A Reeve looks in its hamlet's buffer first, and its walk fills it (R25, R192). -/
def Mach.cpuXlat (mem : Memory) (m : Mach) (c mode va : Nat) (a : Access) : Rv Nat :=
  let x := m.cpu c
  let satp := x.csrOf 0x180
  let levels := if bits satp 60 4 = 8 then 3 else 4
  if mode = 3 ∨ (bits satp 60 4 ≠ 8 ∧ bits satp 60 4 ≠ 9) then .ok va m
  else if !canonicalVa (levels * 9 + 12) va then .trap (pageFault a) va m
  else
    let vpn := bits va 12 36
    let asid := bits satp 44 16
    let place (ppn pages : Nat) : Nat := (ppn / 2 ^ pages * 2 ^ pages + vpn % 2 ^ pages) * 4096 + va % 4096
    match if isReeve c then m.tlbFind c asid vpn else none with
    | some e => if x.leafOk mode e.flags true a then .ok (place e.ppn e.pages) m else .trap (pageFault a) va m
    | none =>
      (m.cpuWalk mem c a va levels (bits satp 0 44)).bind fun r m =>
        let (flags, ppn, pages, aligned) := r
        if !x.leafOk mode flags aligned a then .trap (pageFault a) va m
        else
          let e : TlbEntry := { asid, vpn, ppn, pages, glob := flags.testBit 5, flags }
          .ok (place ppn pages) (if isReeve c then m.modHam c (fun y => { y with tlb := tlbInsert e y.tlb }) else m)

/-! ## Accesses (R11, R12, R222, R223, R240) -/

/-- The mode of a data access: MPRV lends M mode that of MPP. -/
def Cpu.dataMode (x : Cpu) : Nat := if x.mode = 3 ∧ x.status 17 1 = 1 then x.status 11 2 else x.mode
/-- A warp window lies in the block of another hamlet: only the Reeve of a hamlet reaches its windows (R223). -/
def windowBarred (c pa : Nat) : Bool := match regPlace pa with | .ham h off => 0x10000 ≤ off && off < 0x110000 && h ≠ c | _ => false
/-- A read of a register by a core. -/
def Mach.cpuReg (m : Mach) (c pa : Nat) : Word := if windowBarred c pa then 0 else m.readReg pa
/-- Read `n` aligned bytes of physical memory, of a device or of the register space. -/
def Mach.cpuPhys (mem : Memory) (m : Mach) (c pa n va : Nat) (a : Access) : Rv (List Byte) :=
  let q := m.corePart c
  match m.target q pa with
  | .register => .ok (((wordsBytes [m.cpuReg c (pa / 4 * 4), m.cpuReg c (pa / 4 * 4 + 4)]).drop (pa % 4)).take n) m
  | _ =>
    match m.reach q pa with
    | .held => .held pa
    | .fault _ => .trap (accessFault a) va m
    | .ok =>
      let (b, bad, m) := m.devRead mem q pa n
      if bad then .trap (accessFault a) va m else .ok b m
/-- Write them. A store narrower than a word has no effect on a register (log 7). A control core is no guest: the shadow log takes no write of
its (R202). -/
def Mach.cpuPut (mem : Memory) (m : Mach) (c pa va : Nat) (b : List Byte) : Rv Unit :=
  let q := m.corePart c
  match m.target q pa with
  | .register =>
    .ok () ((List.range (b.length / 4)).foldl (fun m i =>
      if windowBarred c (pa + 4 * i) then m else registerWrite (pa + 4 * i) (wordAt b (4 * i)) mem m) m)
  | _ =>
    match m.reach q pa true with
    | .held => .held pa
    | .fault _ => .trap 7 va m
    | .ok =>
      let (ok, m') := m.devWrite mem q pa b
      let m := { m' with shadowLog := m.shadowLog }
      if ok then .ok () m else .trap 7 va m
/-- The physical address of a data access that is aligned and passes translation and PMP. -/
def Mach.cpuAddr (mem : Memory) (m : Mach) (c va n : Nat) (a : Access) : Rv Nat :=
  let mode := (m.cpu c).dataMode
  if va % n ≠ 0 then .trap (match a with | .load => 4 | _ => 6) va m
  else (m.cpuXlat mem c mode va a).bind fun pa m =>
    if (m.cpu c).pmpOk mode pa n a then .ok pa m else .trap (accessFault a) va m
/-- A load of `n` bytes. -/
def Mach.cpuLoad (mem : Memory) (m : Mach) (c va n : Nat) : Rv Nat :=
  (m.cpuAddr mem c va n .load).bind fun pa m => (m.cpuPhys mem c pa n va .load).bind fun b m => .ok (leNat b) m
/-- A store of `n` bytes. -/
def Mach.cpuStore (mem : Memory) (m : Mach) (c va n v : Nat) : Rv Unit :=
  (m.cpuAddr mem c va n .store).bind fun pa m => m.cpuPut mem c pa va (leBytes n v)
/-- An atomic read, change and write of `n` bytes, in main memory or Commons; the old value. -/
def Mach.cpuAmo (mem : Memory) (m : Mach) (c va n : Nat) (f : Nat → Nat) : Rv Nat :=
  (m.cpuAddr mem c va n .amo).bind fun pa m =>
    match m.target (m.corePart c) pa with
    | .register => .trap 7 va m
    | .nvme _ => .trap 7 va m
    | _ => (m.cpuPhys mem c pa n va .amo).bind fun b m =>
      (m.cpuPut mem c pa va (leBytes n (f (leNat b)))).bind fun _ m => .ok (leNat b) m
/-- Fetch a parcel of 16 bits. -/
def Mach.cpuFetch (mem : Memory) (m : Mach) (c va : Nat) : Rv Nat :=
  let mode := (m.cpu c).mode
  (m.cpuXlat mem c mode va .fetch).bind fun pa m =>
    if !(m.cpu c).pmpOk mode pa 2 .fetch then .trap 1 va m
    else (m.cpuPhys mem c pa 2 va .fetch).bind fun b m => .ok (leNat b) m

/-! ## CSRs (R221) -/

/-- The core's own clock since its reset (R15, R221): front-end cycles on a command-processor core, hamlet cycles on any other. -/
def Mach.cpuClock (m : Mach) (c : Nat) : Nat :=
  let t := m.clockAt c m.now
  if 640 ≤ c ∧ c < 656 then t * 2 / 3 else t
/-- The bits of mstatus that S mode sees; those that software writes. -/
def sstatusMask : Nat := 2 ^ 63 + 3 * 2 ^ 32 + 2 ^ 19 + 2 ^ 18 + 3 * 2 ^ 13 + 2 ^ 8 + 2 ^ 5 + 2 ^ 1
/-- The writable bits of mstatus. -/
def mstatusMask : Nat := 2 ^ 22 + 2 ^ 21 + 2 ^ 20 + 2 ^ 19 + 2 ^ 18 + 2 ^ 17 + 3 * 2 ^ 13 + 3 * 2 ^ 11 + 2 ^ 8 + 2 ^ 7 + 2 ^ 5 + 2 ^ 3 + 2
/-- mstatus as it reads: UXL and SXL are 2, and SD follows FS. -/
def Cpu.mstatus (x : Cpu) : Nat := x.csrOf 0x300 ||| (10 * 2 ^ 32) ||| (if x.status 13 2 = 3 then 2 ^ 63 else 0)
/-- misa: RV64 with I, M, A, F, D, C, S and U. -/
def misa : Nat := 2 ^ 63 + 2 ^ 20 + 2 ^ 18 + 2 ^ 12 + 2 ^ 8 + 2 ^ 5 + 2 ^ 3 + 2 ^ 2 + 1
/-- A counter may be read in the core's mode. -/
def Cpu.mayCount (x : Cpu) (i : Nat) : Bool :=
  x.mode = 3 || ((x.csrOf 0x306).testBit i && (x.mode = 1 || (x.csrOf 0x106).testBit i))
/-- mcycle: the clock and what software has added to it; under mcountinhibit.CY the count at which it stopped. -/
def Mach.mcycle (m : Mach) (c : Nat) : Nat :=
  let x := m.cpu c
  if (x.csrOf 0x320).testBit 0 then x.csrOf 0xB00 else (m.cpuClock c + x.csrOf 0xB00) % 2 ^ 64
/-- What mcycle holds for it to read a value, while it counts or is stopped. -/
def Mach.mcycleFor (m : Mach) (c v : Nat) (stopped : Bool) : Nat := if stopped then v else (v + 2 ^ 64 - m.cpuClock c % 2 ^ 64) % 2 ^ 64
/-- The value of a CSR; none where it does not exist or may not be read now. -/
def Mach.csrRead (m : Mach) (c n : Nat) : Option Nat :=
  let x := m.cpu c
  let fs : Bool := x.status 13 2 ≠ 0
  if bits n 8 2 > x.mode then none
  else match n with
    | 0x001 => if fs then some (bits (x.csrOf 3) 0 5) else none
    | 0x002 => if fs then some (bits (x.csrOf 3) 5 3) else none
    | 0x003 => if fs then some (bits (x.csrOf 3) 0 8) else none
    | 0x100 => some (x.mstatus &&& sstatusMask)
    | 0x104 => some (x.csrOf 0x304 &&& x.csrOf 0x303)
    | 0x144 => some (m.mip c &&& x.csrOf 0x303)
    | 0x180 => if x.mode = 1 ∧ x.status 20 1 = 1 then none else some (x.csrOf 0x180)
    | 0x300 => some x.mstatus
    | 0x301 => some misa
    | 0x344 => some (m.mip c)
    | 0xB00 => some (m.mcycle c)
    | 0xC00 => if x.mayCount 0 then some (m.mcycle c) else none
    | 0xC01 => if x.mayCount 1 then some (m.cpuClock c) else none
    | 0xC02 => if x.mayCount 2 then some (x.csrOf 0xB02) else none
    | 0xF14 => some c
    | _ =>
      if n ∈ [0x105, 0x106, 0x10A, 0x140, 0x141, 0x142, 0x143, 0x302, 0x303, 0x304, 0x305, 0x306, 0x30A, 0x320, 0x340, 0x341, 0x342, 0x343,
          0x3A0, 0x3A2, 0x747, 0xB02] ∨ (0x3B0 ≤ n ∧ n < 0x3C0) then some (x.csrOf n)
      else if n ∈ [0xF11, 0xF12, 0xF13, 0xF15] ∨ (0xB03 ≤ n ∧ n < 0xB20) ∨ (0x323 ≤ n ∧ n < 0x340) then some 0
      else if 0xC03 ≤ n ∧ n < 0xC20 then (if x.mayCount (n - 0xC00) then some 0 else none)
      else none
/-- A PMP entry takes no write: it is locked, unless RLB is set, or the next entry is, in TOR mode. -/
def Cpu.pmpLocked (x : Cpu) (i : Nat) (addr : Bool) : Bool :=
  let lock (i : Nat) : Bool := i < 16 && (x.pmp i).1.testBit 7
  !(x.csrOf 0x747).testBit 2 && (lock i || (addr && lock (i + 1) && bits (x.pmp (i + 1)).1 3 2 = 1))
/-- A write of a pmpcfg register: the entries that are not locked take their bytes. W without R is reserved while MML is 0, and a rule that
would let M mode alone execute may not be added while MML is 1 and RLB 0 (Smepmp). -/
def Cpu.pmpCfg (x : Cpu) (n v : Nat) : Cpu :=
  let sec := x.csrOf 0x747
  (List.range 8).foldl (fun x j =>
    let i := (n - 0x3A0) / 2 * 8 + j
    let b := bits v (8 * j) 8 &&& 0x9F
    let odd : Bool := b.testBit 1 && !b.testBit 0
    let exec : Bool := b.testBit 7 && (if odd then true else b.testBit 2 && !(b.testBit 0 && b.testBit 1))
    if x.pmpLocked i false || (!sec.testBit 0 && odd) || (sec.testBit 0 && !sec.testBit 2 && exec) then x
    else x.csrSet n (withBits (x.csrOf n) (8 * j) 8 b)) x
/-- Write a CSR that exists. A write of minstret stands after the writing instruction has been counted. -/
def Mach.csrWrite (m : Mach) (c n v : Nat) : Mach :=
  let x := m.cpu c
  let put (n v : Nat) : Mach := m.modCpu c (fun x => x.csrSet n v)
  let status (mask : Nat) : Mach :=
    let old := x.csrOf 0x300
    let new := merge mask old v
    put 0x300 (if bits new 11 2 = 2 then withBits new 11 2 (bits old 11 2) else new)
  match n with
  | 0x001 => (put 3 (withBits (x.csrOf 3) 0 5 v)).modCpu c (fun x => x.setStatus 13 2 3)
  | 0x002 => (put 3 (withBits (x.csrOf 3) 5 3 v)).modCpu c (fun x => x.setStatus 13 2 3)
  | 0x003 => (put 3 (v % 256)).modCpu c (fun x => x.setStatus 13 2 3)
  | 0x100 => status (mstatusMask &&& sstatusMask)
  | 0x300 => status mstatusMask
  | 0x104 => put 0x304 (merge (x.csrOf 0x303) (x.csrOf 0x304) v)
  | 0x144 => put 0x344 (merge (x.csrOf 0x303 &&& 2) (x.csrOf 0x344) v)
  | 0x304 => put n (v &&& 0xAAA)
  | 0x344 => put n (merge 0x222 (x.csrOf n) v)
  | 0x302 => put n (v &&& 0xB3FF)
  | 0x303 => put n (v &&& 0x222)
  | 0x105 => put n (if v % 4 ≤ 1 then v else v / 4 * 4)
  | 0x305 => put n (if v % 4 ≤ 1 then v else v / 4 * 4)
  | 0x141 => put n (v / 2 * 2)
  | 0x341 => put n (v / 2 * 2)
  | 0x180 => if bits v 60 4 = 0 ∨ bits v 60 4 = 8 ∨ bits v 60 4 = 9 then put n v else m
  | 0x3A0 => m.modCpu c (fun x => x.pmpCfg n v)
  | 0x3A2 => m.modCpu c (fun x => x.pmpCfg n v)
  | 0x747 =>
    let old := x.csrOf n
    let locked := (List.range 16).any (fun i => (x.pmp i).1.testBit 7)
    let rlb := if v.testBit 2 && (old.testBit 2 || !locked) then 4 else 0
    put n ((old &&& 3) ||| (v &&& 3) ||| rlb)
  | 0xB00 => put n (m.mcycleFor c v ((x.csrOf 0x320).testBit 0))
  | 0xB02 => put n (if (x.csrOf 0x320).testBit 2 then v else (v + 2 ^ 64 - 1) % 2 ^ 64)
  | 0x320 => m.modCpu c (fun x => (x.csrSet 0xB00 (m.mcycleFor c (m.mcycle c) (v.testBit 0))).csrSet n (v &&& 5))
  | 0x301 => m
  | _ =>
    if 0x3B0 ≤ n ∧ n < 0x3C0 then (if x.pmpLocked (n - 0x3B0) true then m else put n (v % 2 ^ 54))
    else if (m.csrRead c n) = some 0 ∧ (x.csr.get? n).isNone ∧ ((0xB03 ≤ n ∧ n < 0xB20) ∨ (0x323 ≤ n ∧ n < 0x340)) then m
    else put n v

end Sys2Proof.Machine
end

