-- ==== Sys2Proof/Machine/Riscv.lean ====
section
/-! DEFINITION. The instructions of the control cores: RV64GC with Zicsr and Zifencei (R26, R221), as the RISC-V unprivileged and privileged
manuals give them, to which the spec refers (PRESUMED, log 7). One move of a core runs one instruction, or takes one interrupt. -/
namespace Sys2Proof.Machine

/-! ## Immediates -/

/-- A field of `n` bits, sign-extended. -/
def sext64 (x n : Nat) : Dword := (BitVec.ofNat n x).signExtend 64
/-- The low 32 bits, sign-extended. -/
def sext32 (x : Dword) : Dword := (x.setWidth 32).signExtend 64
/-- Format I. -/
def immI (w : Nat) : Dword := sext64 (bits w 20 12) 12
/-- Format S. -/
def immS (w : Nat) : Dword := sext64 (bits w 25 7 * 32 + bits w 7 5) 12
/-- Format B. -/
def immB (w : Nat) : Dword := sext64 (bits w 31 1 * 4096 + bits w 7 1 * 2048 + bits w 25 6 * 32 + bits w 8 4 * 2) 13
/-- Format U. -/
def immU (w : Nat) : Dword := sext64 (bits w 12 20 * 4096) 32
/-- Format J. -/
def immJ (w : Nat) : Dword := sext64 (bits w 31 1 * 2 ^ 20 + bits w 12 8 * 2 ^ 12 + bits w 20 1 * 2 ^ 11 + bits w 21 10 * 2) 21

/-! ## Integer arithmetic (I and M) -/

/-- The base functions, by funct3; `alt` is bit 30. -/
def alu64 (f3 : Nat) (alt : Bool) (a b : Dword) : Dword :=
  let sh := b.toNat % 64
  match f3 with
  | 0 => if alt then a - b else a + b
  | 1 => a <<< sh
  | 2 => if a.slt b then 1 else 0
  | 3 => if a < b then 1 else 0
  | 4 => a ^^^ b
  | 5 => if alt then a.sshiftRight sh else a >>> sh
  | 6 => a ||| b
  | _ => a &&& b
/-- The functions on 32 bits; none where the encoding is reserved. -/
def alu32 (f3 : Nat) (alt : Bool) (a b : Dword) : Option Dword :=
  let x := a.setWidth 32
  let y := b.setWidth 32
  let sh := y.toNat % 32
  match f3 with
  | 0 => some ((if alt then x - y else x + y).signExtend 64)
  | 1 => some ((x <<< sh).signExtend 64)
  | 5 => some ((if alt then x.sshiftRight sh else x >>> sh).signExtend 64)
  | _ => none
/-- Division, remainder and multiplication of `n`-bit numbers: a division by zero gives all ones and the dividend, and an overflow the
dividend and 0. -/
def mulDiv {n : Nat} (f3 : Nat) (a b : BitVec n) : BitVec n :=
  let hi (x : Int) : BitVec n := BitVec.ofInt n (x / 2 ^ n)
  match f3 with
  | 0 => a * b
  | 1 => hi (a.toInt * b.toInt)
  | 2 => hi (a.toInt * b.toNat)
  | 3 => hi ((a.toNat : Int) * b.toNat)
  | 4 => if b = 0 then BitVec.allOnes n else a.sdiv b
  | 5 => if b = 0 then BitVec.allOnes n else a / b
  | 6 => if b = 0 then a else a.srem b
  | _ => if b = 0 then a else a % b
/-- A branch condition, by funct3. -/
def rvTaken (f3 : Nat) (a b : Dword) : Option Bool :=
  match f3 with
  | 0 => some (a = b)
  | 1 => some (a ≠ b)
  | 4 => some (a.slt b)
  | 5 => some (!a.slt b)
  | 6 => some (a < b)
  | 7 => some (!(a < b))
  | _ => none
/-- The function of an AMO on `n` bits, by funct5. -/
def rvAmo {n : Nat} (f5 : Nat) (old v : BitVec n) : Option (BitVec n) :=
  match f5 with
  | 0x00 => some (old + v)
  | 0x01 => some v
  | 0x04 => some (old ^^^ v)
  | 0x08 => some (old ||| v)
  | 0x0C => some (old &&& v)
  | 0x10 => some (if old.slt v then old else v)
  | 0x14 => some (if old.slt v then v else old)
  | 0x18 => some (if old < v then old else v)
  | 0x1C => some (if old < v then v else old)
  | _ => none

/-! ## Floating point (F and D) -/

/-- The rounding mode of a number; its field takes frm for 7. -/
def rvRnd (frm n : Nat) : Option Rnd :=
  match if n = 7 then frm else n with
  | 0 => some .rne | 1 => some .rtz | 2 => some .rdn | 3 => some .rup | 4 => some .rna | _ => none
/-- The format of a register's number: 0 single, 1 double. -/
def rvFmt (fmt : Nat) : Option Fmt := match fmt with | 0 => some F32 | 1 => some F64 | _ => none
/-- A number read from a floating-point register: a single that is not NaN-boxed is the canonical NaN. -/
def Cpu.fr (x : Cpu) (F : Fmt) (r : Nat) : Nat :=
  let v := (x.f.get 0 r).toNat
  if F.width = 64 then v else if v / 2 ^ 32 = 2 ^ 32 - 1 then v % 2 ^ 32 else F.nanEnc
/-- Write a floating-point register, NaN-boxing a single; FS becomes dirty. -/
def Cpu.fw (x : Cpu) (F : Fmt) (r v : Nat) : Cpu :=
  { x with f := x.f.set r (BitVec.ofNat 64 (if F.width = 64 then v else (2 ^ 32 - 1) * 2 ^ 32 + v % 2 ^ 32)) }.setStatus 13 2 3
/-- Raise exception flags in fcsr. -/
def Cpu.flag (x : Cpu) (n : Nat) : Cpu := if n = 0 then x else (x.csrSet 3 (x.csrOf 3 ||| n)).setStatus 13 2 3
/-- A quotient. -/
def Fmt.div (F : Fmt) (mode : Rnd) (a b : Nat) : Nat × Nat :=
  let x := F.dec a
  let y := F.dec b
  let neg := x.isNeg != y.isNeg
  match x, y with
  | .nan s, _ => (F.nanEnc, if s || y.isSig then flagIV else 0)
  | _, .nan s => (F.nanEnc, if s then flagIV else 0)
  | .inf _, .inf _ => (F.nanEnc, flagIV)
  | .inf _, .fin .. => (F.sgn neg + F.infEnc, 0)
  | .fin .., .inf _ => (F.sgn neg, 0)
  | .fin _ p e, .fin _ q g =>
    if q = 0 then (if p = 0 then (F.nanEnc, flagIV) else (F.sgn neg + F.infEnc, flagDZ))
    else if p = 0 then (F.sgn neg, 0)
    else F.quot mode neg p e q g
/-- A fused multiply-add, its product and its addend negated or not. -/
def Fmt.fmaSigned (F : Fmt) (mode : Rnd) (np nc : Bool) (a b c : Nat) : Nat × Nat :=
  let (p, iv) := (F.dec a).mul (F.dec b)
  let z := F.dec c
  F.sum mode [if np then p.neg else p, if nc then z.neg else z] iv
/-- The class of a number, one bit of ten. -/
def Fmt.class (F : Fmt) (a : Nat) : Nat :=
  let sub : Bool := a / 2 ^ F.f % 2 ^ F.e = 0
  match F.dec a with
  | .nan s => if s then 2 ^ 8 else 2 ^ 9
  | .inf n => if n then 1 else 2 ^ 7
  | .fin n m _ => if m = 0 then (if n then 2 ^ 3 else 2 ^ 4) else if sub then (if n then 2 ^ 2 else 2 ^ 5) else if n then 2 else 2 ^ 6
/-- A conversion to an integer of `w` bits: a NaN gives the greatest, and a value out of range the nearest, with NV alone. -/
def rvToInt (signed : Bool) (w : Nat) (mode : Rnd) (x : FVal) : Nat × Nat :=
  match x with
  | .nan _ => (if signed then 2 ^ (w - 1) - 1 else 2 ^ w - 1, flagIV)
  | _ => let (v, f) := cvtInt signed w mode x; (v, if f ≥ flagIV then flagIV else f)
/-- Sign injection, by funct3. -/
def Fmt.inject (F : Fmt) (f3 a b : Nat) : Option Nat :=
  let sa : Bool := a / F.signBit % 2 = 1
  let sb : Bool := b / F.signBit % 2 = 1
  match f3 with
  | 0 => some (F.sgn sb + a % F.signBit)
  | 1 => some (F.sgn (!sb) + a % F.signBit)
  | 2 => some (F.sgn (sa != sb) + a % F.signBit)
  | _ => none
/-- What an OP-FP instruction writes: a floating-point register with its format, or an integer register; with the flags it raises. -/
inductive FpOut where
  | float (F : Fmt) (v flags : Nat) | int (v : Dword) (flags : Nat)
/-- OP-FP: funct7, the format it names, rs2, funct3, the rounding mode where the instruction has one. -/
def rvFp (x : Cpu) (w : Nat) : Option FpOut :=
  let f5 := bits w 27 5
  let f3 := bits w 12 3
  let rs1 := bits w 15 5
  let rs2 := bits w 20 5
  let go (F : Fmt) : Option FpOut :=
    let a := x.fr F rs1
    let b := x.fr F rs2
    let rnd := rvRnd (bits (x.csrOf 3) 5 3) f3
    let arith (f : Rnd → Nat × Nat) : Option FpOut := rnd.map (fun r => let (v, fl) := f r; .float F v fl)
    let cmp (c : Nat) : Option FpOut := let (v, fl) := F.cond c a b; some (.int (if v then 1 else 0) fl)
    let iw := if rs2 < 2 then 32 else 64
    match f5 with
    | 0x00 => arith (fun r => F.add r a b)
    | 0x01 => arith (fun r => F.sub r a b)
    | 0x02 => arith (fun r => F.mul r a b)
    | 0x03 => arith (fun r => F.div r a b)
    | 0x0B => if rs2 = 0 then arith (fun r => F.sqrt r a) else none
    | 0x04 => (F.inject f3 a b).map (fun v => .float F v 0)
    | 0x05 => if f3 < 2 then (let (v, fl) := F.minmax (f3 = 1) a b; some (.float F v fl)) else none
    | 0x08 => if rs2 < 2 ∧ rs2 ≠ bits w 25 2 then
        (rvFmt rs2).bind fun G => arith (fun r => F.enc r (G.dec (x.fr G rs1))) else none
    | 0x14 => (match f3 with | 0 => cmp 3 | 1 => cmp 2 | 2 => cmp 0 | _ => none)
    | 0x18 => if rs2 < 4 then rnd.map (fun r =>
        let (v, fl) := rvToInt (rs2 % 2 = 0) iw r (F.dec a)
        .int (if iw = 32 then sext64 v 32 else BitVec.ofNat 64 v) fl) else none
    | 0x1A => if rs2 < 4 then arith (fun r =>
        let n := x.xr rs1
        let i : Int := if rs2 % 2 = 0 then (if iw = 32 then (n.setWidth 32).toInt else n.toInt)
          else (if iw = 32 then (n.toNat % 2 ^ 32 : Nat) else (n.toNat : Nat))
        F.enc r (intVal i)) else none
    | 0x1C => if rs2 ≠ 0 then none else match f3 with
      | 0 => some (.int (let v := x.f.get 0 rs1; if F.width = 64 then v else sext32 v) 0)
      | 1 => some (.int (BitVec.ofNat 64 (F.class a)) 0)
      | _ => none
    | 0x1E => if rs2 = 0 ∧ f3 = 0 then some (.float F ((x.xr rs1).toNat % 2 ^ F.width) 0) else none
    | _ => none
  (rvFmt (bits w 25 2)).bind go

/-! ## Compressed instructions (C) -/

/-- The words of the formats, from their fields. -/
def encI (op f3 rd rs1 imm : Nat) : Nat := op + rd * 2 ^ 7 + f3 * 2 ^ 12 + rs1 * 2 ^ 15 + imm % 4096 * 2 ^ 20
/-- Format S. -/
def encS (op f3 rs1 rs2 imm : Nat) : Nat :=
  op + imm % 32 * 2 ^ 7 + f3 * 2 ^ 12 + rs1 * 2 ^ 15 + rs2 * 2 ^ 20 + imm / 32 % 128 * 2 ^ 25
/-- Format R. -/
def encR (op f3 f7 rd rs1 rs2 : Nat) : Nat := op + rd * 2 ^ 7 + f3 * 2 ^ 12 + rs1 * 2 ^ 15 + rs2 * 2 ^ 20 + f7 * 2 ^ 25
/-- Format B. -/
def encB (f3 rs1 imm : Nat) : Nat :=
  0x63 + bits imm 11 1 * 2 ^ 7 + bits imm 1 4 * 2 ^ 8 + f3 * 2 ^ 12 + rs1 * 2 ^ 15 + bits imm 5 6 * 2 ^ 25 + bits imm 12 1 * 2 ^ 31
/-- Format J. -/
def encJ (rd imm : Nat) : Nat :=
  0x6F + rd * 2 ^ 7 + bits imm 12 8 * 2 ^ 12 + bits imm 11 1 * 2 ^ 20 + bits imm 1 10 * 2 ^ 21 + bits imm 20 1 * 2 ^ 31
/-- A field of `n` bits sign-extended to `k`. -/
def sextTo (n k x : Nat) : Nat := ((BitVec.ofNat n x).signExtend k).toNat
/-- The 32-bit instruction that a 16-bit one stands for; none where it is reserved. -/
def expandC (w : Nat) : Option Nat :=
  let rd := bits w 7 5
  let rs2 := bits w 2 5
  let rd' := 8 + bits w 2 3
  let rs1' := 8 + bits w 7 3
  let i6 := sextTo 6 12 (bits w 12 1 * 32 + bits w 2 5)
  let uimm6 := bits w 12 1 * 32 + bits w 2 5
  let lw := bits w 10 3 * 8 + bits w 6 1 * 4 + bits w 5 1 * 64
  let ld := bits w 10 3 * 8 + bits w 5 2 * 64
  let jmp := sextTo 12 21 (bits w 12 1 * 2 ^ 11 + bits w 8 1 * 2 ^ 10 + bits w 9 2 * 2 ^ 8 + bits w 6 1 * 2 ^ 7 + bits w 7 1 * 2 ^ 6 +
    bits w 2 1 * 2 ^ 5 + bits w 11 1 * 2 ^ 4 + bits w 3 3 * 2)
  let br := sextTo 9 13 (bits w 12 1 * 2 ^ 8 + bits w 5 2 * 2 ^ 6 + bits w 2 1 * 2 ^ 5 + bits w 10 2 * 2 ^ 3 + bits w 3 2 * 2)
  match bits w 0 2, bits w 13 3 with
  | 0, 0 =>
    let n := bits w 7 4 * 64 + bits w 11 2 * 16 + bits w 5 1 * 8 + bits w 6 1 * 4
    if n = 0 then none else some (encI 0x13 0 rd' 2 n)
  | 0, 1 => some (encI 0x07 3 rd' rs1' ld)
  | 0, 2 => some (encI 0x03 2 rd' rs1' lw)
  | 0, 3 => some (encI 0x03 3 rd' rs1' ld)
  | 0, 5 => some (encS 0x27 3 rs1' rd' ld)
  | 0, 6 => some (encS 0x23 2 rs1' rd' lw)
  | 0, 7 => some (encS 0x23 3 rs1' rd' ld)
  | 1, 0 => some (encI 0x13 0 rd rd i6)
  | 1, 1 => if rd = 0 then none else some (encI 0x1B 0 rd rd i6)
  | 1, 2 => some (encI 0x13 0 rd 0 i6)
  | 1, 3 =>
    if rd = 2 then
      let n := sextTo 10 12 (bits w 12 1 * 2 ^ 9 + bits w 3 2 * 2 ^ 7 + bits w 5 1 * 2 ^ 6 + bits w 2 1 * 2 ^ 5 + bits w 6 1 * 2 ^ 4)
      if n = 0 then none else some (encI 0x13 0 2 2 n)
    else if uimm6 = 0 then none
    else some (0x37 + rd * 2 ^ 7 + sextTo 6 20 uimm6 * 2 ^ 12)
  | 1, 4 =>
    (match bits w 10 2 with
    | 0 => some (encI 0x13 5 rs1' rs1' uimm6)
    | 1 => some (encI 0x13 5 rs1' rs1' (0x400 + uimm6))
    | 2 => some (encI 0x13 7 rs1' rs1' i6)
    | _ =>
      if bits w 12 1 = 0 then
        (match bits w 5 2 with
        | 0 => some (encR 0x33 0 0x20 rs1' rs1' rd')
        | 1 => some (encR 0x33 4 0 rs1' rs1' rd')
        | 2 => some (encR 0x33 6 0 rs1' rs1' rd')
        | _ => some (encR 0x33 7 0 rs1' rs1' rd'))
      else
        (match bits w 5 2 with
        | 0 => some (encR 0x3B 0 0x20 rs1' rs1' rd')
        | 1 => some (encR 0x3B 0 0 rs1' rs1' rd')
        | _ => none))
  | 1, 5 => some (encJ 0 jmp)
  | 1, 6 => some (encB 0 rs1' br)
  | 1, 7 => some (encB 1 rs1' br)
  | 2, 0 => some (encI 0x13 1 rd rd uimm6)
  | 2, 1 => some (encI 0x07 3 rd 2 (bits w 5 2 * 8 + bits w 12 1 * 32 + bits w 2 3 * 64))
  | 2, 2 => if rd = 0 then none else some (encI 0x03 2 rd 2 (bits w 4 3 * 4 + bits w 12 1 * 32 + bits w 2 2 * 64))
  | 2, 3 => if rd = 0 then none else some (encI 0x03 3 rd 2 (bits w 5 2 * 8 + bits w 12 1 * 32 + bits w 2 3 * 64))
  | 2, 4 =>
    if bits w 12 1 = 0 then
      (if rs2 = 0 then (if rd = 0 then none else some (encI 0x67 0 0 rd 0)) else some (encR 0x33 0 0 rd 0 rs2))
    else if rs2 = 0 then (if rd = 0 then some 0x00100073 else some (encI 0x67 0 1 rd 0))
    else some (encR 0x33 0 0 rd rd rs2)
  | 2, 5 => some (encS 0x27 3 2 rs2 (bits w 10 3 * 8 + bits w 7 3 * 64))
  | 2, 6 => some (encS 0x23 2 2 rs2 (bits w 9 4 * 4 + bits w 7 2 * 64))
  | 2, 7 => some (encS 0x23 3 2 rs2 (bits w 10 3 * 8 + bits w 7 3 * 64))
  | _, _ => none

/-! ## One instruction -/

/-- An illegal instruction. -/
def rvIllegal (w : Nat) (m : Mach) : Rv Dword := .trap 2 w m
/-- Loads: the size, whether the value is sign-extended. -/
def rvLoad (mem : Memory) (m : Mach) (c w : Nat) (next : Dword) : Rv Dword :=
  let x := m.cpu c
  let f3 := bits w 12 3
  let n := 2 ^ (f3 % 4)
  if f3 = 7 then rvIllegal w m
  else (m.cpuLoad mem c (x.xr (bits w 15 5) + immI w).toNat n).bind fun v m =>
    let v := if f3 < 4 then sext64 v (8 * n) else BitVec.ofNat 64 v
    .ok next (m.modCpu c (fun x => x.xw (bits w 7 5) v))
/-- FLW, FLD, FSW and FSD. -/
def rvFloatMem (mem : Memory) (m : Mach) (c w : Nat) (next : Dword) (store : Bool) : Rv Dword :=
  let x := m.cpu c
  let f3 := bits w 12 3
  let a (i : Dword) : Nat := (x.xr (bits w 15 5) + i).toNat
  match if f3 = 2 then some F32 else if f3 = 3 then some F64 else none with
  | none => rvIllegal w m
  | some F =>
    if x.status 13 2 = 0 then rvIllegal w m
    else if store then
      (m.cpuStore mem c (a (immS w)) (2 ^ f3) ((x.f.get 0 (bits w 20 5)).toNat % 2 ^ F.width)).bind fun _ m => .ok next m
    else (m.cpuLoad mem c (a (immI w)) (2 ^ f3)).bind fun v m => .ok next (m.modCpu c (fun x => x.fw F (bits w 7 5) v))
/-- The 8 bytes that a reservation at a physical address holds: of Commons their place at the home, which every view of them shares. -/
def Mach.resvOf (m : Mach) (c pa : Nat) : Nat :=
  match m.target (m.corePart c) pa with
  | .commons p d x => m.commonsKey p d x / 8
  | _ => pa / 8
/-- LR, SC and the AMOs, on 4 or 8 bytes. -/
def rvAtomic (mem : Memory) (m : Mach) (c w : Nat) (next : Dword) : Rv Dword :=
  let x := m.cpu c
  let f3 := bits w 12 3
  let f5 := bits w 27 5
  let rd := bits w 7 5
  let n := 2 ^ f3
  let va := (x.xr (bits w 15 5)).toNat
  let v := x.xr (bits w 20 5)
  let put (m : Mach) (old : Nat) : Rv Dword := .ok next (m.modCpu c (fun x => x.xw rd (sext64 old (8 * n))))
  if f3 ≠ 2 ∧ f3 ≠ 3 then rvIllegal w m
  else match f5 with
    | 0x02 =>
      if bits w 20 5 ≠ 0 then rvIllegal w m
      else (m.cpuAddr mem c va n .load).bind fun pa m => (m.cpuPhys mem c pa n va .load).bind fun b m =>
        put (m.modCpu c (fun x => { x with resv := some (m.resvOf c pa) })) (leNat b)
    | 0x03 =>
      (m.cpuAddr mem c va n .store).bind fun pa m =>
        let held : Bool := (m.cpu c).resv = some (m.resvOf c pa)
        let m := m.modCpu c (fun x => { x with resv := none })
        if !held then .ok next (m.modCpu c (fun x => x.xw rd 1))
        else (m.cpuPut mem c pa va (leBytes n v.toNat)).bind fun _ m => .ok next (m.modCpu c (fun x => x.xw rd 0))
    | _ =>
      match rvAmo f5 (0 : Dword) 0 with
      | none => rvIllegal w m
      | some _ =>
        let f (old : Nat) : Nat :=
          if n = 4 then (((rvAmo f5 (BitVec.ofNat 32 old) (v.setWidth 32)).map BitVec.toNat).getD 0)
          else (((rvAmo f5 (BitVec.ofNat 64 old) v).map BitVec.toNat).getD 0)
        (m.cpuAmo mem c va n f).bind fun old m => put m old
/-- The CSR instructions of Zicsr. -/
def rvCsr (m : Mach) (c w : Nat) (next : Dword) : Rv Dword :=
  let x := m.cpu c
  let f3 := bits w 12 3
  let n := bits w 20 12
  let src := bits w 15 5
  let v := if f3 ≥ 4 then src else (x.xr src).toNat
  let writes : Bool := f3 % 4 = 1 || src ≠ 0
  match m.csrRead c n with
  | none => rvIllegal w m
  | some old =>
    if writes ∧ bits n 10 2 = 3 then rvIllegal w m
    else
      let base := if n = 0x344 then x.csrOf 0x344 else old
      let new := match f3 % 4 with | 1 => v | 2 => base ||| v | _ => base &&& (2 ^ 64 - 1 - v)
      let m := if writes then m.csrWrite c n new else m
      .ok next (m.modCpu c (fun x => x.xw (bits w 7 5) (BitVec.ofNat 64 old)))
/-- Return from a trap: MRET or SRET. -/
def Cpu.ret (x : Cpu) (machine : Bool) : Cpu :=
  if machine then
    let mpp := x.status 11 2
    let y := ((x.setStatus 3 1 (x.status 7 1)).setStatus 7 1 1).setStatus 11 2 0
    { (if mpp = 3 then y else y.setStatus 17 1 0) with mode := mpp, pc := BitVec.ofNat 64 (x.csrOf 0x341) }
  else
    let y := (((x.setStatus 1 1 (x.status 5 1)).setStatus 5 1 1).setStatus 8 1 0).setStatus 17 1 0
    { y with mode := x.status 8 1, pc := BitVec.ofNat 64 (x.csrOf 0x141) }
/-- ECALL, EBREAK, MRET, SRET, WFI and SFENCE.VMA. -/
def rvSystem (m : Mach) (c w : Nat) (next : Dword) : Rv Dword :=
  let x := m.cpu c
  if bits w 7 5 ≠ 0 then rvIllegal w m
  else if bits w 25 7 = 9 then
    if x.mode = 0 ∨ (x.mode = 1 ∧ x.status 20 1 = 1) then rvIllegal w m
    else
      let va := if bits w 15 5 = 0 then none else some (x.xr (bits w 15 5)).toNat
      let asid := if bits w 20 5 = 0 then none else some ((x.xr (bits w 20 5)).toNat % 2 ^ 16)
      .ok next (if isReeve c then m.sfence c va asid else m)
  else match w with
    | 0x00000073 => .trap (8 + x.mode) 0 m
    | 0x00100073 => .trap 3 x.pc.toNat m
    | 0x30200073 =>
      if x.mode ≠ 3 then rvIllegal w m else let y := x.ret true; .ok y.pc (m.modCpu c (fun _ => y))
    | 0x10200073 =>
      if x.mode = 0 ∨ (x.mode = 1 ∧ x.status 22 1 = 1) then rvIllegal w m
      else let y := x.ret false; .ok y.pc (m.modCpu c (fun _ => y))
    | 0x10500073 =>
      if x.mode = 0 ∨ (x.mode = 1 ∧ x.status 21 1 = 1) then rvIllegal w m
      else .ok next (m.modCpu c (fun x => { x with idle := true }))
    | _ => rvIllegal w m
/-- One 32-bit instruction; the address of the next. -/
def rvExec (mem : Memory) (m : Mach) (c w : Nat) (next : Dword) : Rv Dword :=
  let x := m.cpu c
  let rd := bits w 7 5
  let f3 := bits w 12 3
  let f7 := bits w 25 7
  let a := x.xr (bits w 15 5)
  let b := x.xr (bits w 20 5)
  let put (v : Dword) : Rv Dword := .ok next (m.modCpu c (fun x => x.xw rd v))
  let link (dest : Dword) : Rv Dword := .ok dest (m.modCpu c (fun x => x.xw rd next))
  match bits w 0 7 with
  | 0x37 => put (immU w)
  | 0x17 => put (x.pc + immU w)
  | 0x6F => link (x.pc + immJ w)
  | 0x67 => if f3 = 0 then link ((a + immI w) &&& ~~~1) else rvIllegal w m
  | 0x63 => (match rvTaken f3 a b with
    | none => rvIllegal w m
    | some t => .ok (if t then x.pc + immB w else next) m)
  | 0x03 => rvLoad mem m c w next
  | 0x23 => if f3 > 3 then rvIllegal w m else
      (m.cpuStore mem c (a + immS w).toNat (2 ^ f3) (b.toNat % 2 ^ (8 * 2 ^ f3))).bind fun _ m => .ok next m
  | 0x13 =>
    if (f3 = 1 ∧ f7 / 2 ≠ 0) ∨ (f3 = 5 ∧ f7 / 2 ≠ 0 ∧ f7 / 2 ≠ 0x10) then rvIllegal w m
    else put (alu64 f3 (f3 = 5 ∧ w.testBit 30) a (immI w))
  | 0x1B =>
    if (f3 = 1 ∧ f7 ≠ 0) ∨ (f3 = 5 ∧ f7 ≠ 0 ∧ f7 ≠ 0x20) then rvIllegal w m
    else (match alu32 f3 (f3 = 5 ∧ w.testBit 30) a (immI w) with | some v => put v | none => rvIllegal w m)
  | 0x33 =>
    if f7 = 1 then put (mulDiv f3 a b)
    else if f7 = 0 ∨ (f7 = 0x20 ∧ (f3 = 0 ∨ f3 = 5)) then put (alu64 f3 (f7 = 0x20) a b) else rvIllegal w m
  | 0x3B =>
    if f7 = 1 then
      (if f3 = 1 ∨ f3 = 2 ∨ f3 = 3 then rvIllegal w m else put ((mulDiv f3 (a.setWidth 32) (b.setWidth 32)).signExtend 64))
    else if f7 = 0 ∨ (f7 = 0x20 ∧ (f3 = 0 ∨ f3 = 5)) then
      (match alu32 f3 (f7 = 0x20) a b with | some v => put v | none => rvIllegal w m)
    else rvIllegal w m
  | 0x0F => if f3 ≤ 1 then .ok next m else rvIllegal w m
  | 0x2F => rvAtomic mem m c w next
  | 0x73 => if f3 = 0 then rvSystem m c w next else if f3 = 4 then rvIllegal w m else rvCsr m c w next
  | 0x07 => rvFloatMem mem m c w next false
  | 0x27 => rvFloatMem mem m c w next true
  | 0x53 =>
    if x.status 13 2 = 0 then rvIllegal w m
    else (match rvFp x w with
      | some (.float F v fl) => .ok next (m.modCpu c (fun x => (x.fw F rd v).flag fl))
      | some (.int v fl) => .ok next (m.modCpu c (fun x => (x.xw rd v).flag fl))
      | none => rvIllegal w m)
  | op =>
    if op ∈ [0x43, 0x47, 0x4B, 0x4F] ∧ x.status 13 2 ≠ 0 then
      match rvFmt (bits w 25 2), rvRnd (bits (x.csrOf 3) 5 3) f3 with
      | some F, some r =>
        let (v, fl) := F.fmaSigned r (op = 0x4B ∨ op = 0x4F) (op = 0x47 ∨ op = 0x4F) (x.fr F (bits w 15 5)) (x.fr F (bits w 20 5))
          (x.fr F (bits w 27 5))
        .ok next (m.modCpu c (fun x => (x.fw F rd v).flag fl))
      | _, _ => rvIllegal w m
    else rvIllegal w m
/-- Fetch an instruction of 16 or 32 bits at the pc, and run it. -/
def rvStep (mem : Memory) (m : Mach) (c : Nat) : Rv Dword :=
  let pc := (m.cpu c).pc
  (m.cpuFetch mem c pc.toNat).bind fun lo m =>
    if lo % 4 ≠ 3 then
      match expandC lo with
      | some w => rvExec mem m c w (pc + 2)
      | none => rvIllegal lo m
    else (m.cpuFetch mem c (pc + 2).toNat).bind fun hi m => rvExec mem m c (lo + 2 ^ 16 * hi) (pc + 4)
/-- An interrupt that is enabled in mie is pending: a core that waits goes on. -/
def Mach.wakes (m : Mach) (c : Nat) : Bool := m.mip c &&& (m.cpu c).csrOf 0x304 ≠ 0
/-- The next core that acts now. -/
def Mach.cpuDue (m : Mach) : Option Nat :=
  (m.cpus.find? (fun e => e.2.due ≤ m.now && (!e.2.idle || m.wakes e.1))).map (·.1)
/-- A core takes an interrupt, or runs an instruction, which minstret counts unless mcountinhibit.IR was set before it. How long an instruction
takes is open (log 4, log 7). -/
def cpuMove (c : Nat) : Act := fun mem m =>
  let (t, m) := m.someTime (m.now + 1)
  let m := m.modCpu c (fun x => { x with due := t, idle := false })
  let one := if ((m.cpu c).csrOf 0x320).testBit 2 then 0 else 1
  match m.interrupt c with
  | some i => m.modCpu c (fun x => x.enter true i 0)
  | none => match rvStep mem m c with
    | .ok pc m => m.modCpu c (fun x => (x.csrSet 0xB02 ((x.csrOf 0xB02 + one) % 2 ^ 64)).goto pc)
    | .trap cause v m => m.modCpu c (fun x => x.enter false cause v)
    | .held pa => m.hotWait pa

end Sys2Proof.Machine
end

