-- ==== Sys2Proof/Machine/Events.lean ====
section
/-! DEFINITION. Which move comes next: moves of outside agents, moves whose cycle has come or whose condition holds (spec/95), words
that were withheld, fetches, the issue of a group, and the end of a cycle. Within a cycle each move is one step of the machine. -/
namespace Sys2Proof.Machine

/-- The meaning of a move: that of the constructor of Instr of the same name. -/
def Event.run (e : Event) (s : State) : Host.Outcome State Fault Refusal :=
  match e with
  | .packageReset => execPackageReset s
  | .freezeEnd => execFreezeEnd s
  | .flitEjection x0 => execFlitEjection x0 s
  | .homeAccess x0 => execHomeAccess x0 s
  | .peerForwardRequest x0 => execPeerForwardRequest x0 s
  | .remoteSharedRequest x0 => execRemoteSharedRequest x0 s
  | .loadDataReturn x0 => execLoadDataReturn x0 s
  | .vrdLanding x0 x1 x2 => execVrdLanding x0 x1 x2 s
  | .vwrLanding x0 x1 x2 => execVwrLanding x0 x1 x2 s
  | .activeSetJoin x0 x1 => execActiveSetJoin x0 x1 s
  | .forcedJoin x0 x1 => execForcedJoin x0 x1 s
  | .activeSetLeave x0 x1 => execActiveSetLeave x0 x1 s
  | .leaseReestimate x0 x1 => execLeaseReestimate x0 x1 s
  | .passedOverExpiry x0 x1 => execPassedOverExpiry x0 x1 s
  | .streakExpiry x0 x1 => execStreakExpiry x0 x1 s
  | .yieldExpiry x0 x1 => execYieldExpiry x0 x1 s
  | .clusterPlacement x0 => execClusterPlacement x0 s
  | .blockWarpsEligible x0 x1 => execBlockWarpsEligible x0 x1 s
  | .blockEnd x0 x1 => execBlockEnd x0 x1 s
  | .contextLeave x0 x1 => execContextLeave x0 x1 s
  | .laysetArrival x0 x1 => execLaysetArrival x0 x1 s
  | .commandStart x0 x1 => execCommandStart x0 x1 s
  | .commandChunk x0 x1 => execCommandChunk x0 x1 s
  | .chunkAcknowledgement x0 x1 x2 => execChunkAcknowledgement x0 x1 x2 s
  | .amoPerform x0 x1 => execAmoPerform x0 x1 s
  | .clusterBarrierMessage x0 => execClusterBarrierMessage x0 s
  | .clusterFlipMessage x0 => execClusterFlipMessage x0 s
  | .barrierAnswer x0 => execBarrierAnswer x0 s
  | .qengComplete x0 => execQengComplete x0 s
  | .shadowLatchLoad x0 => execShadowLatchLoad x0 s
  | .parameterBlockArrival x0 x1 => execParameterBlockArrival x0 x1 s
  | .engineContextSwitch x0 => execEngineContextSwitch x0 s
  | .engineCommandStart x0 => execEngineCommandStart x0 s
  | .mmopTile x0 => execMmopTile x0 s
  | .activationRowEntry x0 => execActivationRowEntry x0 s
  | .engineCommandComplete x0 => execEngineCommandComplete x0 s
  | .drainStart x0 => execDrainStart x0 s
  | .drainReserve x0 => execDrainReserve x0 s
  | .drainChunk x0 => execDrainChunk x0 s
  | .mmspChunk x0 => execMmspChunk x0 s
  | .fenceRelease x0 x1 => execFenceRelease x0 x1 s
  | .orderedAtomRelease x0 x1 => execOrderedAtomRelease x0 x1 s
  | .operandLogAccess x0 x1 x2 => execOperandLogAccess x0 x1 x2 s
  | .pageWalkComplete x0 x1 => execPageWalkComplete x0 x1 s
  | .fetchFault x0 x1 x2 => execFetchFault x0 x1 x2 s
  | .watchdogRestart x0 => execWatchdogRestart x0 s
  | .packetStart x0 => execPacketStart x0 s
  | .launch x0 => execLaunch x0 s
  | .batch x0 => execBatch x0 s
  | .waitsem x0 => execWaitsem x0 s
  | .waitsemPoll x0 => execWaitsemPoll x0 s
  | .signal x0 => execSignal x0 s
  | .muster x0 => execMuster x0 s
  | .musterReserveGrant x0 x1 => execMusterReserveGrant x0 x1 s
  | .musterStartToken x0 x1 => execMusterStartToken x0 x1 s
  | .musterRetry x0 => execMusterRetry x0 s
  | .copyq x0 => execCopyq x0 s
  | .fenceq x0 => execFenceq x0 s
  | .qmark x0 => execQmark x0 s
  | .packetComplete x0 => execPacketComplete x0 s
  | .taskDeal x0 => execTaskDeal x0 s
  | .enqRequest x0 => execEnqRequest x0 s
  | .loadTokenReissue => execLoadTokenReissue s
  | .preemptStage2 => execPreemptStage2 s
  | .preemptReset => execPreemptReset s
  | .prcmdRestore x0 => execPrcmdRestore x0 s
  | .mailboxDeliver x0 => execMailboxDeliver x0 s
  | .eventRingWrite x0 => execEventRingWrite x0 s
  | .nvmeDoorbell x0 x1 => execNvmeDoorbell x0 x1 s
  | .nvmeEnable x0 => execNvmeEnable x0 s
  | .nvmeCommandComplete x0 => execNvmeCommandComplete x0 s
  | .nvmeReady => execNvmeReady s
  | .handlerModeSaveWaitExpiry x0 x1 => execHandlerModeSaveWaitExpiry x0 x1 s
  | .ethFrameTransmit x0 x1 => execEthFrameTransmit x0 x1 s
  | .ethFrameReceive x0 x1 => execEthFrameReceive x0 x1 s
  | .governorStep x0 x1 => execGovernorStep x0 x1 s
  | .powerControlTick x0 => execPowerControlTick x0 s

/-- The moves of agents outside the model: what control cores write and send, frames, flits, temperatures, power (log 1, log 21). -/
def isOutside : Instr → Bool
  | .thermalHot .. | .fqreplyRetry .. | .fqreplyAbort .. | .sfenceVma ..
  | .scstatFree .. | .resumecmd .. | .warpWindowWrite .. | .wctlClrh .. | .wctlStop .. | .wctlStep .. | .qdbRing ..
  | .qdbResume .. | .wdogKick .. | .loadToken .. | .stealAck .. | .prcmdSave .. | .mailboxSend ..
  | .featureNegotiate .. | .functionReset .. | .hostDoorbell .. | .partownWrite .. | .ccarveWrite ..
  | .clodorFlitReceive .. | .linkPortDown .. | .registerWrite .. | .stackBelowRel .. | .linkPortUp ..
  | .fqctlHeadWrite .. | .ethFrameReceive .. => true
  | _ => false

/-! ## Moves of a hamlet -/

/-- The first of some moves whose condition holds. -/
def firstOf (l : List (Bool × Event)) : Option Event := (l.find? (·.1)).map (·.2)
/-- The moves of a hamlet's engines and channels (R97, R104, R130, R134 to R152, R282). While the package is frozen, none starts a
chunk, a tile or a block (R237). -/
def Mach.engineMove (m : Mach) (h : Nat) (x : Hamlet) : Option Event :=
  let on := !m.frozen
  firstOf ([
    (x.eng.shadowDue m.now, .shadowLatchLoad h), (on && m.switchDue h, .engineContextSwitch h),
    (on && m.engStartDue h, .engineCommandStart h), (on && m.tileDue h, .mmopTile h), (m.rowDue h, .activationRowEntry h),
    (on && m.mmspDue h, .mmspChunk h), (on && m.drainStartDue h, .drainStart h), (on && m.reserveDue h, .drainReserve h),
    (on && m.drainChunkDue h, .drainChunk h)] ++
    (List.range 4).flatMap (fun ch =>
      [(on && m.mayStart h ch, Event.commandStart h ch), (on && m.chunkDue h ch, .commandChunk h ch),
       (on && m.amoDue h ch, .amoPerform h ch)]) ++
    [(m.engDone h, .engineCommandComplete h), (on && m.qengMayStart h, .commandStart h 4), (on && m.qengDue h, .qengComplete h)])
/-- Reads that have come, and the moves of a warp's holds, log and landings (R99, R142, R164, R184, R189, R287, R299, R394). -/
def Mach.warpMove (m : Mach) (h w : Nat) (x : Warp) : Option Event :=
  firstOf ([
    ((m.fenceDue h w).isSome, .fenceRelease h w), ((m.atomDue h w).isSome, .orderedAtomRelease h w),
    (m.saveWaitOver h w, .handlerModeSaveWaitExpiry h w)] ++
    x.log.map (fun e => (x.logReady m.now e, Event.operandLogAccess h w e.id)) ++
    x.pends.map (fun p => (p.role == .vrd && x.earlyMask p m.now != 0, Event.vrdLanding h w p.id)) ++
    x.pends.map (fun p => (p.role == .vwr && x.earlyMask p m.now != 0, Event.vwrLanding h w p.id)))
/-- The logged writes of a hamlet. -/
def Mach.storeMove (m : Mach) (h : Nat) (x : Hamlet) : Option Event :=
  x.warps.findSome? (fun e => firstOf (e.2.log.map (fun y => (y.store && e.2.logReady m.now y, Event.operandLogAccess h e.1 y.id))))
/-- The moves of a hamlet's reads, warps and walks. -/
def Mach.hamMove (m : Mach) (h : Nat) (x : Hamlet) : Option Event :=
  (firstOf (x.lays.map (fun y => (m.laysetDue h y, Event.laysetArrival h y.id)) ++
    x.lays.map (fun y => (m.parDue h y, Event.parameterBlockArrival h y.id)))).orElse (fun _ =>
  (x.warps.findSome? (fun e => m.warpMove h e.1 e.2)).orElse (fun _ =>
  firstOf (x.walks.map (fun y => (y.due ≤ m.now, Event.pageWalkComplete h y.id)))))
/-- The moves of a hamlet's active set and counters (R37, R54, R57 to R59, R397). -/
def Mach.activeMove (m : Mach) (h : Nat) (x : Hamlet) : Option Event :=
  (x.warps.findSome? (fun e =>
    firstOf [
      (e.2.leaves, .activeSetLeave h e.1), (e.2.active && e.2.actCycles ≥ 1024, .leaseReestimate h e.1),
      (e.2.passed ≥ 4096 && !e.2.prefer, .passedOverExpiry h e.1), (e.2.streak ≥ 64 && !e.2.second, .streakExpiry h e.1),
      (match e.2.yieldUntil with | some t => t ≤ m.now | none => false, .yieldExpiry h e.1)])).orElse (fun _ =>
  if !m.mayJoin h then none
  else match m.forcedWarp h with
    | some w => some (.forcedJoin h w)
    | none => (m.joinWarp h).map (fun w => .activeSetJoin h w))
/-- The moves of a hamlet's blocks and contexts (R43, R51, R78). -/
def Mach.blockMove (mem : Memory) (m : Mach) (h : Nat) (x : Hamlet) : Option Event :=
  firstOf (x.blocks.flatMap (fun e =>
      [(m.eligDue h e.1, Event.blockWarpsEligible h e.1), (m.endDue h e.1, .blockEnd h e.1)]) ++
    x.ctxs.map (fun e => (m.leaveDue mem h e.1, Event.contextLeave h e.1)))

/-! ## Moves of the network (R22, R28, R148, R159, R398) -/

/-- The requests at a stage whose cycle has come. -/
def Mach.reqsAt (m : Mach) (stage : Nat) : List Req := m.reqs.filter (fun r => r.stage = stage && r.due ≤ m.now)
/-- The owner of a request's own reservation: the command whose chunk it is (R148). -/
def Req.owner (r : Req) : Nat := match r.ack with | some (_, cmd) => cmd | none => 0
/-- The order in which a home applies the accesses that have reached it: as they arrived; of one cycle writes and RMWs first, by HAMLETID
(R159). -/
def Req.order (r : Req) : Nat := ((2 * r.due + if r.kind.writes then 0 else 1) * 1024 + r.ham) * 2 ^ 64 + r.id
/-- The next access that a home or target applies among some of those that have reached it: none to a reserved granule (R148). -/
def Mach.homeNext (m : Mach) (which : Req → Bool) : Option Event :=
  let may (r : Req) : Bool := which r && !(r.kind.home && r.lanes.any (fun e => m.reserved r.owner (m.reqKey r e.2.1)))
  (minBy Req.order ((m.reqsAt 1).filter may)).map (fun r =>
    if r.kind.home then Event.homeAccess r.id else .remoteSharedRequest r.id)
/-- Requests that leave the network, and the accesses that a reservation has held since an earlier cycle, reads among them, in the order in
which they came (R148, R159). -/
def Mach.netMove (m : Mach) : Option Event :=
  (((m.reqsAt 0).head?).map (fun r => Event.flitEjection r.id)).orElse (fun _ =>
  (((m.reqsAt 2).head?).map (fun r => Event.peerForwardRequest r.id)).orElse (fun _ => m.homeNext (fun r => r.due < m.now)))
/-- The writes of one hamlet: those of its engines and channels, those that reach their homes and targets, and its logged ones. -/
def Mach.writeMove (m : Mach) (h : Nat) (x : Hamlet) : Option Event :=
  (m.engineMove h x).orElse (fun _ => (m.homeNext (fun r => r.kind.writes && r.ham = h)).orElse (fun _ => m.storeMove h x))
/-- Reads at homes and targets, and replies that have come back. -/
def Mach.netRead (m : Mach) : Option Event :=
  (m.homeNext (fun r => !r.kind.writes)).orElse (fun _ => ((m.reqsAt 3).head?).map (fun r => Event.loadDataReturn r.id))
/-- Flips and answers of cluster barriers that have come (R111). -/
def Mach.barMove (m : Mach) : Option Event :=
  m.msgs.findSome? (fun x =>
    if x.due ≤ m.now && x.waits.isNone then
      match x.item with
      | .flip _ => some (.clusterFlipMessage x.id)
      | .answer .. => some (.barrierAnswer x.id)
      | _ => none
    else none)
/-- The next item of a cluster barrier that has come to its host: after the host block's own arrivals of the cycle, before its BARRD, BARRJ,
BINIT and BWAIT, in ascending HAMLETID of the senders (R110, R303). -/
def Mach.barItem (m : Mach) : Option Event :=
  let item (x : Msg) : Bool := match x.item with | .flip _ => false | .answer .. => false | _ => true
  (minBy (·.src) (m.msgs.filter (fun x => x.due ≤ m.now && x.waits.isNone && item x))).map (fun x => .clusterBarrierMessage x.id)

/-! ## Moves of queues, tasks and the package -/

/-- The moves of a command queue (R204 to R219). While the package is frozen, no packet starts and no poll or retry comes (R237). -/
def Mach.queueMove (m : Mach) (q : Nat) : Option Event :=
  let on := !m.frozen
  let open' (op : Nat) : Bool := on && (m.opening q op).isSome
  firstOf [
    (open' 1, .launch q), (open' 2, .batch q), (open' 3, .waitsem q), (open' 4, .signal q),
    (on && (m.musterDue q).isSome, .muster q), (on && (m.copyDue q).isSome, .copyq q), (open' 7, .fenceq q), (open' 8, .qmark q),
    (on && (m.pollDue q).isSome, .waitsemPoll q), (on && (m.grantDue q).isSome, .musterReserveGrant q ((m.grantDue q).getD 0)),
    (on && (m.retryDue q).isSome, .musterRetry q), (m.completeDue q, .packetComplete q),
    (on && m.startDue q, .packetStart q)]
/-- The next step of a governor, of the lowest parish first, or of the power controller (R20, R246, R247). -/
def Mach.clockMove (m : Mach) : Option Event :=
  (((List.range 40).find? m.govDue).map (fun p => Event.governorStep p (Config.slotDepth p (m.govSince p)))).orElse (fun _ =>
  if m.powerDue then some (.powerControlTick (Config.watts m.powLast)) else none)
/-- The moves of the front-ends and of the package's other units (R212, R214, R220, R229, R232, R244, R330). -/
def Mach.packageMove (mem : Memory) (m : Mach) : Option Event :=
  (m.launches.findSome? (fun e => if m.placeDue e.1 then some (Event.clusterPlacement e.1) else none)).orElse (fun _ =>
  (m.queues.findSome? (fun e => m.queueMove e.1)).orElse (fun _ =>
  (m.tokens.findSome? (fun t => if t.due ≤ m.now then some (Event.musterStartToken t.queue t.part) else none)).orElse (fun _ =>
  (m.dealDue.map (fun t => Event.taskDeal t.id)).orElse (fun _ =>
  (m.enqDue.map (fun t => Event.enqRequest t.id)).orElse (fun _ =>
  (firstOf [
    (m.reissueDue, .loadTokenReissue), (m.resetDue, .preemptReset), (m.stage2Due, .preemptStage2),
    (m.restoreDue, .prcmdRestore ((m.pre.map (·.ctx)).getD 0))]).orElse (fun _ =>
  (m.mailDue.map (fun x => Event.mailboxDeliver x.id)).orElse (fun _ =>
  (m.funcs.findSome? (fun e => if m.eventDue e.1 then some (Event.eventRingWrite e.1) else none)).orElse (fun _ =>
  ((m.txDue mem).map (fun e => Event.ethFrameTransmit e.1 e.2)).orElse (fun _ =>
  m.kicks.findSome? (fun e => if m.watchdogDue e.1 then some (Event.watchdogRestart e.1) else none))))))))))
/-- The next move among those that write first in a cycle: the hamlets', in ascending order (R159). -/
def Mach.writeEvent (m : Mach) : Option Event :=
  (if m.freezeOver then some Event.freezeEnd else none).orElse (fun _ =>
  m.clockMove.orElse (fun _ =>
  m.netMove.orElse (fun _ =>
  (m.hams.findSome? (fun e => m.writeMove e.1 e.2)).orElse (fun _ => m.barMove))))
/-- The next of the other moves whose condition holds, but for the items of cluster barriers. -/
def Mach.readEvent (mem : Memory) (m : Mach) : Option Event :=
  let each (f : Nat → Hamlet → Option Event) : Option Event := m.hams.findSome? (fun e => f e.1 e.2)
  m.netRead.orElse (fun _ =>
  (each m.hamMove).orElse (fun _ =>
  (each m.activeMove).orElse (fun _ =>
  each (m.blockMove mem))))
/-- The next acknowledgement: in order of hamlet and unit (R104). -/
def Mach.nextAck (m : Mach) : Option Event :=
  (minBy (fun a => 8 * a.ham + a.chan) (m.acks.filter (fun a => a.due ≤ m.now))).map (fun a => .chunkAcknowledgement a.ham a.chan a.cmd)
/-- A timed move of the NVMe module or of an Ethernet port. -/
def Event.device : Event → Bool
  | .nvmeCommandComplete _ | .nvmeReady | .ethFrameReceive .. => true
  | _ => false
/-- The places of the agents that are no control cores, behind those, in the order of a cycle's writes: Clodor links, the host link, the NVMe
module, the Ethernet ports (R159). -/
def linkPlace : Nat := 1000
/-- The place of the front-ends among the control cores: the lowest number of a command processor's (R221). -/
def frontPlace : Nat := 640
/-- The place of an outside agent in the order of a cycle's writes: a Reeve's is its number (R159, R221). -/
def outsidePlace : Instr → Nat
  | .clodorFlitReceive .. => linkPlace
  | .hostDoorbell .. | .featureNegotiate .. | .functionReset .. => linkPlace + 1
  | .ethFrameReceive .. => linkPlace + 3
  | .mailboxSend src _ => src
  | _ => 0
/-- The place of a deed in that order. -/
def deedPlace : Deed → Nat
  | .shard h => h
  | .createQueue .. | .loadShadow .. | .steal .. => 656
  | .token .. => frontPlace
  | .linkServe _ | .podWrite .. | .linkAck .. | .linkNak _ => linkPlace
  | _ => 0
/-- The place of a timed move of a device in that order. -/
def devicePlace : Event → Nat
  | .ethFrameReceive .. => linkPlace + 3
  | _ => linkPlace + 2
/-- The next timed move: of the devices, in the order of R159, or of the others. -/
def Mach.dueTimer (m : Mach) (device : Bool) : Option (Nat × Event) :=
  minBy (fun e => devicePlace e.2) (m.timers.filter (fun e => e.1 ≤ m.now && e.2.device == device))
/-- The next outside move whose cycle has come. -/
def Mach.nextOutside (m : Mach) : Option (Nat × Instr) := minBy (fun e => outsidePlace e.2) (m.agenda.filter (fun e => e.1 ≤ m.now))
/-- The next deed of an outside agent whose cycle has come. -/
def Mach.nextDeed (m : Mach) : Option (Nat × Deed) := minBy (fun e => deedPlace e.2) (m.deeds.filter (fun e => e.1 ≤ m.now))

/-! ## The end of a cycle -/

/-- A warp at the start of a cycle: results land, VRD and VWR see them, log entries are freed, and STOP parks ready lanes at a group
boundary (R66, R189, R224, R287). -/
def Warp.turn (x : Warp) (now : Nat) (stop : Bool) : Warp :=
  let x := ((x.landDue now).capture now).freeLogs now
  if stop then x.halt else x
/-- A hamlet at the start of a cycle. -/
def Mach.turnHam (m : Mach) (h : Nat) : Mach :=
  let m := m.modHam h (fun x =>
    { x with late := [], eng := x.eng.land m.now, warps := x.warps.map (fun e => (e.1, e.2.turn m.now (m.stopOn h e.1))) })
  (m.recordsDue h).fqFlush h ((m.ham h).fqWait.length)
/-- What a freeze holds back by a cycle: waits of WAITSEM and COPYQ, musters' retries, the pre-emption deadlines (R237). -/
def Mach.holdBack (m : Mach) : Mach :=
  let f : Packet → Packet := fun p => { p with next := if p.op = 3 then p.next + 1 else p.next, retry := p.retry.map (· + 1) }
  { m with
    queues := m.queues.map (fun e => (e.1, { e.2 with packets := e.2.packets.map f }))
    pre := m.pre.map (fun p => { p with since := p.since + 1, stops := p.stops.map (fun e => (e.1, e.2 + 1)) }) }
/-- The cycle ends: counters advance, unless the package is frozen (R237), the controller queues of the stacks drain (R238), and the next
cycle begins. -/
def Mach.tick (mem : Memory) (m : Mach) : Mach :=
  let hs := m.hams.map (·.1)
  let m := if m.frozen then m.holdBack else hs.foldl (fun m h => m.countHam h) m
  hs.foldl (fun m h => m.turnHam h) ((({ m with now := m.now + 1, issued := [] } : Mach).drainHot mem).askRemote)

/-! ## The next move -/

/-- A number for a unit: its kind and up to two numbers. -/
def agentNo (kind a b : Nat) : Nat := kind + 16 * (a + 2 ^ 64 * b)

/-- A move of the machine. -/
inductive Move where
  /-- The head of the agenda; one that is no outside move only leaves it. -/
  | outside (t : Nat) (i : Instr)
  /-- A deed of an outside agent. -/
  | deed (t : Nat) (d : Deed)
  /-- A control core runs an instruction. -/
  | cpu (core : Nat)
  | timed (t : Nat) (e : Event)
  | event (e : Event)
  | late (h w : Nat)
  /-- A cluster-barrier message whose release has come sets out (R165). -/
  | depart (msg : Nat)
  | fetch (h w : Nat) (lanes : Word) (f : Fetched)
  | issue (r : IssueGroup × List Nat × SMap Nat)
  | tick
  deriving Repr
/-- The next move of the control cores and of what stands behind them in the order of a cycle's writes (R159). -/
def Mach.coreMove (mem : Memory) (m : Mach) : Option Move :=
  (minBy (·.1) ([
    m.nextOutside.map (fun e => (outsidePlace e.2, Move.outside e.1 e.2)),
    m.nextDeed.map (fun e => (deedPlace e.2, .deed e.1 e.2)),
    m.cpuDue.map (fun c => (c, .cpu c)),
    (m.packageMove mem).map (fun e => (frontPlace, .event e)),
    (m.dueTimer true).map (fun e => (devicePlace e.2, .timed e.1 e.2))].filterMap id)).map (·.2)
/-- What the machine does next. -/
def nextMove (s : State) : Move :=
  let m := s.m
  let word : Option (Nat × Move) :=
    match m.lateDue, m.nextGroup s.mem with
    | some (p, h, w), some r => if p ≤ r.1.place then some (p, .late h w) else some (r.1.place, .issue r)
    | some (p, h, w), none => some (p, .late h w)
    | none, some r => some (r.1.place, .issue r)
    | none, none => none
  let after : Move :=
    match { m with agent := 0 }.nextFetch s.mem with
    | some (h, w, lanes, f) => .fetch h w lanes f
    | none => match word, m.barItem with
      | some (p, v), some e => if p < 2 * 4096 then v else .event e
      | some (_, v), none => v
      | none, some e => .event e
      | none, none => .tick
  if !m.booted then .event .packageReset
  else match m.nextAck with
    | some e => .event e
    | none => match m.dueTimer false with
      | some e => .timed e.1 e.2
      | none => match m.writeEvent with
        | some e => .event e
        | none => match m.coreMove s.mem with
          | some v => v
          | none => match m.readEvent s.mem with
            | some e => .event e
            | none => match m.msgDue with
              | some x => .depart x.id
              | none => after
/-- The state after a move that is not one instruction of its own. -/
def moveOn (s : State) : Move → State
  | .late h w => runLate h w s
  | .deed _ d => s.settle (d.act s.mem s.m.clear)
  | .cpu c => s.settle (cpuMove c s.mem s.m.clear)
  | .depart id => s.settle (s.m.depart id)
  | .fetch h w lanes f => s.settle (s.m.fetchMove h w lanes f)
  | .issue r => issueGroup r s
  | _ => s.settle (s.m.tick s.mem)
/-- The unit of the machine whose move this is, as the controller queue of a stack tells its requests apart (R237): 0 for what makes none. -/
def Event.agent : Event → Nat
  | .commandChunk h c => agentNo 1 h c
  | .amoPerform h c => agentNo 1 h c
  | .mmspChunk h => agentNo 2 h 0
  | .operandLogAccess h _ e => agentNo 3 h e
  | .pageWalkComplete h w => agentNo 4 h w
  | .packetStart q => agentNo 5 q 0
  | .packetComplete q => agentNo 5 q 0
  | .launch q => agentNo 5 q 0
  | .batch q => agentNo 5 q 0
  | .waitsem q => agentNo 5 q 0
  | .waitsemPoll q => agentNo 5 q 0
  | .signal q => agentNo 5 q 0
  | .muster q => agentNo 5 q 0
  | .musterRetry q => agentNo 5 q 0
  | .copyq q => agentNo 5 q 0
  | .fenceq q => agentNo 5 q 0
  | .qmark q => agentNo 5 q 0
  | .taskDeal t => agentNo 6 t 0
  | .enqRequest t => agentNo 6 t 0
  | .mailboxDeliver x => agentNo 7 x 0
  | .nvmeCommandComplete q => agentNo 8 q 0
  | .ethFrameReceive p _ => agentNo 9 p 0
  | .ethFrameTransmit p q => agentNo 10 p q
  | .prcmdRestore c => agentNo 11 c 0
  | _ => 0
/-- The unit that a move acts for. -/
def Move.agent : Move → Nat
  | .timed _ e => e.agent
  | .event e => e.agent
  | .cpu c => agentNo 12 c 0
  | .deed _ (.shard h) => agentNo 13 h 0
  | .deed _ (.linkServe p) => agentNo 14 p 0
  | .deed _ _ => agentNo 15 0 0
  | _ => 0
/-- The state in which a move runs: an outside move, a deed or a timed move has left its list. -/
def Mach.taken (m : Mach) (v : Move) : Mach :=
  let m := { m with agent := v.agent }
  match v with
  | .outside t i => { m with agenda := dropFirst (fun e => e = (t, i)) m.agenda }
  | .deed t d => { m with deeds := dropFirst (fun e => e = (t, d)) m.deeds }
  | .timed t e => { m with timers := dropFirst (fun x => x = (t, e)) m.timers }
  | _ => m
/-- A move's outcome. -/
def run1 (s : State) (v : Move) : Host.Outcome State Fault Refusal :=
  let s' : State := { s with m := s.m.taken v }
  match v with
  | .outside _ i => if isOutside i then exec i s' else .next s'
  | .timed _ e => e.run s'
  | .event e => e.run s'
  | v => .next (moveOn s' v)

/-! ## A machine about to run one word (log 21) -/

/-- The program counter, and the address in main memory, at which that word stands. -/
def wordPc : Nat := 0x3000
/-- The address of that word in main memory. -/
def Mach.wordPa (m : Mach) : Nat := m.ownPkg * 2 ^ 40 + wordPc
/-- A warp of 32 ready lanes at that word, in the active set. -/
def wordWarp : Warp :=
  { block := 0, idx := 0, k := [(0, 0xFFFFFFFF)], active := true,
    lanes := (List.range 32).map (fun l => (l, ({ st := .ready, pc := word wordPc } : Lane))) }
/-- A block of one warp. -/
def wordBlock : Block :=
  { launch := 0, ctx := 0, peers := [(0, 0)], rank := 0, bx := 0, by' := 0, bz := 0, clusterId := 0, lanes := 32,
    carve := 0, pairs := [], spill := 0, bars := (List.range 16).map (fun b => (b, ({ exp := 32 } : Bar))), eligible := true }
/-- The launch of that block. -/
def wordLaunch : Launch :=
  { queue := 0, ctx := 0, tenant := 0, weight := 1, occ := 0, entry := wordPc, args := [], spillBase := 0, gx := 1, gy := 1, gz := 1,
    clb := 1, lanes := 32, carve := 0, spill := 0, lease := 16, decl := false, fpmode := 0, part := 0, placed := 1 }
/-- A context in slot 0. -/
def wordCtx : Ctx := { num := 0, tenant := 0, occ := 0, queue := 0, part := 0 }
/-- Hamlet 0 with that block, and with the translation of its page. -/
def Mach.wordHamlet (m : Mach) : Hamlet :=
  let e : TlbEntry := { asid := 0, vpn := wordPc / 4096, ppn := m.wordPa / 4096, pages := 0, glob := false, flags := 0xDF }
  { warps := [(0, wordWarp)], blocks := [(0, wordBlock)], ctxs := [(0, wordCtx)], tlb := [e], nextBlock := 1, placeCnt := 1 }
/-- The machine about to run one word as its very next step: everything that would come before it is taken away. -/
def Mach.ready1 (m : Mach) : Mach :=
  let m := ((m.setReg (hamReg 0 0x610) 0).setReg (hamReg 0 0x614) 0x90000000).setReg (wctlReg 0 0) 0
  let m := (m.setReg (stwReg 0x3000) 0x80000000).setReg (hbmReg (stackOf m.wordPa) 4) 0
  let etx (a : Nat) : Bool := match regPlace a with | .etx _ => true | _ => false
  { m with
    booted := true, cur := {}, wr := [], agenda := [], deeds := [], timers := [], issued := [], frozen := false, freezeEnd := none, throttle := false
    regs := m.regs.filter (fun e => !etx e.1), hams := [(0, m.wordHamlet)], slices := [], reqs := [], msgs := [], acks := [], resv := [],
    queues := [], cqueue := [], launches := [(0, wordLaunch)], cards := [], tasks := [], tokens := [], reservations := [], pre := none,
    cpus := [], refresh := [], hotQueue := [], ops := [], kicks := [], mails := [], funcs := [], remote := [], podLast := m.now, powLast := m.now
    govLast := (List.range 40).map (fun p => (p, m.now * cycleUnits)) }
/-- The packet of one word and the zero words after it, in main memory. -/
def Memory.putWord (mem : Memory) (pa : Nat) (w : Word) : Memory :=
  ((leBytes 12 w.toNat).zip (List.range 12)).foldl (fun a e => a.write (pa + e.2) e.1) mem

end Sys2Proof.Machine
end

