-- ==== Sys2Proof/Machine/Step.lean ====
section
/-! DEFINITION. One step of the machine: the next move, and its outcome. -/
namespace Sys2Proof.Machine

/-- One step: the next move of the machine (R49, spec/95). -/
def step (s : State) : Host.Outcome State Fault Refusal := run1 s (nextMove s)

/-- The machine with one instruction word where the very next step fetches and runs it: hamlet 0 holds one warp whose 32 lanes stand
at it. How a program comes to run from reset stands in log 21. -/
def State.withFetchWord (s : State) (nbits w : Nat) : State :=
  { m := s.m.ready1, mem := s.mem.putWord s.m.wordPa (if nbits ≤ 32 then BitVec.ofNat 32 w else 0) }

end Sys2Proof.Machine
end

