-- ==== Sys2Proof/Safety.lean ====
section
/-! DEFINITION. What counts as a safe run: the machine never stops, and its state stays well formed. The machine has no fault and no
refusal of its own: an access that the spec forbids is a trap, which is a next state (R176 to R185). -/
namespace Sys2Proof.Machine

/-- A well-formed state: Memory is in canonical form, and no byte waits in the buffer of a step. -/
def State.wf (s : State) : Bool := s.mem.wf && s.m.wr == []

/-- A state that the machine reaches from `s` in `n` steps. -/
def Reaches (s : State) (n : Nat) (t : State) : Prop := Sys2Proof.core.run n s = .next t

/-- A safe state: every run from it, of any length, goes on, through well-formed states only. -/
def State.Safe (s : State) : Prop := ∀ n, ∃ t, Reaches s n t ∧ t.wf = true

/-- An invariant of the machine: a predicate that every step keeps. -/
def KeptByStep (p : State → Prop) : Prop := ∀ s t, p s → step s = .next t → p t

end Sys2Proof.Machine
end

