-- ==== Sys2Proof/Certificates/Slice0/Obligations.lean ====
section
/-! DEFINITION. The statements for the provers: what the numbered rules of the spec say that an instruction or the machine does, as
propositions about `exec` and `step`. First the words they are said in. -/
namespace Sys2Proof.Claim
open Sys2Proof.Machine

/-- An outcome of the machine. -/
abbrev Out := Host.Outcome State Fault Refusal
/-- The state after a word that does nothing. -/
def still (s : State) : State := { s with m := s.m.clear }
/-- What follows when the machine goes on. -/
def Next (o : Out) (p : State → Prop) : Prop := ∃ t, o = .next t ∧ p t
/-- The state after a word that only adds one outstanding write to its warp (R66, R67): nothing else changes. -/
def adds (s : State) (p : Pend) : State :=
  { s with m := { s.m.addPend s.m.cur.ham s.m.cur.warp p with nextId := s.m.nextId + 1 }.clear }
/-- The cycle in which a result of this latency lands (R66), or at once in a group that was withheld until then (R326). -/
def landing (s : State) (lat : Nat) : Option Nat := some (s.m.now + if s.m.cur.atOnce then 0 else lat)
/-- The state after a word whose only effect is a fixed-latency result in v[d] of the lanes of a mask. -/
def vWrite (s : State) (lat d : Nat) (act : Word) (f : Nat → Word) : State :=
  adds s { id := s.m.nextId, file := .v, regs := [d], mask := act, vals := (lanesOf act).map (fun l => (32 * d + l, f l)),
           issue := s.m.now, land := landing s lat, var := false }
/-- The state after a word whose only effect is a fixed-latency result in the pair v[d]:v[d+1], low word in v[d]. -/
def vWrite2 (s : State) (lat d : Nat) (act : Word) (f : Nat → BitVec 64) : State :=
  adds s { id := s.m.nextId, file := .v, regs := [d, d + 1], mask := act,
           vals := (lanesOf act).flatMap (fun l => [(32 * d + l, (f l).extractLsb' 0 32), (32 * (d + 1) + l, (f l).extractLsb' 32 32)]),
           issue := s.m.now, land := landing s lat, var := false }
/-- The state after a word whose only effect is a fixed-latency result in s[d]. -/
def sWrite (s : State) (d : Nat) (x : Word) : State :=
  adds s { id := s.m.nextId, file := .s, regs := [d], mask := 0, vals := [(d, x)], issue := s.m.now, land := landing s 4, var := false }
/-- The state after a word whose only effect is a fixed-latency write of the bits of k[d] that a mask names. -/
def kWrite (s : State) (lat d : Nat) (mask x : Word) : State :=
  adds s { id := s.m.nextId, file := .k, regs := [d], mask, vals := [(d, x)], issue := s.m.now, land := landing s lat, var := false }
/-- The lane waits at no quad instruction, and its release makes it ready: no faulted access of the operand log and no late fault parks it,
and in handler mode it is a handler lane (R34, R181, R190, R356). -/
def goes (x : Warp) (l : Nat) : Prop := (x.lane l).quad = none ∧ x.released l = .ready
/-- Bits of a word as a number. -/
def field (x : Word) (lo n : Nat) : Nat := x.toNat / 2 ^ lo % 2 ^ n
/-- The word whose bit l is a lane's truth value. -/
def bitsOf (x : Word) (c : Nat → Prop) : Prop := ∀ l < 32, (x.getLsbD l = true ↔ c l)
/-- The outcome of a word that only takes a trap (R63, R179). -/
def traps (s : State) (group code : Nat) (d0 d1 d2 : Word) : Out := lift (fun _ m => m.trap group code d0 d1 d2) s
/-- The state with its Memory and buffer as a step that writes no byte leaves them, and another warp for the current one. -/
def withWarp (s : State) (f : Warp → Warp) : State := { s with m := (s.m.modWarp s.m.cur.ham s.m.cur.warp f).clear }

end Sys2Proof.Claim

open Sys2Proof Sys2Proof.Machine Sys2Proof.Claim

/-! ## The I pipe -/

/-- R345, R346, R295, R368, R376, R379, R380: the register forms of the I pipe give every active lane the value of their rule, land it 4
cycles after issue, and change nothing else. -/
def Obligations.IntegerRegisterWordsGiveTheirValue : Prop :=
  ∀ (s : State) (h : Hdr) (d a b : BitVec 6) (g : BitVec 3),
    let A (l : Nat) : Word := s.m.v a.toNat l
    let B (l : Nat) : Word := s.m.v b.toNat l
    let D (l : Nat) : Word := s.m.v d.toNat l
    let n (l : Nat) : Nat := (B l).toNat % 32
    let gives (i : Instr) (f : Nat → Word) : Prop := exec i s = .next (vWrite s 4 d.toNat (s.m.active g.toNat) f)
    gives (.iadd h d a b g) (fun l => BitVec.ofNat 32 ((A l).toNat + (B l).toNat)) ∧
    gives (.isub h d a b g) (fun l => BitVec.ofInt 32 ((A l).toInt - (B l).toInt)) ∧
    gives (.imul h d a b g) (fun l => BitVec.ofNat 32 ((A l).toNat * (B l).toNat)) ∧
    gives (.imulh h d a b g) (fun l => BitVec.ofInt 32 ((A l).toInt * (B l).toInt / 2 ^ 32)) ∧
    gives (.imulhu h d a b g) (fun l => BitVec.ofNat 32 ((A l).toNat * (B l).toNat / 2 ^ 32)) ∧
    gives (.imad h d a b g) (fun l => BitVec.ofNat 32 ((A l).toNat * (B l).toNat + (D l).toNat)) ∧
    gives (.imin h d a b g) (fun l => if (A l).toInt ≤ (B l).toInt then A l else B l) ∧
    gives (.imax h d a b g) (fun l => if (A l).toInt ≤ (B l).toInt then B l else A l) ∧
    gives (.iminu h d a b g) (fun l => BitVec.ofNat 32 (min (A l).toNat (B l).toNat)) ∧
    gives (.imaxu h d a b g) (fun l => BitVec.ofNat 32 (max (A l).toNat (B l).toNat)) ∧
    gives (.and h d a b g) (fun l => A l &&& B l) ∧
    gives (.andn h d a b g) (fun l => A l &&& ~~~B l) ∧
    gives (.or h d a b g) (fun l => A l ||| B l) ∧
    gives (.xor h d a b g) (fun l => A l ^^^ B l) ∧
    gives (.shl h d a b g) (fun l => BitVec.ofNat 32 ((A l).toNat * 2 ^ n l)) ∧
    gives (.shr h d a b g) (fun l => BitVec.ofNat 32 ((A l).toNat / 2 ^ n l)) ∧
    gives (.sar h d a b g) (fun l => BitVec.ofInt 32 ((A l).toInt / 2 ^ n l)) ∧
    gives (.rot h d a b g) (fun l => if n l = 0 then A l else (A l <<< n l) ||| (A l >>> (32 - n l))) ∧
    gives (.shfl h d a b g) (fun l => s.m.v a.toNat (n l)) ∧
    exec (.sel h d a b g) s = .next (vWrite s 4 d.toNat (s.m.active 0) (fun l => if (s.m.k g.toNat).getLsbD l then A l else B l)) ∧
    exec (.iadd64 h d a b g) s = .next (vWrite2 s 4 d.toNat (s.m.active g.toNat) (fun l =>
      BitVec.ofNat 64 ((A l).toNat + 2 ^ 32 * (s.m.v (a.toNat + 1) l).toNat + (B l).toNat + 2 ^ 32 * (s.m.v (b.toNat + 1) l).toNat)))

/-- R313, R305, R306, R127: byte permutation, bit fields and packed dot products, bit by bit and as integers. -/
def Sys2Proof.Claim.fieldAndDotProductWords : Prop :=
  ∀ (s : State) (h : Hdr) (d a b : BitVec 6) (g : BitVec 3),
    let gives (i : Instr) (f : Word → Word → Word → Word) : Prop :=
      exec i s = .next (vWrite s 4 d.toNat (s.m.active g.toNat) (fun l => f (s.m.v a.toNat l) (s.m.v b.toNat l) (s.m.v d.toNat l)))
    (∃ f, gives (.bytp h d a b g) f ∧ ∀ x y z, ∀ j < 4, ∀ k < 8,
      (f x y z).getLsbD (8 * j + k) = (!y.getLsbD (8 * j + 7) && x.getLsbD (8 * field y (8 * j) 2 + k))) ∧
    gives (.bfe h d a b g) (fun x y _ =>
      let w := min (field y 8 6) 32
      let f := x.toNat / 2 ^ field y 0 5 % 2 ^ w
      if y.getLsbD 15 ∧ 0 < w ∧ 2 ^ (w - 1) ≤ f then BitVec.ofInt 32 ((f : Int) - 2 ^ w) else BitVec.ofNat 32 f) ∧
    (∃ f, gives (.bfi h d a b g) f ∧ ∀ x y z, ∀ i < 32,
      let p := field y 0 5
      let w := min (field y 8 6) 32
      (f x y z).getLsbD i = if p ≤ i ∧ i < p + w then x.getLsbD (i - p) else z.getLsbD i) ∧
    gives (.idot4 h d a b g) (fun x y z => BitVec.ofInt 32 (z.toInt +
      ((List.range 4).map (fun j => (x.extractLsb' (8 * j) 8).toInt * (y.extractLsb' (8 * j) 8).toInt)).sum)) ∧
    gives (.idot4u h d a b g) (fun x y z => BitVec.ofNat 32 (z.toNat +
      ((List.range 4).map (fun j => (x.extractLsb' (8 * j) 8).toNat * (y.extractLsb' (8 * j) 8).toNat)).sum)) ∧
    gives (.idot8 h d a b g) (fun x y z => BitVec.ofInt 32 (z.toInt +
      ((List.range 8).map (fun j => (x.extractLsb' (4 * j) 4).toInt * (y.extractLsb' (4 * j) 4).toInt)).sum))

/-- R351: IDIV and IREM are not implemented; every such word traps in group 0x01, code 0x03, whatever its guard, with the word in TRAPD0. -/
def Sys2Proof.Claim.divideWordsTrapUnimplemented : Prop :=
  ∀ (s : State) (h : Hdr) (d a b : BitVec 6) (g : BitVec 3),
    exec (.idiv h d a b g) s = traps s 1 3 s.m.cur.word 0 0 ∧ exec (.irem h d a b g) s = traps s 1 3 s.m.cur.word 0 0

/-- R127, R305, R306, R313, R351: bit fields, dot products, and the divide words. -/
def Obligations.FieldDotProductAndDivideWords : Prop := fieldAndDotProductWords ∧ divideWordsTrapUnimplemented

/-- R297, R347, R348, R365, R366, R368, R376: immediate and move words act in every bundle lane set in k0, and land after 4 cycles. -/
def Obligations.ImmediateAndMoveWordsGiveTheirValue : Prop :=
  ∀ (s : State) (h : Hdr) (d a : BitVec 6) (i : BitVec 9) (n : BitVec 5) (x : BitVec 16) (dl : BitVec 5) (r : BitVec 8),
    let A (l : Nat) : Word := s.m.v a.toNat l
    let gives (w : Instr) (d : Nat) (f : Nat → Word) : Prop := exec w s = .next (vWrite s 4 d (s.m.cur.bundle &&& s.m.k 0) f)
    gives (.iaddi h d a i) d.toNat (fun l => BitVec.ofInt 32 ((A l).toInt + i.toInt)) ∧
    gives (.imuli h d a i) d.toNat (fun l => BitVec.ofInt 32 ((A l).toInt * i.toInt)) ∧
    gives (.andi h d a i) d.toNat (fun l => A l &&& BitVec.ofInt 32 i.toInt) ∧
    gives (.ori h d a i) d.toNat (fun l => A l ||| BitVec.ofInt 32 i.toInt) ∧
    gives (.xori h d a i) d.toNat (fun l => A l ^^^ BitVec.ofInt 32 i.toInt) ∧
    gives (.shli h d a n) d.toNat (fun l => BitVec.ofNat 32 ((A l).toNat * 2 ^ n.toNat)) ∧
    gives (.shri h d a n) d.toNat (fun l => BitVec.ofNat 32 ((A l).toNat / 2 ^ n.toNat)) ∧
    gives (.sari h d a n) d.toNat (fun l => BitVec.ofInt 32 ((A l).toInt / 2 ^ n.toNat)) ∧
    gives (.movl h dl x) dl.toNat (fun _ => BitVec.ofNat 32 x.toNat) ∧
    gives (.movh h dl x) dl.toNat (fun l => BitVec.ofNat 32 (x.toNat * 2 ^ 16 + (s.m.v dl.toNat l).toNat % 2 ^ 16)) ∧
    gives (.movs h d r) d.toNat (fun _ => s.m.s r.toNat) ∧
    gives (.iadds h d a r) d.toNat (fun l => BitVec.ofNat 32 ((A l).toNat + (s.m.s r.toNat).toNat)) ∧
    gives (.imads h d a r) d.toNat (fun l =>
      BitVec.ofNat 32 ((A l).toNat * (s.m.s r.toNat).toNat + (s.m.v d.toNat l).toNat)) ∧
    exec (.vtos h d a r) s = .next (sWrite s r.toNat (s.m.v a.toNat d.toNat)) ∧
    exec (.smovl h dl x) s = .next (sWrite s dl.toNat (BitVec.ofNat 32 x.toNat)) ∧
    exec (.smovh h dl x) s = .next (sWrite s dl.toNat (BitVec.ofNat 32 (x.toNat * 2 ^ 16 + (s.m.s dl.toNat).toNat % 2 ^ 16)))

/-- R377, R378: the scalar words act once per issue on s[D], read s[D] and s[A] at issue, and land after 4 cycles. -/
def Obligations.ScalarWordsGiveTheirValue : Prop :=
  ∀ (s : State) (h : Hdr) (d a : BitVec 8) (i : BitVec 13),
    let D : Word := s.m.s d.toNat
    let A : Word := s.m.s a.toNat
    let n : Nat := A.toNat % 32
    let gives (w : Instr) (x : Word) : Prop := exec w s = .next (sWrite s d.toNat x)
    gives (.sadd h d a) (BitVec.ofNat 32 (D.toNat + A.toNat)) ∧
    gives (.ssub h d a) (BitVec.ofInt 32 (D.toInt - A.toInt)) ∧
    gives (.smul h d a) (BitVec.ofNat 32 (D.toNat * A.toNat)) ∧
    gives (.sand h d a) (D &&& A) ∧ gives (.sor h d a) (D ||| A) ∧ gives (.sxor h d a) (D ^^^ A) ∧
    gives (.sshl h d a) (BitVec.ofNat 32 (D.toNat * 2 ^ n)) ∧
    gives (.sshr h d a) (BitVec.ofNat 32 (D.toNat / 2 ^ n)) ∧
    gives (.ssar h d a) (BitVec.ofInt 32 (D.toInt / 2 ^ n)) ∧
    gives (.smin h d a) (if D.toInt ≤ A.toInt then D else A) ∧
    gives (.smax h d a) (if D.toInt ≤ A.toInt then A else D) ∧
    gives (.sminu h d a) (BitVec.ofNat 32 (min D.toNat A.toNat)) ∧
    gives (.smaxu h d a) (BitVec.ofNat 32 (max D.toNat A.toNat)) ∧
    gives (.smov h d a) A ∧ gives (.snot h d a) (~~~A) ∧ gives (.sneg h d a) (BitVec.ofInt 32 (-A.toInt)) ∧
    gives (.seq h d a) (if D = A then 1 else 0) ∧
    gives (.slt h d a) (if D.toInt < A.toInt then 1 else 0) ∧
    gives (.sltu h d a) (if D.toNat < A.toNat then 1 else 0) ∧
    gives (.saddi h d i) (BitVec.ofInt 32 (D.toInt + i.toInt))

/-- R315: the IUN functions. -/
def Obligations.UnaryIntegerWordsGiveTheirValue : Prop :=
  ∀ (s : State) (h : Hdr) (d a : BitVec 6) (g : BitVec 2),
    let A (l : Nat) : Word := s.m.v a.toNat l
    let gives (w : Instr) (f : Nat → Word) : Prop := exec w s = .next (vWrite s 4 d.toNat (s.m.active g.toNat) f)
    gives (.popc h d a g) (fun l => BitVec.ofNat 32 ((List.range 32).filter (fun i => (A l).getLsbD i)).length) ∧
    gives (.clz h d a g) (fun l => BitVec.ofNat 32 ((List.range 32).takeWhile (fun i => !(A l).getLsbD (31 - i))).length) ∧
    (∃ f : Word → Word, gives (.brev h d a g) (fun l => f (A l)) ∧ ∀ x, ∀ i < 32, (f x).getLsbD i = x.getLsbD (31 - i)) ∧
    gives (.not h d a g) (fun l => ~~~A l) ∧
    gives (.ineg h d a g) (fun l => BitVec.ofInt 32 (-(A l).toInt)) ∧
    gives (.iabs h d a g) (fun l => BitVec.ofNat 32 (A l).toInt.natAbs) ∧
    gives (.lid h d g) (fun l => BitVec.ofNat 32 l)

/-! ## Masks and combinations across lanes -/

/-- R349, R393, R361: ICMP, VOTE and MATCH write the bits of their active lanes in kK, ANDed with the old bit under `.AND`; no other bit
is written. -/
def Sys2Proof.Claim.maskProducersWriteTheirLanes : Prop :=
  ∀ (s : State) (h : Hdr) (k f : BitVec 4) (a b : BitVec 6) (n : BitVec 1),
    let A (l : Nat) : Word := s.m.v a.toNat l
    let B (l : Nat) : Word := s.m.v b.toNat l
    let act := s.m.cur.bundle &&& s.m.k 0
    let gives (w : Instr) (c : Nat → Prop) : Prop :=
      ∃ x, exec w s = .next (kWrite s 4 k.toNat act x) ∧ bitsOf x c
    let old (l : Nat) : Prop := n = 0 ∨ (s.m.k k.toNat).getLsbD l = true
    (f.toNat ≤ 9 → gives (.icmp h k f a b n) (fun l => old l ∧
      (match f.toNat with
        | 0 => A l = B l | 1 => A l ≠ B l | 2 => (A l).toInt < (B l).toInt | 3 => (A l).toInt ≤ (B l).toInt
        | 4 => (A l).toInt > (B l).toInt | 5 => (A l).toInt ≥ (B l).toInt | 6 => (A l).toNat < (B l).toNat
        | 7 => (A l).toNat ≤ (B l).toNat | 8 => (A l).toNat > (B l).toNat | _ => (A l).toNat ≥ (B l).toNat))) ∧
    gives (.voteNz h k a n) (fun l => old l ∧ A l ≠ 0) ∧
    gives (.voteZ h k a n) (fun l => old l ∧ A l = 0) ∧
    (∀ e, lowestLane ((s.m.cur.all ||| s.m.cur.bundle) &&& s.m.k 0) = some e → gives (.matchK h k a) (fun l => A l = A e)) ∧
    (lowestLane ((s.m.cur.all ||| s.m.cur.bundle) &&& s.m.k 0) = none →
      ∃ x, exec (.matchK h k a) s = .next (kWrite s 4 k.toNat 0 x))

/-- R353, R354, R388, R329: mask words act once per issue on the whole mask; ELECT writes the bits of its bundle and sets that of the
lowest active lane alone. -/
def Sys2Proof.Claim.maskWordsGiveTheirValue : Prop :=
  ∀ (s : State) (h : Hdr) (k : BitVec 4) (a b : BitVec 6) (d r : BitVec 8) (g : BitVec 3),
    let A : Word := s.m.k a.toNat
    let B : Word := s.m.k b.toNat
    let gives (w : Instr) (x : Word) : Prop := exec w s = .next (kWrite s 4 k.toNat 0xFFFFFFFF x)
    gives (.kand h k a b) (A &&& B) ∧ gives (.kor h k a b) (A ||| B) ∧ gives (.kxor h k a b) (A ^^^ B) ∧
    gives (.kandn h k a b) (A &&& ~~~B) ∧ gives (.knot h k a) (~~~A) ∧ gives (.kmov h k a) A ∧
    exec (.ktos h d r) s = .next (sWrite s d.toNat (s.m.k r.toNat)) ∧
    exec (.kpop h d r) s = .next (sWrite s d.toNat (BitVec.ofNat 32 ((List.range 32).filter (fun i => (s.m.k r.toNat).getLsbD i)).length)) ∧
    exec (.stok h d r) s = .next (kWrite s 4 d.toNat 0xFFFFFFFF (s.m.s r.toNat)) ∧
    (∃ x, exec (.elect h k g) s = .next (kWrite s 4 k.toNat s.m.cur.bundle x) ∧
      bitsOf x (fun l => lowestLane (s.m.activeAll g.toNat) = some l))

/-- R329, R349, R353, R354, R361, R388, R393: the words that write mask registers, lane by lane and once per issue. -/
def Obligations.MaskWordsWriteTheirBits : Prop := maskProducersWriteTheirLanes ∧ maskWordsGiveTheirValue

/-- R374: REDW gives every active lane the combination of all active lanes, SCANW that of the active lanes below and up to its own
(`.EXCL`: below only), taken in ascending lane order from the function's identity; the floating functions round at each step and raise no flag. -/
def Obligations.WarpCombinationsAreAscendingFolds : Prop :=
  ∀ (s : State) (h : Hdr) (d a : BitVec 6) (f : BitVec 6) (g : BitVec 2),
    let act := s.m.active g.toNat
    let all := lanesOf (s.m.activeAll g.toNat)
    let A (l : Nat) : Word := s.m.v a.toNat l
    let op (n : Nat) : Option (Word × (Word → Word → Word)) := match n with
      | 0 => some (0, fun x y => x + y)
      | 1 => some (0x7FFFFFFF, fun x y => if y.toInt < x.toInt then y else x)
      | 2 => some (0x80000000, fun x y => if x.toInt < y.toInt then y else x)
      | 3 => some (0xFFFFFFFF, fun x y => if y.toNat < x.toNat then y else x)
      | 4 => some (0, fun x y => if x.toNat < y.toNat then y else x)
      | 5 => some (0xFFFFFFFF, fun x y => x &&& y)
      | 6 => some (0, fun x y => x ||| y)
      | 7 => some (0, fun x y => x ^^^ y)
      | 8 => some (0x80000000, fun x y => BitVec.ofNat 32 (F32.add (rndOf (field s.m.cur.fpmode 0 3)) x.toNat y.toNat).1)
      | 9 => some (0x7F800000, fun x y => BitVec.ofNat 32 (F32.minmax false x.toNat y.toNat).1)
      | 10 => some (0xFF800000, fun x y => BitVec.ofNat 32 (F32.minmax true x.toNat y.toNat).1)
      | _ => none
    (∀ e c, op f.toNat = some (e, c) →
      exec (.redw h d a f g) s = .next (vWrite s 4 d.toNat act (fun _ => (all.map A).foldl c e))) ∧
    (∀ e c, op (f.toNat % 16) = some (e, c) → f.toNat < 32 →
      exec (.scanw h d a f g) s = .next (vWrite s 4 d.toNat act (fun l =>
        ((all.filter (fun j => if f.toNat < 16 then j ≤ l else j < l)).map A).foldl c e)))

/-! ## The F pipe -/

/-- The outcome of a floating word (R124, R125): `fl` gives the flags that each lane raises, `w` is the state with the results written.
With Q = 1 only the results are written. Otherwise, if no active lane raises an enabled flag, the flags also OR into FX at the results'
cycle; else the bundle traps in the arithmetic group, nothing is written, and the code is the lowest among the flags raised and enabled. -/
def Sys2Proof.Claim.flagsOut (s : State) (q : BitVec 1) (lat : Nat) (act : Word) (fl : Nat → Nat) (w : State) : Out :=
  let te := field s.m.cur.fpmode 8 5
  let raised := (lanesOf act).foldl (fun a l => a ||| fl l) 0
  let on := raised &&& te
  let fx : Pend :=
    { id := w.m.nextId, file := .fxOr, regs := [0], mask := act, vals := (lanesOf act).map (fun l => (l, BitVec.ofNat 32 (fl l))),
      issue := s.m.now, land := landing s lat, var := false }
  if q = 1 then .next w
  else if on = 0 then .next (adds w fx)
  else
    let code := if on.testBit 4 then 1 else if on.testBit 3 then 2 else if on.testBit 2 then 3 else if on.testBit 1 then 4 else 5
    traps s 2 code s.m.cur.word (maskOf (fun l => act.getLsbD l && fl l &&& te ≠ 0)) (BitVec.ofNat 32 (on + 256 * raised))

/-- R124, R125, R327, R333, R334, R307, R128: the arithmetic words of the F pipe give each active lane the once-rounded result under
FPMODE.RM and the flags of that rounding; FMIN and FMAX select an operand. -/
def Sys2Proof.Claim.floatingArithmeticWords : Prop :=
  ∀ (s : State) (h : Hdr) (d a b : BitVec 6) (q : BitVec 1) (g : BitVec 2),
    let act := s.m.active g.toNat
    let rm := rndOf (field s.m.cur.fpmode 0 3)
    let A (l : Nat) : Nat := (s.m.v a.toNat l).toNat
    let B (l : Nat) : Nat := (s.m.v b.toNat l).toNat
    let D (l : Nat) : Nat := (s.m.v d.toNat l).toNat
    let P (r : BitVec 6) (l : Nat) : Nat := (s.m.v r.toNat l).toNat + 2 ^ 32 * (s.m.v (r.toNat + 1) l).toNat
    let els (w : Nat) (l : Nat) : List (Nat × Nat) :=
      (List.range (32 / w)).map (fun j => (A l / 2 ^ (w * j) % 2 ^ w, B l / 2 ^ (w * j) % 2 ^ w))
    let half (F : Fmt) (l : Nat) : Nat × Nat :=
      let lo := F.fma rm (A l % 2 ^ 16) (B l % 2 ^ 16) (D l % 2 ^ 16)
      let hi := F.fma rm (A l / 2 ^ 16) (B l / 2 ^ 16) (D l / 2 ^ 16)
      (hi.1 * 2 ^ 16 + lo.1, hi.2 ||| lo.2)
    let single (i : Instr) (f : Nat → Nat × Nat) : Prop :=
      exec i s = flagsOut s q 6 act (fun l => (f l).2) (vWrite s 6 d.toNat act (fun l => BitVec.ofNat 32 (f l).1))
    let double (i : Instr) (f : Nat → Nat × Nat) : Prop :=
      exec i s = flagsOut s q 12 act (fun l => (f l).2) (vWrite2 s 12 d.toNat act (fun l => BitVec.ofNat 64 (f l).1))
    single (.fadd h d a b q g) (fun l => F32.add rm (A l) (B l)) ∧
    single (.fsub h d a b q g) (fun l => F32.sub rm (A l) (B l)) ∧
    single (.fmul h d a b q g) (fun l => F32.mul rm (A l) (B l)) ∧
    single (.ffma h d a b q g) (fun l => F32.fma rm (A l) (B l) (D l)) ∧
    single (.fmin h d a b q g) (fun l => F32.minmax false (A l) (B l)) ∧
    single (.fmax h d a b q g) (fun l => F32.minmax true (A l) (B l)) ∧
    single (.hfma2 h d a b q g) (half F16) ∧ single (.bfma2 h d a b q g) (half BF16) ∧
    single (.fdot4 h d a b q g) (fun l =>
      F32.dot (if s.m.cur.fpmode.getLsbD 16 then E5M2 else E4M3) rm (D l) (els 8 l)) ∧
    single (.fdot8 h d a b q g) (fun l => F32.dot E2M1 rm (D l) (els 4 l)) ∧
    double (.dadd h d a b q g) (fun l => F64.add rm (P a l) (P b l)) ∧
    double (.dmul h d a b q g) (fun l => F64.mul rm (P a l) (P b l)) ∧
    double (.dfma h d a b q g) (fun l => F64.fma rm (P a l) (P b l) (P d l))

/-- R270, R339, R340: the FUN words; FFLOOR, FCEIL and FTRUNC round as named whatever FPMODE holds, and the FP64 forms take pairs. -/
def Obligations.FloatingFunctionWords : Prop :=
  ∀ (s : State) (h : Hdr) (d a : BitVec 6) (q : BitVec 1) (g : BitVec 2),
    let act := s.m.active g.toNat
    let rm := rndOf (field s.m.cur.fpmode 0 3)
    let A (l : Nat) : Nat := (s.m.v a.toNat l).toNat
    let P (l : Nat) : Nat := (s.m.v a.toNat l).toNat + 2 ^ 32 * (s.m.v (a.toNat + 1) l).toNat
    let single (i : Instr) (f : Nat → Nat × Nat) : Prop :=
      exec i s = flagsOut s q 14 act (fun l => (f (A l)).2) (vWrite s 14 d.toNat act (fun l => BitVec.ofNat 32 (f (A l)).1))
    let double (i : Instr) (f : Nat → Nat × Nat) : Prop :=
      exec i s = flagsOut s q 14 act (fun l => (f (P l)).2) (vWrite2 s 14 d.toNat act (fun l => BitVec.ofNat 64 (f (P l)).1))
    single (.fneg h d a q g) (F32.negAbs false) ∧ single (.fabs h d a q g) (F32.negAbs true) ∧
    single (.frcp h d a q g) (F32.rcp rm) ∧ single (.fsqrt h d a q g) (F32.sqrt rm) ∧
    single (.frsq h d a q g) frsqFn ∧ single (.fexp2 h d a q g) fexp2Fn ∧ single (.flog2 h d a q g) flog2Fn ∧
    single (.fsin h d a q g) fsinFn ∧ single (.fcos h d a q g) fcosFn ∧ single (.ftanh h d a q g) ftanhFn ∧
    single (.ffloor h d a q g) (F32.integral .rdn) ∧ single (.fceil h d a q g) (F32.integral .rup) ∧
    single (.ftrunc h d a q g) (F32.integral .rtz) ∧ single (.frnd h d a q g) (F32.integral rm) ∧
    double (.drcp h d a q g) (F64.rcp rm) ∧ double (.dsqrt h d a q g) (F64.sqrt rm) ∧
    double (.dneg h d a q g) (F64.negAbs false) ∧ double (.dabs h d a q g) (F64.negAbs true)

/-- R323, R324, R256: CVT converts under FPMODE.RM, or under the mode in the word for the four pairs that carry one; the forms with an
FP64 source or destination take a register pair. -/
def Sys2Proof.Claim.conversionWords : Prop :=
  ∀ (s : State) (h : Hdr) (d a : BitVec 6) (f : BitVec 5) (p : BitVec 2) (m : BitVec 3) (q : BitVec 1) (g : BitVec 2),
    let act := s.m.active g.toNat
    let src (n : Nat) (l : Nat) : Nat :=
      (s.m.v a.toNat l).toNat + if n = 0x00 ∨ n = 0x10 ∨ n = 0x11 then 2 ^ 32 * (s.m.v (a.toNat + 1) l).toNat else 0
    let out (n : Nat) (rm : Rnd) : Out :=
      let r (l : Nat) := cvtFn n rm (src n l)
      flagsOut s q 6 act (fun l => (r l).2)
        (if n = 0x01 ∨ n = 0x12 ∨ n = 0x13 then vWrite2 s 6 d.toNat act (fun l => BitVec.ofNat 64 (r l).1)
         else vWrite s 6 d.toNat act (fun l => BitVec.ofNat 32 (r l).1))
    exec (.cvt h d a f q g) s = out f.toNat (rndOf (field s.m.cur.fpmode 0 3)) ∧
    exec (.cvtMode h d a p m q g) s = out ([0x02, 0x04, 0x0C, 0x00].getD p.toNat 0) (rndOf m.toNat)

/-- R328, R341, R342: FCMP and DCMP write the bits of their active lanes in kK and always update FX; FXRD reads FX of each lane, FXCLR
and FXSET clear and set the named flags 6 cycles later. -/
def Sys2Proof.Claim.compareAndFlagWords : Prop :=
  ∀ (s : State) (h : Hdr) (k f : BitVec 4) (d a b : BitVec 6) (n : BitVec 1) (g : BitVec 2),
    let A (l : Nat) : Word := s.m.v a.toNat l
    let P (r : BitVec 6) (l : Nat) : Nat := (s.m.v r.toNat l).toNat + 2 ^ 32 * (s.m.v (r.toNat + 1) l).toNat
    let all := s.m.cur.bundle &&& s.m.k 0
    let act := s.m.active g.toNat
    let cmp (i : Instr) (lat : Nat) (r : Nat → Bool × Nat) : Prop :=
      ∃ x, exec i s = flagsOut s 0 lat all (fun l => (r l).2) (kWrite s lat k.toNat all x) ∧
        bitsOf x (fun l => (r l).1 = true ∧ (n = 0 ∨ (s.m.k k.toNat).getLsbD l = true))
    let fx (file : RFile) : State :=
      adds s { id := s.m.nextId, file, regs := [0], mask := act, vals := (lanesOf act).map (fun l => (l, A l &&& 0x1F)),
               issue := s.m.now, land := landing s 6, var := false }
    cmp (.fcmp h k f a b n) 6 (fun l => F32.cond f.toNat (A l).toNat (s.m.v b.toNat l).toNat) ∧
    cmp (.dcmp h k f a b n) 12 (fun l => F64.cond f.toNat (P a l) (P b l)) ∧
    exec (.fxrd h d g) s = .next (vWrite s 6 d.toNat act (fun l => s.m.fxv l)) ∧
    exec (.fxset h a g) s = .next (fx .fxOr) ∧ exec (.fxclr h a g) s = .next (fx .fxAndn)

/-- R256, R323, R324, R328, R341, R342: conversions, floating compares, and the words that read and write FX. -/
def Obligations.ConversionCompareAndFlagWords : Prop := conversionWords ∧ compareAndFlagWords

/-- R120: what each rounding mode does to a magnitude that lies between two multiples of the unit: the result is one of the two
neighbours, the nearest for RNE and RNA with their ties, the one towards zero, towards +∞ or towards −∞ for the others; a multiple of the
unit stays. -/
def Sys2Proof.Claim.roundingModesChooseTheirNeighbour : Prop :=
  ∀ (mode : Rnd) (neg : Bool) (m : Nat) (e q : Int), e ≤ q →
    let d := 2 ^ (q - e).toNat
    let r := roundAt mode neg m e q
    (r.2 = true ↔ ¬ d ∣ m) ∧ (d ∣ m → r.1 * d = m) ∧
    (¬ d ∣ m → r.1 = m / d ∨ r.1 = m / d + 1) ∧
    (¬ d ∣ m → match mode with
      | .rtz => r.1 * d < m
      | .rup => if neg then r.1 * d < m else m < r.1 * d
      | .rdn => if neg then m < r.1 * d else r.1 * d < m
      | .rne => 2 * (r.1 * d) ≤ 2 * m + d ∧ 2 * m ≤ 2 * (r.1 * d) + d ∧ (2 * (m % d) = d → r.1 % 2 = 0)
      | .rna => 2 * (r.1 * d) ≤ 2 * m + d ∧ 2 * m ≤ 2 * (r.1 * d) + d ∧ (2 * (m % d) = d → m < r.1 * d))

/-- R117, R122, R123: every encoding that is no NaN keeps its value through decoding and rounding to its own format, in every mode and with
no flag: zeros, subnormals, normals and infinities of FP64, FP32, FP16, BF16, E4M3, E5M2 and E2M1. -/
def Sys2Proof.Claim.roundingKeepsRepresentableValues : Prop :=
  ∀ F ∈ [F64, F32, F16, BF16, E4M3, E5M2, E2M1], ∀ (mode : Rnd) (x : Nat),
    x < 2 ^ F.width → (F.dec x).isNan = false → F.enc mode (F.dec x) = (x, 0)

/-- R117, R120, R122, R123: the rounding modes, and values that need no rounding. -/
def Obligations.RoundingIsThatOfItsMode : Prop := roundingModesChooseTheirNeighbour ∧ roundingKeepsRepresentableValues

/-- R122, R124, R333: a NaN operand of FADD, FSUB, FMUL or FFMA gives the canonical NaN, and raises IV exactly when an operand is a
signalling NaN (or, for FFMA, the product is 0 × ∞). -/
def Sys2Proof.Claim.nanOperandsGiveTheCanonicalNan : Prop :=
  ∀ F ∈ [F64, F32, F16, BF16], ∀ (mode : Rnd) (a b c : Nat),
    let x := F.dec a
    let y := F.dec b
    let z := F.dec c
    let iv (p : Bool) : Nat := if p then 16 else 0
    (x.isNan = true ∨ y.isNan = true →
      F.add mode a b = (F.nanEnc, iv (x.isSig || y.isSig)) ∧ F.sub mode a b = (F.nanEnc, iv (x.isSig || y.isSig)) ∧
      F.mul mode a b = (F.nanEnc, iv (x.isSig || y.isSig))) ∧
    (x.isNan = true ∨ y.isNan = true ∨ z.isNan = true →
      F.fma mode a b c = (F.nanEnc, iv (x.isSig || y.isSig || z.isSig || (x.mul y).2)))

/-- R122, R124, R125, R128, R307, R327, R333, R334: the floating arithmetic words, and what a NaN gives. -/
def Obligations.FloatingArithmeticWordsGiveTheirResultAndFlags : Prop := floatingArithmeticWords ∧ nanOperandsGiveTheCanonicalNan

/-! ## Landing of results (R66) -/

/-- R36, R66, R295: a vector result lands in the named register of its active lanes, and in no other register and no other lane; no scalar,
mask or flag changes. -/
def Sys2Proof.Claim.vectorResultsLandInTheirActiveLanesOnly : Prop :=
  ∀ (x : Warp) (d : Nat) (act : Word) (f : Nat → Word) (p : Pend),
    p.file = .v → p.vals = (lanesOf act).map (fun l => (32 * d + l, f l)) →
    (∀ r, ∀ l < 32, (x.land p).vr r l = if r = d ∧ act.getLsbD l = true then f l else x.vr r l) ∧
    (x.land p).s = x.s ∧ (x.land p).k = x.k ∧ (x.land p).fx = x.fx ∧ (x.land p).lanes = x.lanes ∧ (x.land p).pends = x.pends

/-- R66: a fixed-latency result lands in exactly its cycle: before it nothing has landed, from it on the result stands and the write is no
longer outstanding. -/
def Sys2Proof.Claim.fixedResultsLandAtTheirCycle : Prop :=
  ∀ (x : Warp) (p : Pend) (t now : Nat), x.pends = [p] → p.land = some t → p.early = [] → p.var = false →
    (now < t → x.landDue now = x) ∧ (t ≤ now → x.landDue now = { x.land p with pends := [] })

/-- R66: the write of a bit of a mask register changes the bits that the write names and no other bit, and a scalar write changes its
register alone. -/
def Sys2Proof.Claim.maskAndScalarResultsLandAlone : Prop :=
  ∀ (x : Warp) (d : Nat) (mask v : Word) (p : Pend), p.regs = [d] → p.mask = mask → p.vals = [(d, v)] →
    (p.file = .k → ∀ r, ∀ l < 32, ((x.land p).kr r).getLsbD l =
      if r = d ∧ mask.getLsbD l = true then v.getLsbD l else (x.kr r).getLsbD l) ∧
    (p.file = .s → ∀ r, (x.land p).sr r = if r = d then v else x.sr r)

/-- R36, R66, R295: results land in the named register of their lanes, in exactly their cycle, and nowhere else. -/
def Obligations.ResultsLandInTheirRegistersAtTheirCycle : Prop := vectorResultsLandInTheirActiveLanesOnly ∧ fixedResultsLandAtTheirCycle ∧ maskAndScalarResultsLandAlone

/-! ## Traps (R63, R177 to R185) -/

/-- R180: a trap of a group that HAM.TRAPDISPc sends to the handler, with TVEC nonzero and outside handler mode: the trap registers take
the cause, the details, the program counter and the mask; k0 is saved and becomes the trapping lanes; the other ready lanes are parked; the
trapping lanes are ready at TVEC 8 cycles later; nothing is reported to the fault queue. -/
def Sys2Proof.Claim.trapsToTheHandlerSaveAndEnter : Prop :=
  ∀ (m : Mach) (h w at' group code : Nat) (d0 d1 d2 pc mask : Word),
    let x := m.warp h w
    let y := (m.takeTrapAt h w at' group code d0 d1 d2 pc mask false).warp h w
    x.hmode = false → x.tvec ≠ 0 → (m.reg (hamReg h (0x600 + 4 * m.warpCtx h w))).getLsbD group = true →
    group < 32 → code < 256 →
    y.trapcause = BitVec.ofNat 32 (group + 256 * code) ∧ y.trapd0 = d0 ∧ y.trapd1 = d1 ∧ y.trapd2 = d2 ∧
    y.trappc = pc ∧ y.trapmask = mask ∧ y.hmode = true ∧ y.saved = x.kr 0 ∧ y.kr 0 = mask ∧ y.tvec = x.tvec ∧
    (∀ l < 32, mask.getLsbD l = true → (y.lane l).st = .ready ∧ (y.lane l).pc = x.tvec ∧ (y.lane l).after = m.now + 8) ∧
    (∀ l < 32, mask.getLsbD l = false → (x.lane l).st = .ready → (y.lane l).st = .parked .nonTrap ∧ (y.lane l).pc = (x.lane l).pc) ∧
    (∀ l < 32, mask.getLsbD l = false → (x.lane l).st ≠ .ready → y.lane l = x.lane l) ∧
    y.v = x.v ∧ y.s = x.s ∧ y.fx = x.fx ∧
    (m.takeTrapAt h w at' group code d0 d1 d2 pc mask false).wr = m.wr

/-- R185: a trap to the Reeve, outside handler mode: the trap registers take the cause; the trapping lanes are parked at the trapping word,
the other ready lanes where they stand; handler mode is not entered and k0 stays. -/
def Sys2Proof.Claim.trapsToTheReeveParkTheWarp : Prop :=
  ∀ (m : Mach) (h w at' group code : Nat) (d0 d1 d2 pc mask : Word) (hard : Bool),
    let x := m.warp h w
    let y := (m.takeTrapAt h w at' group code d0 d1 d2 pc mask hard).warp h w
    x.hmode = false →
    (x.tvec = 0 ∨ hard = true ∨ (m.reg (hamReg h (0x600 + 4 * m.warpCtx h w))).getLsbD group = false) →
    group < 32 → code < 256 →
    y.trapcause = BitVec.ofNat 32 (group + 256 * code) ∧ y.trapd0 = d0 ∧ y.trapd1 = d1 ∧ y.trapd2 = d2 ∧
    y.trappc = pc ∧ y.trapmask = mask ∧ y.hmode = false ∧ y.k = x.k ∧
    (∀ l < 32, mask.getLsbD l = true → (y.lane l).st = .parked .trap ∧ (y.lane l).pc = pc) ∧
    (∀ l < 32, mask.getLsbD l = false → (x.lane l).st = .ready → (y.lane l).st = .parked .trap ∧ (y.lane l).pc = (x.lane l).pc) ∧
    (∀ l < 32, mask.getLsbD l = false → (x.lane l).st ≠ .ready → y.lane l = x.lane l) ∧
    y.v = x.v ∧ y.s = x.s ∧ y.fx = x.fx

/-- R182: a trap in handler mode is a double trap: the trap registers, k0 and handler mode stay, the trapping handler lanes are parked at the
trapping word, every other handler lane that is ready or held is parked where it stands, and no other lane changes. -/
def Sys2Proof.Claim.trapsInHandlerModeAreDoubleTraps : Prop :=
  ∀ (m : Mach) (h w at' group code : Nat) (d0 d1 d2 pc mask : Word) (hard : Bool),
    let x := m.warp h w
    let y := (m.takeTrapAt h w at' group code d0 d1 d2 pc mask hard).warp h w
    x.hmode = true →
    y.trapcause = x.trapcause ∧ y.trapd0 = x.trapd0 ∧ y.trapd1 = x.trapd1 ∧ y.trapd2 = x.trapd2 ∧ y.trappc = x.trappc ∧
    y.trapmask = x.trapmask ∧ y.hmode = true ∧ y.k = x.k ∧ y.saved = x.saved ∧
    (∀ l < 32, (x.kr 0).getLsbD l = true → mask.getLsbD l = true → (y.lane l).st = .parked .doubleTrap ∧ (y.lane l).pc = pc) ∧
    (∀ l < 32, (x.kr 0).getLsbD l = true → mask.getLsbD l = false → ((x.lane l).st = .ready ∨ ∃ why, (x.lane l).st = .held why) →
      (y.lane l).st = .parked .doubleTrap ∧ (y.lane l).pc = (x.lane l).at') ∧
    (∀ l < 32, (x.kr 0).getLsbD l = true → mask.getLsbD l = false → ¬ ((x.lane l).st = .ready ∨ ∃ why, (x.lane l).st = .held why) →
      y.lane l = x.lane l) ∧
    (∀ l < 32, (x.kr 0).getLsbD l = false → y.lane l = x.lane l)

/-- R177, R179, R180, R182, R185: what taking a trap saves and where it goes, in its three cases. -/
def Obligations.TakingATrapSavesAndEntersAsItsCauseSays : Prop := trapsToTheHandlerSaveAndEnter ∧ trapsToTheReeveParkTheWarp ∧ trapsInHandlerModeAreDoubleTraps

/-- R63, R308, R391: TRAP and BKPT with an active lane trap their whole bundle, with the word in TRAPD0; with none they do nothing. -/
def Obligations.SoftwareTrapsTrapTheirBundle : Prop :=
  ∀ (s : State) (h : Hdr) (i : BitVec 8) (g : BitVec 3),
    (s.m.active g.toNat ≠ 0 →
      exec (.trap h i g) s = traps s 8 i.toNat s.m.cur.word 0 0 ∧ exec (.bkpt h g) s = traps s 7 1 s.m.cur.word 0 0) ∧
    (s.m.active g.toNat = 0 →
      exec (.trap h i g) s = .next (still s) ∧
      exec (.bkpt h g) s = .next (still s))

/-- R183, R392: outside handler mode TRET traps in group 0x01, code 0x08; in it the bundle is held at the TRET, and when every handler lane
not exited is held at a TRET the warp leaves handler mode: the handler lanes become ready at TRAPPC 4 cycles later, k0 takes the saved live
mask again, and the lanes that the entry parked become ready. -/
def Obligations.TretLeavesHandlerModeWithItsLastLane : Prop :=
  ∀ (s : State) (h : Hdr),
    let x := s.m.cw
    (x.hmode = false → exec (.tret h) s = traps s 1 8 s.m.cur.word 0 0) ∧
    (x.hmode = true → x.resumes = [] → x.saveWait = none → (∀ l < 32, s.m.cur.bundle.getLsbD l = true → goes x l) →
      x.kr 0 = s.m.cur.bundle → Next (exec (.tret h) s) fun t =>
        let y := t.m.cw
        y.hmode = false ∧ y.kr 0 = x.saved ∧ t.mem = s.mem ∧ y.v = x.v ∧ y.s = x.s ∧ y.fx = x.fx ∧ y.pends = x.pends ∧
        (∀ l < 32, s.m.cur.bundle.getLsbD l = true →
          (y.lane l).st = .ready ∧ (y.lane l).pc = x.trappc ∧ (y.lane l).after = s.m.now + 4) ∧
        (∀ l < 32, s.m.cur.bundle.getLsbD l = false → (x.lane l).st = .parked .nonTrap →
          (y.lane l).st = .ready ∧ (y.lane l).pc = (x.lane l).pc ∧ (y.lane l).after = s.m.now + 4) ∧
        (∀ l < 32, s.m.cur.bundle.getLsbD l = false → (x.lane l).st ≠ .parked .nonTrap → y.lane l = x.lane l)) ∧
    (x.hmode = true → (∃ l < 32, (x.kr 0).getLsbD l = true ∧ s.m.cur.bundle.getLsbD l = false ∧ (x.lane l).st ≠ .held .tret) →
      Next (exec (.tret h) s) fun t => t.m.cw.hmode = true ∧ t.m.cw.k = x.k ∧ t.mem = s.mem ∧
        (∀ l < 32, s.m.cur.bundle.getLsbD l = true → (t.m.cw.lane l).st = .held .tret) ∧
        (∀ l < 32, s.m.cur.bundle.getLsbD l = false → t.m.cw.lane l = x.lane l))

/-! ## Branches and the end of lanes -/

/-- R253, R274, R309, R310, R314: the relative branches. The target is the packet's address plus 12 times the signed offset, modulo 2^32;
lanes that take the branch go there, every other bundle lane to the successor, and no other lane and no register changes but CALL's link,
which is the address of the next packet. -/
def Sys2Proof.Claim.relativeBranchesMoveTheirBundle : Prop :=
  ∀ (s : State) (h : Hdr) (k : BitVec 4) (o : BitVec 17) (o12 : BitVec 12) (o15 : BitVec 15) (d : BitVec 6) (r : BitVec 8),
    let x := s.m.cw
    let m := s.m
    let moves (i : Instr) (taken : Word) (off : Int) (p : Warp → Prop) : Prop :=
      Next (exec i s) fun t =>
        let y := t.m.cw
        t.mem = s.mem ∧ y.v = x.v ∧ y.s = x.s ∧ y.k = x.k ∧ y.fx = x.fx ∧ p y ∧
        (∀ l < 32, (y.lane l).st = (x.lane l).st) ∧
        (∀ l < 32, (y.lane l).pc =
          if m.cur.bundle.getLsbD l then (if taken.getLsbD l then m.packetAddr + BitVec.ofInt 32 (12 * off) else m.cur.succ)
          else (x.lane l).pc)
    let same (y : Warp) : Prop := y.pends = x.pends
    moves (.bra h k o) (if k.toNat = 15 then m.cur.bundle else m.cur.bundle &&& m.k k.toNat &&& m.k 0) o.toInt same ∧
    moves (.brasZ h r o12) (if m.s r.toNat = 0 then m.cur.bundle else 0) o12.toInt same ∧
    moves (.brasNz h r o12) (if m.s r.toNat ≠ 0 then m.cur.bundle else 0) o12.toInt same ∧
    moves (.call h d o15) (m.cur.bundle &&& m.k 0) o15.toInt (fun y =>
      y.pends = (vWrite s 4 d.toNat (m.cur.bundle &&& m.k 0) (fun _ => m.packetAddr + 12)).m.cw.pends)

/-- R311, R375: BRX and RET send each active lane to the address in its vA; if any active lane's address is no multiple of 12 the bundle
traps as a misaligned fetch instead, naming the failing lanes, and no lane moves. The multiple is that of the fetch address, which bits
[47:32] of ENTRY complete (log 10: the model's reading, with R249). -/
def Sys2Proof.Claim.indirectBranchesCheckTheirTargets : Prop :=
  ∀ (s : State) (h : Hdr) (a : BitVec 6) (g : BitVec 3),
    let x := s.m.cw
    let act := s.m.active g.toNat
    let A (l : Nat) : Word := s.m.v a.toNat l
    let bad (l : Nat) : Prop := act.getLsbD l = true ∧ ¬ 12 ∣ s.m.fetchVa s.m.cur.ham s.m.cur.warp (A l)
    ((∀ l < 32, ¬ bad l) → ∀ i ∈ [Instr.brx h a g, .ret h a g], Next (exec i s) fun t =>
      let y := t.m.cw
      t.mem = s.mem ∧ y.v = x.v ∧ y.s = x.s ∧ y.k = x.k ∧ y.fx = x.fx ∧ y.pends = x.pends ∧
      (∀ l < 32, (y.lane l).pc =
        if s.m.cur.bundle.getLsbD l then (if act.getLsbD l then A l else s.m.cur.succ) else (x.lane l).pc)) ∧
    (∀ e < 32, bad e → (∀ l < e, ¬ bad l) → ∀ i ∈ [Instr.brx h a g, .ret h a g], ∃ d1 mask,
      exec i s = traps s 3 3 (A e) d1 mask ∧ (∀ l < 32, (mask.getLsbD l = true ↔ bad l)))

/-- R253, R274, R309 to R311, R314, R375: the branches. -/
def Obligations.BranchesMoveTheirBundle : Prop := relativeBranchesMoveTheirBundle ∧ indirectBranchesCheckTheirTargets

/-- R43: EXIT of lanes, the others of the warp still live and no slot and no quad waiting: the active lanes are exited and leave k0 and
k8 to k11; nothing else of the warp's registers changes. -/
def Sys2Proof.Claim.exitTakesItsLanesOutOfTheWarp : Prop :=
  ∀ (s : State) (h : Hdr) (g : BitVec 3),
    let x := s.m.cw
    let act := s.m.active g.toNat
    x.hmode = false → x.kr 0 &&& ~~~act ≠ 0 → x.arr = [] → (∀ l < 32, (x.lane l).quad = none) →
    Next (exec (.exit h g) s) fun t =>
      let y := t.m.cw
      t.mem = s.mem ∧ y.v = x.v ∧ y.s = x.s ∧ y.fx = x.fx ∧ y.ended = x.ended ∧
      (∀ l < 32, act.getLsbD l = true → (y.lane l).st = .exited) ∧
      (∀ l < 32, act.getLsbD l = false → y.lane l = x.lane l) ∧
      (∀ r, y.kr r = if r = 0 ∨ (8 ≤ r ∧ r ≤ 11) then x.kr r &&& ~~~act else x.kr r)

/-- R43, R57: when no live lane remains, outside handler mode, EXIT ends the warp, and it leaves the active set. -/
def Sys2Proof.Claim.exitOfTheLastLaneEndsTheWarp : Prop :=
  ∀ (s : State) (h : Hdr) (g : BitVec 3),
    let x := s.m.cw
    x.hmode = false → x.kr 0 &&& ~~~s.m.active g.toNat = 0 → x.arr = [] → (∀ l < 32, (x.lane l).quad = none) →
    Next (exec (.exit h g) s) fun t => t.m.cw.ended = true ∧ t.m.cw.active = false ∧ t.m.cw.kr 0 = 0 ∧ t.mem = s.mem

/-- R43, R57: EXIT of some lanes, and of the last. -/
def Obligations.ExitTakesLanesOutAndEndsTheWarp : Prop := exitTakesItsLanesOutOfTheWarp ∧ exitOfTheLastLaneEndsTheWarp

/-- R46, R196, R389: SYSCALL with a free record slot parks its active lanes at the next word, and its record (number, warp, context,
lanes, program counter, sequence number and six registers of each lane) is written to the mailbox 60 cycles after its issue; with no free slot the
word does not issue. In a group whose effects come later the slot is the one that the group reserved at its issue. -/
def Obligations.SyscallParksItsLanesAndSendsARecord : Prop :=
  ∀ (s : State) (h : Hdr) (n : BitVec 9) (a : BitVec 6),
    let x := s.m.cw
    let lanes := s.m.cur.bundle &&& s.m.k 0
    let ham (t : State) : Hamlet := t.m.ham s.m.cur.ham
    let late (j : Nat) : Prop := ∃ y, s.m.cur.snap = some y ∧ y.record = some j
    (∀ j, (s.m.cur.snap = none ∧ s.m.freeRecord s.m.cur.ham = some j) ∨ late j → Next (exec (.syscall h n a) s) fun t =>
      t.mem = s.mem ∧ t.m.cw.v = x.v ∧ t.m.cw.s = x.s ∧ t.m.cw.k = x.k ∧
      (∀ l < 32, lanes.getLsbD l = true → (t.m.cw.lane l).st = .parked .syscall ∧ (t.m.cw.lane l).pc = s.m.cur.succ) ∧
      (∀ l < 32, lanes.getLsbD l = false → t.m.cw.lane l = x.lane l) ∧
      (s.m.cur.snap = none → (ham t).scRes = (ham s).scRes ++ [j]) ∧ (late j → (ham t).scRes = (ham s).scRes) ∧ (ham t).scSeq = ((ham s).scSeq + 1) % 2 ^ 32 ∧
      ∃ r, (ham t).scWait = (ham s).scWait ++ [(j, (if s.m.cur.atOnce then s.m.cur.issued else s.m.now) + 60, r)] ∧ r.length = 200 ∧
        r.getD 0 0 = BitVec.ofNat 32 (n.toNat + 2 ^ 16 * s.m.cur.warp + 2 ^ 22 * s.m.warpCtx s.m.cur.ham s.m.cur.warp) ∧
        r.getD 1 0 = lanes ∧ r.getD 2 0 = s.m.cur.pc ∧ r.getD 4 0 = BitVec.ofNat 32 (ham s).scSeq ∧
        (∀ l < 32, ∀ i < 6, r.getD (8 + 6 * l + i) 0 = if lanes.getLsbD l then s.m.v (a.toNat + i) l else 0)) ∧
    (s.m.cur.snap = none → s.m.freeRecord s.m.cur.ham = none → Next (exec (.syscall h n a) s) fun t =>
      t.m.cur.stalled = true ∧ t.mem = s.mem ∧ (ham t).scWait = (ham s).scWait ∧
      (∀ l < 32, s.m.cur.bundle.getLsbD l = true → (t.m.cw.lane l).pc = s.m.cur.pc))

/-! ## Special registers, LEASE, YIELD and NOP -/

/-- R257, R326, R383: SRD samples the named special register in the issue cycle, and its result lands in s[D] 4 cycles later, or when its
withheld group takes effect; reading CLOCKLO also latches the upper half of the same clock for CLOCKHI. -/
def Obligations.SrdReadsSpecialRegisters : Prop :=
  ∀ (s : State) (h : Hdr) (d a : BitVec 8),
    let x := s.m.cw
    let b := s.m.cb
    let n := a.toNat
    let l := s.m.launches.get default b.launch
    let clock := s.m.clockAt s.m.cur.ham (if s.m.cur.snap.isSome then s.m.cur.issued else s.m.now)
    let now : Word :=
      if n = 0 then BitVec.ofNat 32 x.idx else if n = 1 then BitVec.ofNat 32 b.bx else if n = 2 then BitVec.ofNat 32 b.by'
      else if n = 3 then BitVec.ofNat 32 b.bz else if n = 4 then BitVec.ofNat 32 b.clusterId else if n = 5 then BitVec.ofNat 32 b.rank
      else if n = 6 then BitVec.ofNat 32 s.m.cur.ham else if n = 7 then BitVec.ofNat 32 (l.gx * l.clb)
      else if n = 8 then BitVec.ofNat 32 l.gy else if n = 9 then BitVec.ofNat 32 l.gz else if n = 0x10 then x.fpmode
      else if n = 0x20 then x.trapcause else if n = 0x21 then x.trapd0 else if n = 0x22 then x.trapd1
      else if n = 0x23 then x.trapd2 else if n = 0x24 then x.trappc else if n = 0x25 then x.trapmask else if n = 0x26 then x.tvec
      else if n = 0x30 then BitVec.ofNat 32 (s.m.clockAt s.m.cur.ham s.m.now)
      else if n = 0x31 then (if x.clkRead then x.clk else BitVec.ofNat 32 (s.m.clockAt s.m.cur.ham s.m.now / 2 ^ 32))
      else if 0x40 ≤ n ∧ n ≤ 0x43 then b.cwp.get 0 (n - 0x40) else x.leasev
    let v : Word := match s.m.cur.snap.bind (fun y => y.sample) with | some y => y | none => now
    specialKnown n = true → Next (exec (.srd h d a) s) fun t =>
      let y := t.m.cw
      t.mem = s.mem ∧ y.v = x.v ∧ y.s = x.s ∧ y.k = x.k ∧ y.fpmode = x.fpmode ∧ y.tvec = x.tvec ∧ y.trappc = x.trappc ∧
      y.lanes = x.lanes ∧
      y.pends = x.pends ++ [{ id := s.m.nextId, file := .s, regs := [d.toNat], mask := 0, vals := [(d.toNat, v)], issue := s.m.now,
                              land := landing s 4, var := true }] ∧
      (n = 0x30 → y.clk = BitVec.ofNat 32 (clock / 2 ^ 32) ∧ y.clkRead = true) ∧ (n ≠ 0x30 → y.clk = x.clk)

/-- R121, R257, R384: SWR writes FPMODE without its reserved bits, unless RM is 5 to 7; TVEC, unless the value is no multiple of 12; and
TRAPPC without bits [1:0]; a refused value traps in group 0x01, code 0x02, and changes nothing else. -/
def Sys2Proof.Claim.swrWritesItsThreeRegisters : Prop :=
  ∀ (s : State) (h : Hdr) (a : BitVec 8),
    let v := s.m.s a.toNat
    (v.toNat % 8 < 5 → exec (.swr h 0x10 a) s = .next (withWarp s (fun x => { x with fpmode := v &&& 0x00011F07 }))) ∧
    (5 ≤ v.toNat % 8 → exec (.swr h 0x10 a) s = traps s 1 2 s.m.cur.word 0 0) ∧
    exec (.swr h 0x24 a) s = .next (withWarp s (fun x => { x with trappc := BitVec.ofNat 32 (v.toNat / 4 * 4) })) ∧
    (12 ∣ v.toNat → exec (.swr h 0x26 a) s = .next (withWarp s (fun x => { x with tvec := v }))) ∧
    (¬ 12 ∣ v.toNat → exec (.swr h 0x26 a) s = traps s 1 2 s.m.cur.word 0 0)

/-- R360, R397, R367: LEASE declares a lease of n lines, or returns to a measured lease of 16 with n = 0, and clears LOSS, the line-touch
filter and its cycle count; YIELD passes the warp over for 64 cycles from its issue, unless another warp of its context has issued since; NOP
changes nothing. -/
def Sys2Proof.Claim.leaseYieldAndNop : Prop :=
  ∀ (s : State) (h : Hdr) (n : BitVec 13),
    exec (.lease h n) s = .next (withWarp s (fun x =>
      { x with lease := if n.toNat = 0 then 16 else n.toNat, decl := n.toNat ≠ 0, loss := 0, filter := 0, actCycles := 0 })) ∧
    exec (.yield h) s = .next (withWarp s (fun x =>
      if x.lastOther ≤ s.m.cur.issued then { x with yieldUntil := some (s.m.cur.issued + 64) } else x)) ∧
    exec (.nop h) s = .next (still s)

/-- R121, R257, R360, R367, R384, R397: SWR, LEASE, YIELD and NOP. -/
def Obligations.SpecialRegisterWritesLeaseYieldAndNop : Prop := swrWritesItsThreeRegisters ∧ leaseYieldAndNop

/-- R275, R287, R394: VRD and VWR trap in group 0x01, code 0x08, outside handler mode; in it, where no earlier write is outstanding, VRD
reads in each active lane the register that its vA names, and VWR writes vB to it, and both land 4 cycles after issue, or at once in a group
that was withheld until then (R326). -/
def Obligations.VrdAndVwrNameTheirRegisterByLane : Prop :=
  ∀ (s : State) (h : Hdr) (d a b : BitVec 6) (g : BitVec 3),
    let x := s.m.cw
    let act := s.m.active g.toNat
    let name (l : Nat) : Nat := field (s.m.v a.toNat l) 0 6
    let when' : Nat := s.m.now + if s.m.cur.atOnce then 0 else 4
    (x.hmode = false →
      exec (.vrd h d a g) s = traps s 1 8 s.m.cur.word 0 0 ∧ exec (.vwr h a b g) s = traps s 1 8 s.m.cur.word 0 0) ∧
    (x.hmode = true → x.pends = [] → act ≠ 0 →
      Next (exec (.vrd h d a g) s) (fun t => t.mem = s.mem ∧ ∃ p, t.m.cw.pends = [p] ∧ p.role = .vrd ∧ p.mask = act ∧
        p.regs = [d.toNat] ∧ p.named = [] ∧
        (∀ l < 32, act.getLsbD l = true → (p.early.get? l = some when' ∧ p.vals.get? (32 * d.toNat + l) = some (x.vr (name l) l)))) ∧
      Next (exec (.vwr h a b g) s) (fun t => t.mem = s.mem ∧ ∃ p, t.m.cw.pends = [p] ∧ p.role = .vwr ∧ p.mask = act ∧
        p.regs = List.range 64 ∧ p.named = [] ∧
        (∀ l < 32, act.getLsbD l = true → (p.early.get? l = some when' ∧ p.vals.get? (32 * name l + l) = some (s.m.v b.toNat l)))))

/-! ## Quads and synchronisation slots -/

/-- R38, R39, R268, R370: a quad word whose bundle holds every live lane of the warp's quads executes at once: each active lane receives
its value from what the four lanes of its quad hold then, landing 4 cycles later, and the bundle's lanes, which stay where they are, may issue 4 cycles
later. -/
def Obligations.QuadWordsExchangeWithinTheirQuad : Prop :=
  ∀ (s : State) (h : Hdr) (d a : BitVec 6) (m : BitVec 2) (g : BitVec 2),
    let x := s.m.cw
    let A (l : Nat) : Word := s.m.cw.vr a.toNat l
    let sub (p q : Nat) : Word := BitVec.ofNat 32 (F32.sub .rne (A p).toNat (A q).toNat).1
    let gives (i : Instr) (f : Nat → Word) : Prop :=
      Next (exec i s) fun t =>
        t.mem = s.mem ∧ t.m.cw.v = x.v ∧ t.m.cw.s = x.s ∧ t.m.cw.k = x.k ∧ t.m.cw.fx = x.fx ∧
        (∀ l < 32, s.m.cur.bundle.getLsbD l = true →
          (t.m.cw.lane l).st = .ready ∧ (t.m.cw.lane l).pc = (x.lane l).pc ∧ (t.m.cw.lane l).after = s.m.now + 4) ∧
        (∀ l < 32, (s.m.active g.toNat).getLsbD l = true → ∃ p ∈ t.m.cw.pends, p ∉ x.pends ∧
          p.file = .v ∧ p.regs = [d.toNat] ∧ p.land = landing s 4 ∧ p.vals.get? (32 * d.toNat + l) = some (f l))
    x.liveMask &&& ~~~s.m.cur.bundle = 0 → x.quadHeld s.m.cur.pc = 0 →
    (∀ l < 32, s.m.cur.bundle.getLsbD l = true → goes x l ∧ (x.lane l).st = .ready) →
    (∀ p ∈ x.pends, p.id < s.m.nextId) →
    gives (.qswz h d a m g) (fun l => A (l / 4 * 4 + (l % 4) ^^^ m.toNat)) ∧
    gives (.qbcast h d a m g) (fun l => A (l / 4 * 4 + m.toNat)) ∧
    gives (.qdiffx h d a g) (fun l => sub (l / 2 * 2 + 1) (l / 2 * 2)) ∧
    gives (.qdiffy h d a g) (fun l => sub (l / 4 * 4 + l % 2 + 2) (l / 4 * 4 + l % 2))

/-- R42, R44, R352: JOIN adds its active lanes to a slot, LEAVE removes them; the membership lands 4 cycles after issue and counts for the
slot's completion at once; with no active lane JOIN changes nothing, and LEAVE of a slot at which no lane has arrived releases none. -/
def Sys2Proof.Claim.joinAndLeaveChangeMembership : Prop :=
  ∀ (s : State) (h : Hdr) (k : BitVec 4) (g : BitVec 3),
    let x := s.m.cw
    let act := s.m.active g.toNat
    let change (v : Word) : State :=
      adds s { id := s.m.nextId, file := .k, regs := [k.toNat], mask := act, vals := [(k.toNat, v)], issue := s.m.now,
               land := landing s 4, var := false, sync := true }
    let joined : State := change act
    let left : State := change 0
    let same : State := still s
    (act ≠ 0 → exec (.join h k g) s = .next joined ∧
      (∀ l < 32, ((joined.m.cw.membership k.toNat).getLsbD l = true ↔
        ((x.membership k.toNat).getLsbD l = true ∨ act.getLsbD l = true)))) ∧
    (act = 0 → exec (.join h k g) s = .next same) ∧
    (act ≠ 0 → x.arr.get 0 k.toNat = 0 → Next (exec (.leave h k g) s) fun t =>
      t.m.cw = left.m.cw ∧ t.mem = s.mem ∧
      (∀ l < 32, ((t.m.cw.membership k.toNat).getLsbD l = true ↔
        ((x.membership k.toNat).getLsbD l = true ∧ act.getLsbD l = false)))) ∧
    (act = 0 → x.arr.get 0 k.toNat = 0 → Next (exec (.leave h k g) s) fun t => t.m.cw = x ∧ t.mem = s.mem)

/-- R42, R44, R396: WAITK of a lane that is no member traps in group 0x05, code 0x02, naming the slot; otherwise the active lanes arrive: while
a live member is still missing they are held at the successor, and with the last one every lane that has arrived may issue 4 cycles later
and the slot is empty again. -/
def Obligations.WaitkHoldsUntilEveryMemberArrives : Prop :=
  ∀ (s : State) (h : Hdr) (k : BitVec 4) (g : BitVec 3),
    let x := s.m.cw
    let act := s.m.active g.toNat
    let n := k.toNat
    let member := x.membership n
    let here := x.arr.get 0 n ||| act
    (act &&& ~~~member ≠ 0 → ∃ d2 free, exec (.waitk h k g) s =
      traps { s with m := { s.m with free := free } } 5 2 s.m.cur.word (BitVec.ofNat 32 n) d2) ∧
    (act &&& ~~~member = 0 → member &&& x.liveMask &&& ~~~here ≠ 0 → Next (exec (.waitk h k g) s) fun t =>
      let y := t.m.cw
      t.mem = s.mem ∧ y.arr.get 0 n = here ∧ y.v = x.v ∧ y.s = x.s ∧ y.k = x.k ∧ y.pends = x.pends ∧
      (∀ l < 32, act.getLsbD l = true → (y.lane l).st = .held .waitk ∧ (y.lane l).pc = s.m.cur.succ ∧ (y.lane l).arg = n) ∧
      (∀ l < 32, act.getLsbD l = false → y.lane l = x.lane l)) ∧
    (act &&& ~~~member = 0 → act ≠ 0 → member &&& x.liveMask &&& ~~~here = 0 →
      (∀ l < 32, here.getLsbD l = true → goes x l) →
      Next (exec (.waitk h k g) s) fun t =>
        let y := t.m.cw
        t.mem = s.mem ∧ y.arr.get 0 n = 0 ∧ y.v = x.v ∧ y.s = x.s ∧ y.k = x.k ∧ y.pends = x.pends ∧
        (∀ l < 32, act.getLsbD l = true → (y.lane l).st = .ready ∧ (y.lane l).pc = s.m.cur.succ ∧ (y.lane l).after = s.m.now + 4) ∧
        (∀ l < 32, here.getLsbD l = true → act.getLsbD l = false → (x.lane l).st = .held .waitk → (x.lane l).arg = n →
          (y.lane l).st = .ready ∧ (y.lane l).pc = (x.lane l).pc ∧ (y.lane l).after = s.m.now + 4))

/-- R42: KSYNC with active lanes that all offer one mask holding each of them, at a slot at which no lane has arrived: the mask becomes the
membership; with every live member in the bundle the lanes may issue 4 cycles later, else they are held. Offers that differ, or leave an
offering lane out, trap in group 0x05, code 0x02. -/
def Sys2Proof.Claim.ksyncSetsItsMembership : Prop :=
  ∀ (s : State) (h : Hdr) (k : BitVec 4) (a : BitVec 6) (g : BitVec 3) (mask : Word),
    let x := s.m.cw
    let act := s.m.active g.toNat
    let n := k.toNat
    let offers : Prop := ∀ l < 32, act.getLsbD l = true → s.m.v a.toNat l = mask ∧ mask.getLsbD l = true
    let done (t : State) : Prop := t.mem = s.mem ∧ t.m.cw.membership n = mask ∧ t.m.cw.v = x.v ∧ t.m.cw.s = x.s ∧ t.m.cw.k = x.k
    (act ≠ 0 → x.arr.get 0 n = 0 → offers → mask &&& x.liveMask &&& ~~~act = 0 →
      (∀ l < 32, act.getLsbD l = true → goes x l) →
      Next (exec (.ksync h k a g) s) fun t => done t ∧ t.m.cw.arr.get 0 n = 0 ∧
        (∀ l < 32, act.getLsbD l = true →
          (t.m.cw.lane l).st = .ready ∧ (t.m.cw.lane l).pc = s.m.cur.succ ∧ (t.m.cw.lane l).after = s.m.now + 4)) ∧
    (act ≠ 0 → x.arr.get 0 n = 0 → offers → mask &&& x.liveMask &&& ~~~act ≠ 0 →
      Next (exec (.ksync h k a g) s) fun t => done t ∧ t.m.cw.arr.get 0 n = act ∧
        (∀ l < 32, act.getLsbD l = true → (t.m.cw.lane l).st = .held .ksync ∧ (t.m.cw.lane l).pc = s.m.cur.succ)) ∧
    (∀ e, lowestLane act = some e → s.m.v a.toNat e = mask → ¬ offers →
      exec (.ksync h k a g) s = traps s 5 2 s.m.cur.word (BitVec.ofNat 32 n) mask)

/-- R42, R44, R352: JOIN, LEAVE and KSYNC. -/
def Obligations.MembershipWordsSetTheirSlot : Prop := joinAndLeaveChangeMembership ∧ ksyncSetsItsMembership

/-! ## Fences and barriers -/

/-- R163, R164, R335: FENCE holds its active lanes where they go on, with its kind and scope, and the later words of the group wait with them;
no other lane is held; with no active lane it does nothing. -/
def Obligations.FenceHoldsItsLanes : Prop :=
  ∀ (s : State) (h : Hdr) (sc : BitVec 3) (k : BitVec 2) (g : BitVec 3),
    let x := s.m.cw
    let act := s.m.active g.toNat
    (act = 0 → exec (.fence h sc k g) s = .next (still s)) ∧
    (act ≠ 0 → Next (exec (.fence h sc k g) s) fun t =>
      let y := t.m.cw
      t.mem = s.mem ∧ y.v = x.v ∧ y.s = x.s ∧ y.k = x.k ∧ y.fx = x.fx ∧ y.pends = x.pends ∧ t.m.cur.stop = true ∧
      (∀ l < 32, act.getLsbD l = true → (y.lane l).st = .held .fence ∧ (y.lane l).pc = (x.lane l).pc) ∧
      (∀ l < 32, act.getLsbD l = false → y.lane l = x.lane l) ∧
      ∃ f, y.fences = x.fences ++ [f] ∧ f.mask = act ∧ f.kind = k.toNat ∧ f.scope = sc.toNat ∧ f.atom = none ∧
        f.rest = s.m.cur.rest ∧ f.before = t.m.nextId ∧ s.m.nextId ≤ f.before)

/-- R110, R111: what the BAR words do to a barrier of their own block, or ask of its host. CNT, EXP, DLT and the phase are the fields of
R108. A BARR whose lanes' writes are performed arrives in its cycle (log 23: the model's reading of R165). -/
def Sys2Proof.Claim.barrierWordsOnTheirOwnBlock : Prop :=
  ∀ (s : State) (h : Hdr) (b : BitVec 4) (sr : BitVec 8) (g : BitVec 3),
    let act := s.m.active g.toNat
    let blk (t : State) : Block := t.m.block s.m.cur.ham s.m.cw.block
    let bar (t : State) : Bar := (blk t).bar b.toNat
    let x := bar s
    let n := ((List.range 32).filter (fun l => act.getLsbD l)).length
    let e := field (s.m.s sr.toNat) 0 16
    let misuse : Out := traps s 5 1 s.m.cur.word (BitVec.ofNat 32 b.toNat) 0
    let others (t : State) : Prop := ∀ j, j ≠ b.toNat → (blk t).bar j = (blk s).bar j
    let changes (i : Instr) (y : Bar) : Prop := Next (exec i s) fun t =>
      bar t = y ∧ others t ∧ t.mem = s.mem ∧ t.m.cw.v = s.m.cw.v ∧ t.m.cw.s = s.m.cw.s ∧ t.m.cw.k = s.m.cw.k
    act ≠ 0 → x.cl = false →
    (s.m.released b.toNat act = true → x.cnt + n < x.exp → changes (.barr h b sr g) { x with cnt := x.cnt + n }) ∧
    (s.m.released b.toNat act = true → x.cnt + n = x.exp → changes (.barr h b sr g) { x with ph := !x.ph, cnt := 0, exp := (x.exp + x.dlt).toNat, dlt := 0 }) ∧
    (s.m.released b.toNat act = true → x.cnt + n > x.exp → exec (.barr h b sr g) s = misuse) ∧
    (x.exp + x.dlt - e ≥ 1 → changes (.barrd h b sr g) { x with dlt := x.dlt - e }) ∧
    (x.exp + x.dlt - e < 1 → exec (.barrd h b sr g) s = misuse) ∧
    (x.exp + x.dlt + e ≤ 65535 → changes (.barrj h b sr g) { x with dlt := x.dlt + e }) ∧
    (x.exp + x.dlt + e > 65535 → exec (.barrj h b sr g) s = misuse) ∧
    ((s.m.s sr.toNat).getLsbD 16 = false → e ≠ 0 → x.cnt = 0 → s.m.namesBar s.m.cur.ham s.m.cw.block b.toNat = false →
      changes (.binit h b sr g) { exp := e }) ∧
    ((s.m.s sr.toNat).getLsbD 16 = false →
      (e = 0 ∨ x.cnt ≠ 0 ∨ s.m.namesBar s.m.cur.ham s.m.cw.block b.toNat = true) → exec (.binit h b sr g) s = misuse)

/-- R82, R110, R165: BARR answers the phase before its arrivals in s[S], 4 cycles later; BWAIT holds its lanes while the phase equals bit 0 of
s[S], and BSYNC, having arrived, while its phase has not flipped; a wait that is over at once holds none, and
where it observes the flip of a cluster barrier it invalidates every Commons line of the hamlet's first level, spill lines apart, and every fill
of one on its way. The arrivals are those of lanes whose writes are performed (log 23: the model's reading of R165). -/
def Obligations.BarrierWaitsHoldUntilTheFlip : Prop :=
  ∀ (s : State) (h : Hdr) (b : BitVec 4) (sr : BitVec 8) (g : BitVec 3),
    let act := s.m.active g.toNat
    let blk (t : State) : Block := t.m.block s.m.cur.ham s.m.cw.block
    let x := (blk s).bar b.toNat
    let n := ((List.range 32).filter (fun l => act.getLsbD l)).length
    let phase : Pend :=
      { id := s.m.nextId, file := .s, regs := [sr.toNat], mask := 0, vals := [(sr.toNat, if x.ph then 1 else 0)],
        issue := s.m.now, land := landing s 4, var := true }
    let held (t : State) : Prop :=
      (∀ l < 32, act.getLsbD l = true →
        (t.m.cw.lane l).st = .held .bwait ∧ (t.m.cw.lane l).arg = b.toNat ∧ (t.m.cw.lane l).pc = s.m.cur.succ) ∧
      (∀ l < 32, act.getLsbD l = false → t.m.cw.lane l = s.m.cw.lane l)
    act ≠ 0 →
    (x.cl = false → s.m.released b.toNat act = true → x.cnt + n < x.exp → Next (exec (.barr h b sr g) s) fun t =>
      t.m.cw.pends = s.m.cw.pends ++ [phase] ∧ t.m.cw.lanes = s.m.cw.lanes) ∧
    ((s.m.s sr.toNat).getLsbD 0 = x.ph → Next (exec (.bwait h b sr g) s) fun t => held t ∧ t.mem = s.mem ∧ (blk t).bars = (blk s).bars) ∧
    ((s.m.s sr.toNat).getLsbD 0 ≠ x.ph → Next (exec (.bwait h b sr g) s) fun t =>
      t.m.cw = s.m.cw ∧ t.mem = s.mem ∧ (blk t).bars = (blk s).bars ∧
      (x.cl = false → t.m.ham s.m.cur.ham = s.m.ham s.m.cur.ham ∧ t.m.reqs = s.m.reqs) ∧
      (x.cl = true → (t.m.ham s.m.cur.ham).l1 = (s.m.ham s.m.cur.ham).l1.filter (fun y => y.kind = 0) ∧
        t.m.reqs = s.m.reqs.map (fun r => if r.ham = s.m.cur.ham ∧ r.kind = .load then { r with drop := true } else r))) ∧
    (x.cl = false → s.m.released b.toNat act = true → x.cnt + n < x.exp → Next (exec (.bsync h b g) s) fun t =>
      held t ∧ t.mem = s.mem ∧ (blk t).bar b.toNat = { x with cnt := x.cnt + n }) ∧
    (x.cl = false → s.m.released b.toNat act = true → x.cnt + n = x.exp → Next (exec (.bsync h b g) s) fun t =>
      (∀ l < 32, act.getLsbD l = true → (t.m.cw.lane l).st = (s.m.cw.lane l).st ∨ (t.m.cw.lane l).st ≠ .held .bwait) ∧ t.mem = s.mem ∧
      (blk t).bar b.toNat = { x with ph := !x.ph, cnt := 0, exp := (x.exp + x.dlt).toNat, dlt := 0 })

/-- R111, R165, R302: a BAR word on a barrier that another block hosts sends its item to the host, and its whole bundle is held at the
successor until the answer comes. Log 23 (DEDUCED, the model's reading of R165; no rule says it): an arrival at a barrier of the block itself,
hosted or local, does the same while its lanes' writes are still to be performed. The other words act on the state that the block hosts. -/
def Sys2Proof.Claim.hostedBarrierWordsAskTheirHost : Prop :=
  ∀ (s : State) (h : Hdr) (b : BitVec 4) (sr : BitVec 8) (g : BitVec 3),
    let act := s.m.active g.toNat
    let n := ((List.range 32).filter (fun l => act.getLsbD l)).length
    let e := field (s.m.s sr.toNat) 0 16
    let asksAt (p : Nat × Nat) (i : Instr) (item : BarItem) : Prop := Next (exec i s) fun t =>
      t.mem = s.mem ∧
      (∀ l < 32, s.m.cur.bundle.getLsbD l = true →
        (t.m.cw.lane l).st = .held .hosted ∧ (t.m.cw.lane l).pc = s.m.cur.succ) ∧
      (∀ l < 32, s.m.cur.bundle.getLsbD l = false → t.m.cw.lane l = s.m.cw.lane l) ∧
      ∃ y, t.m.msgs = s.m.msgs ++ [y] ∧ y.item = item ∧ y.bar = b.toNat ∧ y.src = s.m.cur.ham ∧ y.warp = s.m.cur.warp ∧
        (y.dst, y.dblock) = p ∧ y.lanes = s.m.cur.bundle ∧ y.act = act
    let asks := asksAt s.m.cb.host
    let asksOwn := asksAt (s.m.cur.ham, s.m.cw.block)
    let x := s.m.cb.barOf true b.toNat
    let cl := (s.m.s sr.toNat).getLsbD 16
    let own (i : Instr) (y : Bar) : Prop := Next (exec i s) fun t =>
      (t.m.block s.m.cur.ham s.m.cw.block).barOf true b.toNat = y ∧ t.mem = s.mem ∧ t.m.cw.lanes = s.m.cw.lanes
    let misuse : Out := traps s 5 1 s.m.cur.word (BitVec.ofNat 32 b.toNat) 0
    act ≠ 0 →
    (s.m.cb.hosted b.toNat = true →
      asks (.barr h b sr g) (.arrive n false) ∧ asks (.bsync h b g) (.arrive n true) ∧
      asks (.barrd h b sr g) (.barrd e) ∧ asks (.barrj h b sr g) (.barrj e) ∧
      (cl = false ∨ (12 ≤ b.toNat ∧ 2 ≤ s.m.cb.peers.length) → asks (.binit h b sr g) (.binit e cl))) ∧
    ((s.m.cb.bar b.toNat).cl = false → s.m.released b.toNat act = false →
      asksOwn (.barr h b sr g) (.arrive n false) ∧ asksOwn (.bsync h b g) (.arrive n true)) ∧
    (s.m.cb.hostsIt b.toNat = true →
      (s.m.released b.toNat act = false → asks (.barr h b sr g) (.arrive n false) ∧ asks (.bsync h b g) (.arrive n true)) ∧
      (s.m.released b.toNat act = true → x.cnt + n < x.exp → own (.barr h b sr g) { x with cnt := x.cnt + n }) ∧
      (s.m.released b.toNat act = true → x.cnt + n > x.exp →
        exec (.barr h b sr g) s = misuse ∧ exec (.bsync h b g) s = misuse) ∧
      (x.exp + x.dlt - e ≥ 1 → own (.barrd h b sr g) { x with dlt := x.dlt - e }) ∧
      (x.exp + x.dlt - e < 1 → exec (.barrd h b sr g) s = misuse) ∧
      (x.exp + x.dlt + e ≤ 65535 → own (.barrj h b sr g) { x with dlt := x.dlt + e }) ∧
      (x.exp + x.dlt + e > 65535 → exec (.barrj h b sr g) s = misuse))

/-- R110, R111, R302: the BAR words on a barrier of their own block and on one of another host. -/
def Obligations.BarrierWordsActOnTheirBarrier : Prop := barrierWordsOnTheirOwnBlock ∧ hostedBarrierWordsAskTheirHost

/-! ## Thread accesses to memory -/

/-- The number of `n` bytes of Memory from an address, the first the least significant (R9). -/
def Sys2Proof.Claim.bytesAt (mem : Memory) (a n : Nat) : Nat :=
  ((List.range n).map (fun i => (mem.read (a + i)).toNat * 256 ^ i)).sum
/-- The registers and lanes of the current warp are as before, but for its outstanding writes and the counters of its lease. -/
def Sys2Proof.Claim.keepsRegs (s t : State) : Prop :=
  t.m.cw.v = s.m.cw.v ∧ t.m.cw.s = s.m.cw.s ∧ t.m.cw.k = s.m.cw.k ∧ t.m.cw.fx = s.m.cw.fx ∧ t.m.cw.lanes = s.m.cw.lanes ∧
  t.m.cw.fpmode = s.m.cw.fpmode ∧ t.m.cw.hmode = s.m.cw.hmode ∧ t.m.cw.saved = s.m.cw.saved ∧ t.m.cw.tvec = s.m.cw.tvec ∧
  t.m.cw.trapcause = s.m.cw.trapcause ∧ t.m.cw.trappc = s.m.cw.trappc

/-- R72 to R74, R77, R272, R357, R358: LDS reads, for each active lane that addresses its own block, the bytes at its address, zero-extended,
into v[T..]; with no other lane they land after the bank ways of R73. A lane that addresses another block's rank goes into a request to that
block, and all lanes then land together, with the last data and no earlier than those of the own block. No byte and no other register
changes. -/
def Obligations.SharedLoadsReadTheirBytes : Prop :=
  ∀ (s : State) (h : Hdr) (t a : BitVec 6) (o : BitVec 4) (z : BitVec 3),
    let act := s.m.cur.bundle &&& s.m.k 0
    let size := 2 ^ z.toNat
    let addr (l : Nat) : Word := s.m.v a.toNat l + BitVec.ofNat 32 (o.toNat * size)
    let off (l : Nat) : Nat := (addr l).toNat % 2 ^ 18
    let lanes := (List.range 32).filter (fun l => act.getLsbD l)
    let rank (l : Nat) : Nat := sharedRank s.m.cb (addr l)
    let own := lanes.filter (fun l => rank l = s.m.cb.rank)
    let least : Nat := s.m.now + 21 + waysOf size (own.map off)
    z.toNat ≤ 4 → act ≠ 0 → s.m.poison = [] → (∀ p ∈ s.m.cw.pends, p.id < s.m.nextId) →
    (∀ l ∈ lanes, s.m.sharedCheck s.m.cb (addr l) size = none) →
    Next (exec (.lds h t a o z) s) fun u =>
      u.mem = s.mem ∧ keepsRegs s u ∧ ∃ p, u.m.cw.pends = s.m.cw.pends ++ [p] ∧
        p.file = .v ∧ p.mask = act ∧ p.var = true ∧ p.regs = (List.range (max 1 (size / 4))).map (t.toNat + ·) ∧
        (own = lanes → p.land = some least ∧ u.m.reqs = s.m.reqs) ∧
        (own ≠ lanes → p.land = none ∧ p.least = if own = [] then 0 else least) ∧
        (∀ l ∈ lanes, rank l ≠ s.m.cb.rank → ∃ r ∈ u.m.reqs.drop s.m.reqs.length, r.kind = .sload ∧ r.ham = s.m.cur.ham ∧ r.pend = p.id ∧
          s.m.peerOf s.m.cb (rank l) = some (r.home, r.block) ∧ (l, off l, []) ∈ r.lanes) ∧
        (∀ l ∈ own, ∀ i < max 1 (size / 4), p.vals.get? (32 * (t.toNat + i) + l) =
          some (BitVec.ofNat 32 (bytesAt s.mem (sharedKey s.m.cur.ham s.m.cb (off l) + 4 * i) (min 4 size))))

/-- R155, R386: STS within the block's own shared memory writes the low bytes of v[T..] of each active lane at its address, the highest lane
last; every other byte, every register and every lane stays as it was (R96: a word with a single-bit error is corrected and counted). -/
def Obligations.SharedStoresWriteTheirBytesOnly : Prop :=
  ∀ (s : State) (h : Hdr) (t a : BitVec 6) (o : BitVec 4) (z : BitVec 3),
    let act := s.m.cur.bundle &&& s.m.k 0
    let size := 2 ^ z.toNat
    let addr (l : Nat) : Word := s.m.v a.toNat l + BitVec.ofNat 32 (o.toNat * size)
    let lanes := (List.range 32).filter (fun l => act.getLsbD l)
    let key (l : Nat) : Nat := sharedKey s.m.cur.ham s.m.cb ((addr l).toNat % 2 ^ 18)
    let covers (l c : Nat) : Prop := key l ≤ c ∧ c < key l + size
    z.toNat ≤ 4 → s.m.poison = [] → s.mem.wf = true →
    (∀ l ∈ lanes, s.m.sharedCheck s.m.cb (addr l) size = none ∧ sharedRank s.m.cb (addr l) = s.m.cb.rank) →
    Next (exec (.sts h t a o z) s) fun u =>
      u.m = { s.m.clear with flips := u.m.flips, corrected := u.m.corrected, cpus := u.m.cpus } ∧
      (∀ c, (∀ l ∈ lanes, ¬ covers l c) → u.mem.read c = s.mem.read c) ∧
      (∀ l ∈ lanes, ∀ j < size, (∀ l' ∈ lanes, l < l' → ¬ covers l' (key l + j)) →
        u.mem.read (key l + j) = (s.m.v (t.toNat + j / 4) l).extractLsb' (8 * (j % 4)) 8)

/-- R74, R177: a shared access with a failing lane traps in group 0x03 with the lowest failing condition's code, and nothing is read or
written: code 0x04 for a reserved address bit, then 0x03 for a misaligned one, then 0x06 for a rank that is not resident, then 0x04 for one
beyond the carve. -/
def Sys2Proof.Claim.sharedAccessesCheckEveryLane : Prop :=
  ∀ (s : State) (h : Hdr) (t a : BitVec 6) (o : BitVec 4) (z : BitVec 3),
    let act := s.m.cur.bundle &&& s.m.k 0
    let size := 2 ^ z.toNat
    let addr (l : Nat) : Word := s.m.v a.toNat l + BitVec.ofNat 32 (o.toNat * size)
    let lanes := (List.range 32).filter (fun l => act.getLsbD l)
    let fails (l n : Nat) : Prop := ∃ code, s.m.sharedCheck s.m.cb (addr l) size = some (n, code)
    z.toNat ≤ 4 → ∀ e ∈ lanes, ∀ n, fails e n → (∀ l ∈ lanes, ∀ n', fails l n' → n ≤ n') → (∀ l ∈ lanes, fails l n → e ≤ l) →
    ∃ mask, (∀ l < 32, (mask.getLsbD l = true ↔ l ∈ lanes ∧ fails l n)) ∧
      let code := [4, 3, 6, 4].getD n 0
      exec (.lds h t a o z) s = traps s 3 code (addr e) (BitVec.ofNat 32 (e * 2 ^ 16)) mask ∧
      exec (.sts h t a o z) s = traps s 3 code (addr e) (BitVec.ofNat 32 (e * 2 ^ 16 + 2 ^ 24)) mask

/-- R81, R86 to R88, R158, R160, R358: LDC and LDX with every lane's line in the first level, and good for a read-only range, read its bytes
there and land after the first-level latency. With some lane's line missing there, and no store of its bytes in the store path, they send
requests for the missing lines, the other lanes read theirs now, and all land together when the data come, no earlier than the first-level
latency of those. No byte of Memory changes. -/
def Obligations.CommonsLoadsHitOrSendRequests : Prop :=
  ∀ (s : State) (h : Hdr) (t a : BitVec 6) (o : BitVec 4) (z : BitVec 3) (h1 : BitVec 2) (cross : Bool),
    let act := s.m.cur.bundle &&& s.m.k 0
    let size := 2 ^ z.toNat
    let addr (l : Nat) : Word := s.m.v a.toNat l + BitVec.ofNat 32 (o.toNat * size)
    let lanes := (List.range 32).filter (fun l => act.getLsbD l)
    let i : Instr := if cross then .ldx h t a o z h1 else .ldc h t a o z h1
    let at' (l : Nat) : Nat × Nat := s.m.commonsX s.m.cur.ham s.m.cb.ctx cross (addr l)
    let line (l : Nat) : Option L1Line := s.m.clear.l1Serving s.mem s.m.cur.ham (at' l).1 (at' l).2
      (s.m.readOnly s.m.cur.ham s.m.cb.ctx (commonsAddr s.m.cur.ham cross (addr l)).2) (s.m.begun s.m.cb)
    let lat := if size = 16 then 33 else if size = 8 then 31 else 30
    let miss := lanes.filter (fun l => (line l).isNone)
    let values (p : Pend) : Prop := ∀ l ∈ lanes, ∀ x, line l = some x → ∀ i < max 1 (size / 4), p.vals.get? (32 * (t.toNat + i) + l) =
      some (BitVec.ofNat 32 (bytesAt s.mem (x.key s.m.cur.ham + (at' l).2 % 128 + 4 * i) (min 4 size)))
    z.toNat ≤ 4 → act ≠ 0 → s.m.poison = [] → (∀ p ∈ s.m.cw.pends, p.id < s.m.nextId) →
    (∀ l ∈ lanes, (at' l).1 < 4 ∧ s.m.commonsCheck s.m.cur.ham s.m.cb.ctx cross (addr l) size false = none) →
    ((∀ l ∈ lanes, (line l).isSome = true) → Next (exec i s) fun u =>
      u.mem = s.mem ∧ keepsRegs s u ∧ u.m.reqs = s.m.reqs ∧ ∃ p, u.m.cw.pends = s.m.cw.pends ++ [p] ∧
        p.file = .v ∧ p.mask = act ∧ p.var = true ∧ p.land = some (s.m.now + lat) ∧ values p) ∧
    (miss ≠ [] → (∀ r ∈ s.m.reqs, r.kind ≠ .store) → Next (exec i s) fun u =>
      u.mem = s.mem ∧ keepsRegs s u ∧ ∃ p new, u.m.cw.pends = s.m.cw.pends ++ [p] ∧ u.m.reqs = s.m.reqs ++ new ∧
        p.file = .v ∧ p.mask = act ∧ p.var = true ∧ p.land = none ∧ (p.least = if miss = lanes then 0 else s.m.now + lat) ∧ values p ∧
        (∀ r ∈ new, r.kind = .load ∧ r.ham = s.m.cur.ham ∧ r.pend = p.id) ∧
        (∀ l ∈ miss, ∃ r ∈ new, r.die = (at' l).1 ∧ r.line = (at' l).2 / 128 ∧ (l, (at' l).2, []) ∈ r.lanes))

/-- R81, R155, R158, R386: STC and STX put each active lane's bytes into the store path as a request to their line's home, and update the
hamlet's first-level copies; no other byte of Memory changes, and no register and no lane. -/
def Obligations.CommonsStoresEnterTheStorePath : Prop :=
  ∀ (s : State) (h : Hdr) (t a : BitVec 6) (o : BitVec 4) (z : BitVec 3) (h1 : BitVec 2) (cross : Bool),
    let act := s.m.cur.bundle &&& s.m.k 0
    let size := 2 ^ z.toNat
    let addr (l : Nat) : Word := s.m.v a.toNat l + BitVec.ofNat 32 (o.toNat * size)
    let lanes := (List.range 32).filter (fun l => act.getLsbD l)
    let i : Instr := if cross then .stx h t a o z h1 else .stc h t a o z h1
    let at' (l : Nat) : Nat × Nat := s.m.commonsX s.m.cur.ham s.m.cb.ctx cross (addr l)
    z.toNat ≤ 4 → s.m.poison = [] → s.mem.wf = true →
    (∀ l ∈ lanes, (at' l).1 < 4 ∧ s.m.commonsCheck s.m.cur.ham s.m.cb.ctx cross (addr l) size true = none) →
    Next (exec i s) fun u =>
      keepsRegs s u ∧ u.m.cw.pends = s.m.cw.pends ∧
      (∀ c, (∀ l ∈ lanes, ∀ x, s.m.l1Commons s.m.cur.ham (at' l).1 (at' l).2 = some x →
          let k := x.key s.m.cur.ham + (at' l).2 % 128
          c < k ∨ k + size ≤ c) → u.mem.read c = s.mem.read c) ∧
      (∀ l ∈ lanes, ∃ r ∈ u.m.reqs.drop s.m.reqs.length, r.kind = .store ∧ r.ham = s.m.cur.ham ∧ r.die = (at' l).1 ∧
        r.line = (at' l).2 / 128 ∧ ∃ b, (l, (at' l).2, b) ∈ r.lanes ∧ b.length = size ∧
        (∀ j < size, b.getD j 0 = (s.m.v (t.toNat + j / 4) l).extractLsb' (8 * (j % 4)) 8))

/-- R86, R87: a Commons access with a failing lane traps in group 0x03 with the lowest failing condition's code. -/
def Sys2Proof.Claim.commonsAccessesCheckEveryLane : Prop :=
  ∀ (s : State) (h : Hdr) (t a : BitVec 6) (o : BitVec 4) (z : BitVec 3) (h1 : BitVec 2) (cross : Bool),
    let act := s.m.cur.bundle &&& s.m.k 0
    let size := 2 ^ z.toNat
    let addr (l : Nat) : Word := s.m.v a.toNat l + BitVec.ofNat 32 (o.toNat * size)
    let lanes := (List.range 32).filter (fun l => act.getLsbD l)
    let check (store : Bool) (l : Nat) := s.m.commonsCheck s.m.cur.ham s.m.cb.ctx cross (addr l) size store
    let stops (store : Bool) (i : Instr) : Prop :=
      ∀ e ∈ lanes, ∀ n code, check store e = some (n, code) →
        (∀ l ∈ lanes, ∀ n' code', check store l = some (n', code') → n ≤ n') →
        (∀ l ∈ lanes, ∀ code', check store l = some (n, code') → e ≤ l) →
        ∃ mask, (∀ l < 32, (mask.getLsbD l = true ↔ l ∈ lanes ∧ ∃ code', check store l = some (n, code'))) ∧
          exec i s = traps s 3 code (addr e)
            (BitVec.ofNat 32 (e * 2 ^ 16 + commonsSpace s.m.cur.ham cross (addr e) * 2 ^ 21 + if store then 2 ^ 24 else 0)) mask
    z.toNat ≤ 4 →
    stops false (if cross then .ldx h t a o z h1 else .ldc h t a o z h1) ∧
    stops true (if cross then .stx h t a o z h1 else .stc h t a o z h1)

/-- R74, R86, R87, R177: the address checks of shared and Commons accesses. -/
def Obligations.MemoryAccessesCheckEveryLane : Prop := sharedAccessesCheckEveryLane ∧ commonsAccessesCheckEveryLane

/-- R273, R299: the ten atomic functions; FADD is one FP32 addition under RNE. -/
def Sys2Proof.Claim.atomic (op : Nat) (old b b1 : Word) : Word :=
  match op with
  | 0 => old + b
  | 1 => BitVec.ofNat 32 (F32.add .rne old.toNat b.toNat).1
  | 2 => if old.toInt < b.toInt then old else b
  | 3 => if old.toInt < b.toInt then b else old
  | 4 => old &&& b
  | 5 => old ||| b
  | 6 => old ^^^ b
  | 7 => b
  | 8 => if old = b then b1 else old
  | _ => if b.toNat ≤ old.toNat then 0 else old + 1
/-- The ATOM word of a function number. -/
def Sys2Proof.Claim.atomInstr (op : Nat) (h : Hdr) (t a b : BitVec 6) (so : BitVec 3) : Instr :=
  match op with
  | 0 => .atomAdd h t a b so | 1 => .atomFadd h t a b so | 2 => .atomMin h t a b so | 3 => .atomMax h t a b so
  | 4 => .atomAnd h t a b so | 5 => .atomOr h t a b so | 6 => .atomXor h t a b so | 7 => .atomExch h t a b so
  | 8 => .atomCas h t a b so | _ => .atomInc h t a b so

/-- R172, R273, R299, R300: each ATOM on shared memory, the lanes of its group on different words, replaces the word of each lane that addresses
its own block by the function's new value and brings the old one to v[T] of the lane, after the bank ways of R73, all in one step; a lane that
addresses another block's rank goes into a request to that block; no other byte changes. -/
def Obligations.SharedAtomicsReplaceTheirWords : Prop :=
  ∀ (s : State) (h : Hdr) (t a b : BitVec 6) (op : Nat),
    let act := s.m.cur.bundle &&& s.m.k 0
    let addr (l : Nat) : Word := s.m.v a.toNat l
    let lanes := (List.range 32).filter (fun l => act.getLsbD l)
    let key (l : Nat) : Nat := sharedKey s.m.cur.ham s.m.cb ((addr l).toNat % 2 ^ 18)
    let old (l : Nat) : Word := BitVec.ofNat 32 (bytesAt s.mem (key l) 4)
    let all := (List.range 32).filter (fun l => ((s.m.cur.all ||| s.m.cur.bundle) &&& s.m.k 0).getLsbD l)
    let rank (l : Nat) : Nat := sharedRank s.m.cb (addr l)
    let off (l : Nat) : Nat := (addr l).toNat % 2 ^ 18
    let own := lanes.filter (fun l => rank l = s.m.cb.rank)
    op < 10 → act ≠ 0 → s.m.poison = [] → s.mem.wf = true → (∀ p ∈ s.m.cw.pends, p.id < s.m.nextId) →
    (∀ l ∈ lanes, s.m.sharedCheck s.m.cb (addr l) 4 = none) →
    (∀ l ∈ all, ∀ j ∈ all, l ≠ j → (rank l, off l) ≠ (rank j, off j)) →
    (∀ l ∈ own, ∀ j ∈ own, l ≠ j → key l + 4 ≤ key j ∨ key j + 4 ≤ key l) →
    Next (exec (atomInstr op h t a b 0) s) fun u =>
      keepsRegs s u ∧
      (∀ l ∈ own, bytesAt u.mem (key l) 4 = (atomic op (old l) (s.m.v b.toNat l) (s.m.v (b.toNat + 1) l)).toNat) ∧
      (∀ c, (∀ l ∈ own, c < key l ∨ key l + 4 ≤ c) → u.mem.read c = s.mem.read c) ∧
      ∃ p, u.m.cw.pends = s.m.cw.pends ++ [p] ∧ p.file = .v ∧ p.regs = [t.toNat] ∧ p.mask = act ∧ p.var = true ∧
        (∀ l ∈ own, p.vals.get? (32 * t.toNat + l) = some (old l) ∧ p.early.get? l = some (s.m.now + 25 + waysOf 4 (own.map off))) ∧
        (∀ l ∈ lanes, rank l ≠ s.m.cb.rank → ∃ r ∈ u.m.reqs.drop s.m.reqs.length, r.kind = .srmw ∧ r.op = op ∧ r.pend = p.id ∧
          s.m.peerOf s.m.cb (rank l) = some (r.home, r.block) ∧ ∃ b, (l, off l, b) ∈ r.lanes)

/-- R170, R172, R299, R300: an ATOM on Commons whose lanes pass their checks, the lanes of its group on different words, goes on: v[T] awaits the
old values; SO 1 and 2 hold no lane, SO 3 to 5 hold the active lanes where they go on; SO 2 to 5 drop the hamlet's first-level copies of their
lines in this cycle. -/
def Sys2Proof.Claim.commonsAtomicsAreIssued : Prop :=
  ∀ (s : State) (h : Hdr) (t a b : BitVec 6) (op : Nat) (so : BitVec 3),
    let act := s.m.cur.bundle &&& s.m.k 0
    let addr (l : Nat) : Word := s.m.v a.toNat l
    let lanes := (List.range 32).filter (fun l => act.getLsbD l)
    let all := (List.range 32).filter (fun l => ((s.m.cur.all ||| s.m.cur.bundle) &&& s.m.k 0).getLsbD l)
    let ox (l : Nat) : Nat := (s.m.commonsX s.m.cur.ham s.m.cb.ctx false (addr l)).2
    op < 10 → 1 ≤ so.toNat → so.toNat ≤ 5 → act ≠ 0 → s.m.poison = [] → (∀ p ∈ s.m.cw.pends, p.id < s.m.nextId) →
    (∀ l ∈ lanes, s.m.commonsCheck s.m.cur.ham s.m.cb.ctx false (addr l) 4 true = none) →
    (∀ l ∈ all, ∀ j ∈ all, l ≠ j → addr l ≠ addr j) →
    Next (exec (atomInstr op h t a b so) s) fun u =>
      (2 ≤ so.toNat → ∀ l ∈ lanes, u.m.l1Commons s.m.cur.ham (hamDie s.m.cur.ham) (ox l) = none) ∧
      u.m.cw.v = s.m.cw.v ∧ u.m.cw.s = s.m.cw.s ∧ u.m.cw.k = s.m.cw.k ∧ u.m.cw.fx = s.m.cw.fx ∧
      (∃ p, u.m.cw.pends = s.m.cw.pends ++ [p] ∧ p.file = .v ∧ p.regs = [t.toNat] ∧ p.mask = act ∧ p.var = true) ∧
      (∀ l < 32, act.getLsbD l = false → u.m.cw.lane l = s.m.cw.lane l) ∧
      (so.toNat ≤ 2 → u.m.cw.lanes = s.m.cw.lanes) ∧
      (3 ≤ so.toNat → ∀ l ∈ lanes, (u.m.cw.lane l).st = .held .atom ∧ (u.m.cw.lane l).pc = (s.m.cw.lane l).pc)

/-- R172: two lanes of an ATOM on one word trap in group 0x05, code 0x03, with the colliding lanes, and nothing is read or written. Where a hold
has split the group, its lanes are all compared, by each part when it runs (log 23: the model's choice). -/
def Sys2Proof.Claim.atomicsOnOneWordTrap : Prop :=
  ∀ (s : State) (h : Hdr) (t a b : BitVec 6) (op : Nat) (so : BitVec 3),
    let act := s.m.cur.bundle &&& s.m.k 0
    let addr (l : Nat) : Word := s.m.v a.toNat l
    let lanes := (List.range 32).filter (fun l => act.getLsbD l)
    let all := (List.range 32).filter (fun l => ((s.m.cur.all ||| s.m.cur.bundle) &&& s.m.k 0).getLsbD l)
    let place (l : Nat) : Nat × Nat :=
      if so = 0 then (sharedRank s.m.cb (addr l), (addr l).toNat % 2 ^ 18) else (0, (addr l).toNat)
    op < 10 → so.toNat ≤ 5 → act ≠ 0 →
    (∀ l ∈ lanes, if so = 0 then s.m.sharedCheck s.m.cb (addr l) 4 = none
      else s.m.commonsCheck s.m.cur.ham s.m.cb.ctx false (addr l) 4 true = none) →
    (∃ l ∈ all, ∃ j ∈ all, l ≠ j ∧ place l = place j) →
    ∃ mask, exec (atomInstr op h t a b so) s = traps s 5 3 s.m.cur.word 0 mask ∧
      (∀ l < 32, (mask.getLsbD l = true ↔ l ∈ all ∧ ∃ j ∈ all, l ≠ j ∧ place l = place j))

/-- R172, R299, R300: ATOM on Commons, and two lanes on one word. -/
def Obligations.CommonsAtomicsAreIssuedAndCollisionsTrap : Prop := commonsAtomicsAreIssued ∧ atomicsOnOneWordTrap

/-- R83, R84, R189, R337, R382: SPILL and FILL of slots within the block's spill range take the lowest free entry of the warp's operand log;
FILL's registers await their values; slots beyond the range trap in group 0x03, code 0x04; with a full log the word does not issue. -/
def Obligations.SpillAndFillTakeALogEntry : Prop :=
  ∀ (s : State) (h : Hdr) (t a : BitVec 6) (o : BitVec 4) (z : BitVec 3) (h1 : BitVec 2),
    let x := s.m.cw
    let act := s.m.cur.bundle &&& s.m.k 0
    let n := 2 ^ z.toNat / 4
    let j := (s.m.s a.toNat).toNat + o.toNat * n
    let entry (i : Instr) (store : Bool) (k : Nat) : Prop := ∀ num, x.freeLog = some num → Next (exec i s) fun u =>
      u.mem = s.mem ∧ keepsRegs s u ∧ u.m.cw.pends.length = x.pends.length + k ∧ u.m.cw.pends.take x.pends.length = x.pends ∧
      ∃ e, u.m.cw.log = x.log ++ [e] ∧ e.num = num ∧ e.store = store ∧ e.io = false ∧ e.mask = act ∧ e.slot = j ∧ e.size = 4 * n ∧
        e.reg = t.toNat ∧ e.addrs = (List.range n).map (fun i => (i, x.spillPtr + 128 * (j + i)))
    2 ≤ z.toNat → z.toNat ≤ 4 → act ≠ 0 →
    (j + n ≤ s.m.cb.spill → entry (.spill h t a o z h1) true 0 ∧ entry (.fill h t a o z h1) false n) ∧
    (j + n ≤ s.m.cb.spill → x.freeLog = none → ∀ i ∈ [Instr.spill h t a o z h1, .fill h t a o z h1],
      Next (exec i s) fun u => u.m.cur.stalled = true ∧ u.mem = s.mem ∧ u.m.cw.log = x.log ∧ u.m.cw.pends = x.pends) ∧
    (s.m.cb.spill < j + n → ∀ e, lowestLane act = some e → ∀ i ∈ [Instr.spill h t a o z h1, .fill h t a o z h1],
      ∃ d1, exec i s = traps s 3 4 (BitVec.ofNat 32 (x.spillPtr + 128 * j + 4 * e)) d1 act)

/-- R90, R189, R359, R387: LDIO and STIO, every lane inside an I/O window that permits the direction and aligned, take an entry of the operand
log; an LDIO's registers await their values; a lane outside every window traps the bundle in group 0x01, code 0x07. -/
def Obligations.DeviceAccessesTakeALogEntry : Prop :=
  ∀ (s : State) (h : Hdr) (t a : BitVec 6) (o : BitVec 4) (z : BitVec 3),
    let x := s.m.cw
    let act := s.m.cur.bundle &&& s.m.k 0
    let size := 2 ^ z.toNat
    let lanes := (List.range 32).filter (fun l => act.getLsbD l)
    let va (l : Nat) : Nat := ((s.m.v a.toNat l).toNat + 2 ^ 32 * (s.m.v (a.toNat + 1) l).toNat + o.toNat * size) % 2 ^ 64
    let entry (i : Instr) (store : Bool) (k : Nat) : Prop :=
      (∀ l ∈ lanes, s.m.inWindow s.m.cur.ham s.m.cb.ctx (va l) size store = true ∧ va l % size = 0) → ∀ num, x.freeLog = some num →
      Next (exec i s) fun u =>
        u.mem = s.mem ∧ keepsRegs s u ∧ u.m.cw.pends.length = x.pends.length + k ∧ u.m.cw.pends.take x.pends.length = x.pends ∧
        ∃ e, u.m.cw.log = x.log ++ [e] ∧ e.num = num ∧ e.store = store ∧ e.io = true ∧ e.mask = act ∧ e.size = size ∧
          e.addrs = lanes.map (fun l => (l, va l))
    let refused (i : Instr) (store : Bool) : Prop :=
      ∀ e ∈ lanes, s.m.inWindow s.m.cur.ham s.m.cb.ctx (va e) size store = false →
        (∀ l ∈ lanes, l < e → s.m.inWindow s.m.cur.ham s.m.cb.ctx (va l) size store = true) →
        exec i s = traps s 1 7 s.m.cur.word (BitVec.ofNat 32 (va e)) (BitVec.ofNat 32 (va e / 2 ^ 32 % 2 ^ 16 + e * 2 ^ 16))
    z.toNat ≤ 4 → act ≠ 0 → (∀ p ∈ x.pends, p.id < s.m.nextId) →
    entry (.ldio h t a o z) false 1 ∧ entry (.stio h t a o z) true 0 ∧ refused (.ldio h t a o z) false ∧ refused (.stio h t a o z) true

/-! ## Channels, engines and tasks -/

/-- R97, R101 to R103, R112, R280, R290, R316 to R320, R343: the six channel words. With no active lane they do nothing; a word that cannot
issue (a full channel queue, a slot that a LAYSET is still to write, no scoreboard entry) waits; a word that fails a check traps in group
0x04 with the check's code; any other puts its command, with the eight parameter words as they stand, at the tail of its channel, and
takes a scoreboard entry if it touches local bytes. -/
def Obligations.ChannelWordsQueueTheirCommand : Prop :=
  ∀ (s : State) (h : Hdr) (h1 : BitVec 2) (sr : BitVec 8) (n : BitVec 4) (p : BitVec 2) (z : BitVec 1),
    let m := s.m
    let act := m.activeAll z.toNat
    let ws := (List.range 8).map (fun i => m.s (sr.toNat + i))
    let ham (t : State) : Hamlet := t.m.ham m.cur.ham
    let queue (t : State) (c : Nat) : List Cmd := (ham t).chans.get [] c
    let queued (fn : Nat) (plan : Plan) (t : State) : Prop :=
      t.mem = s.mem ∧ t.m.cw = m.cw ∧ (ham t).eng = (ham s).eng ∧ (∀ c, c ≠ p.toNat → queue t c = queue s c) ∧
      (∃ c, queue t p.toNat = queue s p.toNat ++ [c] ∧ c.fn = fn ∧ c.warp = m.cur.warp ∧ c.block = m.cw.block ∧ c.ctx = m.cb.ctx ∧
        c.chan = p.toNat ∧ c.hint = h1.toNat ∧ c.bar = n.toNat ∧ c.arv = (ws.getD 6 0).getLsbD 8 ∧ c.words = ws ∧ c.rcd = plan.rcd ∧
        c.total = plan.total ∧ c.prog = 0 ∧ c.start = none) ∧
      (if plan.rd = none ∧ plan.wr = none then (ham t).sb = (ham s).sb
       else ∃ e, (ham t).sb = (ham s).sb ++ [e] ∧ e.block = m.cw.block ∧ e.rd = plan.rd ∧ e.wr = plan.wr)
    let word (fn : Nat) (i : Instr) : Prop :=
      (act = 0 → exec i s = .next (still s)) ∧
      (act ≠ 0 → m.cmdStall fn ws p.toNat = true → Next (exec i s) fun t =>
        t.m.cur.stalled = true ∧ t.mem = s.mem ∧ (ham t).chans = (ham s).chans ∧ (ham t).sb = (ham s).sb) ∧
      (act ≠ 0 → m.cmdStall fn ws p.toNat = false →
        (∀ plan, m.plan m.cur.ham m.cb fn ws = .ok plan → Next (exec i s) (queued fn plan)) ∧
        (∀ code, m.plan m.cur.ham m.cb fn ws = .error code →
          exec i s = traps s 4 code m.cur.word (engDetail m.cur.word p.toNat) 0))
    word 0 (.copy h h1 sr n p z) ∧ word 1 (.copys h h1 sr n p z) ∧ word 2 (.copym h h1 sr n p z) ∧ word 3 (.gath h h1 sr n p z) ∧
    word 4 (.pref h h1 sr n p z) ∧ word 5 (.amo h h1 sr n p z)

/-- R105, R133, R140, R150, R304, R322, R364, R372: CPWAIT, MMWAIT and QWAIT hold their active lanes at the successor until the block's write
pointer or command count has reached the value in s[S], and do nothing when it has; BATON.TAKE of a free baton takes it, of one that is
taken waits in the queue, and of a warp that holds or awaits it traps; BATON.PASS passes it to the head of the queue, and traps in a warp
that does not hold it. -/
def Obligations.WaitsAndBatonHoldTheirLanes : Prop :=
  ∀ (s : State) (h : Hdr) (sr : BitVec 8) (p : BitVec 2) (z : BitVec 1),
    let m := s.m
    let act := m.active z.toNat
    let x := m.cw
    let w := m.cur.warp
    let eng (t : State) : Engine := (t.m.ham m.cur.ham).eng
    let k := (m.s sr.toNat).toNat
    let held (why : Hold) (val : Word) (arg : Nat) (t : State) : Prop :=
      t.mem = s.mem ∧ t.m.cw.v = x.v ∧ t.m.cw.s = x.s ∧ t.m.cw.k = x.k ∧ t.m.cw.pends = x.pends ∧
      (∀ l < 32, act.getLsbD l = true → t.m.cw.lane l = { x.lane l with st := .held why, pc := m.cur.succ, arg, val }) ∧
      (∀ l < 32, act.getLsbD l = false → t.m.cw.lane l = x.lane l)
    let cp := m.cb.cwp.get 0 p.toNat - m.s sr.toNat
    let mine := ((eng s).q.filter (fun c => c.block = x.block)).length
    let quant := ((m.ham m.cur.ham).qeng.filter (fun c => c.block = x.block)).length
    (cp.toInt ≥ 0 → exec (.cpwait h sr p z) s = .next (still s)) ∧
    (act ≠ 0 → cp.toInt < 0 → Next (exec (.cpwait h sr p z) s) (held .cpwait (m.s sr.toNat) p.toNat)) ∧
    ((8 ≤ k ∨ mine ≤ k) → exec (.mmwait h sr z) s = .next (still s)) ∧
    (act ≠ 0 → k < 8 → k < mine → Next (exec (.mmwait h sr z) s) (held .mmwait (m.s sr.toNat) 0)) ∧
    (quant ≤ k → exec (.qwait h sr z) s = .next (still s)) ∧
    (act ≠ 0 → k < quant → Next (exec (.qwait h sr z) s) (held .qwait (m.s sr.toNat) 0)) ∧
    (act ≠ 0 → (eng s).baton = some w ∨ w ∈ (eng s).bq → exec (.batonTake h z) s = traps s 5 4 m.cur.word 0 0) ∧
    (act ≠ 0 → (eng s).baton = none → (eng s).bq = [] → Next (exec (.batonTake h z) s) fun t =>
      (eng t).baton = some w ∧ (eng t).bq = [] ∧ t.mem = s.mem ∧ t.m.cw.v = x.v ∧
      (∀ l < 32, act.getLsbD l = true → t.m.cw.lane l = { x.lane l with after := m.now + 4 })) ∧
    (act ≠ 0 → ∀ o, (eng s).baton = some o → o ≠ w → w ∉ (eng s).bq → Next (exec (.batonTake h z) s) fun t =>
      (eng t).baton = some o ∧ (eng t).bq = (eng s).bq ++ [w] ∧ held .baton 0 0 t) ∧
    (act ≠ 0 → (eng s).baton ≠ some w → exec (.batonPass h z) s = traps s 5 4 m.cur.word 0 0) ∧
    (act ≠ 0 → (eng s).baton = some w → Next (exec (.batonPass h z) s) fun t =>
      (eng t).baton = (eng s).bq.head? ∧ (eng t).bq = (eng s).bq.drop 1 ∧ (eng t).q = (eng s).q ∧ t.mem = s.mem)

/-- R142, R143, R282, R362, R363: MMOP, MMSP and MMDRAIN whose parameter block lies in the block's shared memory sample its 64 bytes at
issue; the command stands at the tail of the engine's queue with its barrier, and its block arrives 22 cycles later. Where the group waited
behind a FENCE or an ordered ATOM, the command keeps the place that it took when the group issued (R335). No byte, no register and no lane
changes. -/
def Obligations.MatrixWordsQueueTheirCommand : Prop :=
  ∀ (s : State) (h : Hdr) (h1 : BitVec 2) (sr : BitVec 8) (n : BitVec 4) (z : BitVec 1),
    let m := s.m
    let d := m.s sr.toNat
    let off := field d 0 27
    let eng (t : State) : Engine := (t.m.ham m.cur.ham).eng
    let lays (t : State) : List LayRead := (t.m.ham m.cur.ham).lays
    let block : List Byte := (List.range 64).map (fun i => s.mem.read (sharedKey m.cur.ham m.cb off + i))
    let place : Option Nat := m.cur.snap.bind (·.mm)
    (∀ c ∈ (eng s).q, c.id < m.nextId) → (∀ y ∈ lays s, ∀ k, y.ecmd = some k → k < m.nextId) →
    let word (fn : Nat) (i : Instr) : Prop :=
      (m.activeAll z.toNat = 0 → exec i s = .next (still s)) ∧
      (m.activeAll z.toNat ≠ 0 → field d 27 5 = 0 → off % 64 = 0 → off + 64 ≤ m.cb.carve → m.poison = [] →
        place.isSome = true ∨ ((eng s).q.filter (·.entry)).length < 8 → (m.ham m.cur.ham).sb.length ≤ 62 →
        m.sbWait m.cur.ham 0 false (gransOf (arrOff m.cb off) 64) = false →
        Next (exec i s) fun t =>
          t.mem = s.mem ∧ t.m.cw = m.cw ∧ (eng t).acc = (eng s).acc ∧ (eng t).tag = (eng s).tag ∧
          (∀ k c, place = some k → c ∈ (eng s).q → c.id = k → ∃ rcd lane,
            (eng t).q = updateFirst (fun d => d.id = k) (fun d => { d with hint := h1.toNat, bar := n.toNat, par := block, rcd, lane }) (eng s).q ∧
            lays t = updateFirst (fun y => y.ecmd = some k) (fun y => { y with bytes := some block, due := m.now + 22 }) (lays s)) ∧
          (place = none → ∃ c y, (eng t).q = (eng s).q ++ [c] ∧ lays t = lays s ++ [y] ∧ c.fn = fn ∧ c.warp = m.cur.warp ∧ c.block = m.cw.block ∧
            c.ctx = m.cb.ctx ∧ c.hint = h1.toNat ∧ c.bar = n.toNat ∧ c.entry = true ∧ c.phase = .awaiting ∧
            c.par = block ∧ c.misuse = ((eng s).baton ≠ some m.cur.warp) ∧
            y.ecmd = some c.id ∧ y.slot = none ∧ y.bytes = some block ∧ y.due = m.now + 22))
    word 0 (.mmop h h1 sr n z) ∧ word 1 (.mmsp h h1 sr n z) ∧ word 2 (.mmdrain h h1 sr n z)

/-- R99, R130, R355, R372: LAYSET of a record in the block's shared memory samples its 64 bytes at issue, to arrive 22 cycles later, and traps on
an address that fails the checks of a load (and in group 0x04 for bits [21:18] of a shared descriptor, log 23: DEDUCED from R102); QENQ whose words pass the checks of R130 puts its command at the tail of the quantisation
engine's queue with a scoreboard entry, and traps in group 0x04 with the code of the check that fails. -/
def Obligations.LaysetAndQenqSampleTheirWords : Prop :=
  ∀ (s : State) (h : Hdr) (sr : BitVec 8) (n : BitVec 4) (z : BitVec 1),
    let m := s.m
    let act := m.activeAll z.toNat
    let d := m.s sr.toNat
    let addr := d &&& 0x07FFFFFF
    let off := addr.toNat % 2 ^ 18
    let ham (t : State) : Hamlet := t.m.ham m.cur.ham
    let ws := (List.range 8).map (fun i => m.s (sr.toNat + i))
    (act = 0 → exec (.layset h sr n z) s = .next (still s) ∧ exec (.qenq h sr n z) s = .next (still s)) ∧
    (act ≠ 0 → field d 28 4 > 1 ∨ d.getLsbD 27 = true ∨ (field d 28 4 = 0 ∧ field d 18 4 ≠ 0) →
      exec (.layset h sr n z) s = traps s 4 1 m.cur.word (engDetail m.cur.word 0) 0) ∧
    (act ≠ 0 → field d 27 5 = 0 → field d 18 4 = 0 → m.poison = [] →
      (∀ code k, m.sharedCheck m.cb addr 64 = some (k, code) → ∃ d1 mask, exec (.layset h sr n z) s = traps s 3 code addr d1 mask) ∧
      (m.sharedCheck m.cb addr 64 = none → m.sbWait m.cur.ham 0 false (gransOf (arrOff m.cb off) 64) = false →
        Next (exec (.layset h sr n z) s) fun t =>
          t.mem = s.mem ∧ t.m.cw = m.cw ∧ ∃ y, (ham t).lays = (ham s).lays ++ [y] ∧ y.block = m.cw.block ∧ y.slot = some n.toNat ∧
            y.bytes = some ((List.range 64).map (fun i => s.mem.read (sharedKey m.cur.ham m.cb off + i))) ∧ y.due = m.now + 22)) ∧
    (act ≠ 0 → ∀ rd wr, m.planQenq m.cur.ham m.cw.block ws = .ok (rd, wr) → (ham s).qeng.length < 16 → (ham s).sb.length < 64 →
      Next (exec (.qenq h sr n z) s) fun t =>
        t.mem = s.mem ∧ t.m.cw = m.cw ∧ ∃ c e, (ham t).qeng = (ham s).qeng ++ [c] ∧ (ham t).sb = (ham s).sb ++ [e] ∧
          c.block = m.cw.block ∧ c.bar = n.toNat ∧ c.arv = (ws.getD 5 0).getLsbD 10 ∧ c.words = ws ∧ c.start = none ∧
          e.id = c.id ∧ e.rd = some rd ∧ e.wr = some wr) ∧
    (act ≠ 0 → ∀ code, m.planQenq m.cur.ham m.cw.block ws = .error code →
      exec (.qenq h sr n z) s = traps s 4 code m.cur.word (engDetail m.cur.word 5) 0)

/-- R211, R213, R277, R330, R390: TASKGET in a block of no job card answers 0 records 4 cycles later (R326: or when its
withheld group takes effect), and in a block of one asks its dealer;
TASKEND ends the block's open chunks that begin at the record in s[S]; ENQ samples the packet's 64 bytes and its queue number at issue. That
an ENQ which traps names engine 0 in TRAPD1 is the model's reading (log 20, DEDUCED). -/
def Obligations.TaskWordsAskTheirDealer : Prop :=
  ∀ (s : State) (h : Hdr) (sr : BitVec 8) (z : BitVec 1),
    let m := s.m
    let act := m.activeAll z.toNat
    let r := sr.toNat
    let off := m.s r &&& 0x0003FFFF
    let card := (m.launches.get? m.cb.launch).bind (·.card)
    let keeps (t : State) : Prop := t.mem = s.mem ∧ t.m.cw.v = m.cw.v ∧ t.m.cw.s = m.cw.s ∧ t.m.cw.k = m.cw.k ∧ t.m.cw.lanes = m.cw.lanes
    (act = 0 → ∀ i ∈ [Instr.taskget h sr z, .taskend h sr z, .enq h sr z], exec i s = .next (still s)) ∧
    (act ≠ 0 → card = none → Next (exec (.taskget h sr z) s) fun t => keeps t ∧ t.m.tasks = m.tasks ∧
      ∃ p, t.m.cw.pends = m.cw.pends ++ [p] ∧ p.file = .s ∧ p.regs = [r, r + 1] ∧ p.vals = [(r, 0), (r + 1, 0)] ∧
        p.land = landing s 4) ∧
    (act ≠ 0 → card.isSome = true → Next (exec (.taskget h sr z) s) fun t => keeps t ∧
      ∃ p k, t.m.cw.pends = m.cw.pends ++ [p] ∧ p.regs = [r, r + 1] ∧ p.land = none ∧ p.var = true ∧
        k ∈ t.m.tasks ∧ k.block = m.cw.block ∧ k.ham = m.cur.ham ∧ k.warp = m.cur.warp ∧ k.pend = p.id ∧ k.enq = none ∧ k.s = r) ∧
    (act ≠ 0 → card = none → exec (.taskend h sr z) s = .next (still s)) ∧
    (act ≠ 0 → ∀ c x, card = some c → m.cards.get? c = some x →
      let hit (k : Chunk) : Bool := k.ham = m.cur.ham && k.block = m.cw.block && !k.ended && k.first = (m.s r).toNat
      Next (exec (.taskend h sr z) s) fun t => t.mem = s.mem ∧ t.m.cw = m.cw ∧
        t.m.cards.get? c = some { x with
          chunks := x.chunks.filter (fun k => !hit k)
          endedRecords := x.endedRecords + ((x.chunks.filter hit).map (·.count)).foldl (· + ·) 0 }) ∧
    (act ≠ 0 → field (m.s r) 28 4 = 0 → m.poison = [] → m.sharedCheck m.cb off 64 = none →
      m.sbWait m.cur.ham 0 false (gransOf (arrOff m.cb off.toNat) 64) = false →
      Next (exec (.enq h sr z) s) fun t => keeps t ∧
        ∃ p k, t.m.cw.pends = m.cw.pends ++ [p] ∧ p.regs = [r + 2] ∧ p.land = none ∧ p.var = true ∧ k ∈ t.m.tasks ∧
          k.pend = p.id ∧ k.s = r + 2 ∧ m.now + 22 ≤ k.due ∧
          k.enq = some (m.s (r + 1), (List.range 64).map (fun i => s.mem.read (sharedKey m.cur.ham m.cb off.toNat + i)))) ∧
    (act ≠ 0 → field (m.s r) 28 4 ≠ 0 → exec (.enq h sr z) s = traps s 4 1 m.cur.word (engDetail m.cur.word 0) 0)

/-! ## Moves of the machine (spec/95): each, when its condition holds -/

/-- The registers, masks, flags and lanes of a warp are as they were. -/
def Sys2Proof.Claim.keepsWarp (x y : Warp) : Prop := y.v = x.v ∧ y.s = x.s ∧ y.k = x.k ∧ y.fx = x.fx ∧ y.lanes = x.lanes

/-- R37, R54, R57 to R59, R66, R184, R287, R394, R397: the moves of the active set, of a warp's counters, and the landing of VRD and VWR.
A lease's re-estimate clears the filter and the cycle count also with MEASURE = 0 and for a declared lease (log 23: DEDUCED from R54). None writes a byte, and but for the landings none changes a register or a lane. -/
def Obligations.ActiveSetMovesFollowTheirCounters : Prop :=
  ∀ (s : State) (h w : Nat),
    let m := s.m
    let x := m.warp h w
    let becomes (i : Instr) (p : Warp → State → Prop) : Prop :=
      Next (exec i s) fun t => t.mem = s.mem ∧ keepsWarp x (t.m.warp h w) ∧ p (t.m.warp h w) t
    let lands (i : Nat → Instr) (role : PRole) : Prop :=
      ∀ (p : Pend) (f : Nat → Nat) (g : Nat → Word) (c : Nat), x.pends = [p] → p.role = role → p.file = .v → p.mask ≠ 0 → c ≤ m.now →
        (∀ l, f l < 64) → x.fences = [] → x.withheld = [] → p.vals = (lanesOf p.mask).map (fun l => (32 * f l + l, g l)) → p.early = (lanesOf p.mask).map (fun l => (l, c)) →
        Next (exec (i p.id) s) fun t =>
          let y := t.m.warp h w
          t.mem = s.mem ∧ y.pends = [] ∧ y.s = x.s ∧ y.k = x.k ∧ y.fx = x.fx ∧ y.lanes = x.lanes ∧
          (∀ r, ∀ l < 32, y.vr r l = if p.mask.getLsbD l = true ∧ r = f l then g l else x.vr r l)
    (m.mayJoin h = true → m.joinWarp h = some w →
      becomes (.activeSetJoin h w) fun y t => y.active = true ∧ y.activated = m.now ∧ y.waitCnt = 0 ∧ (t.m.ham h).joined = some m.now) ∧
    (m.mayJoin h = true → m.forcedWarp h = some w → m.fitsActive h x = true →
      becomes (.forcedJoin h w) fun y _ => y.active = true ∧ y.activated = m.now ∧ y.waitCnt = 0) ∧
    (m.mayJoin h = true → m.forcedWarp h = some w → m.fitsActive h x = false → ∀ o, (m.ham h).oldest = some o → o ≠ w →
      becomes (.forcedJoin h w) fun y t => y.active = true ∧ (t.m.warp h o).active = false) ∧
    (x.active = true → x.ended = true ∨ 64 ≤ x.idle →
      becomes (.activeSetLeave h w) fun y _ => y.active = false ∧ y.waitCnt = 0) ∧
    (1024 ≤ x.actCycles → becomes (.leaseReestimate h w) fun y _ => y.actCycles = 0 ∧ y.filter = 0 ∧
      y.lease = if (m.reg (hamReg h 0x300)).getLsbD 0 = true ∧ x.decl = false then
        max ((List.range 256).filter (fun i => x.filter.getLsbD i)).length 1 else x.lease) ∧
    (4096 ≤ x.passed → becomes (.passedOverExpiry h w) fun y _ => y.prefer = true ∧ y.passed = x.passed) ∧
    (64 ≤ x.streak → becomes (.streakExpiry h w) fun y _ => y.second = true ∧ y.streak = x.streak) ∧
    (∀ c, x.yieldUntil = some c → c ≤ m.now → becomes (.yieldExpiry h w) fun y _ => y.yieldUntil = none) ∧
    (∀ c, x.saveWait = some c → c + 16384 ≤ m.now →
      becomes (.handlerModeSaveWaitExpiry h w) fun y _ => y.saveWait = none ∧ y.stopped = true ∧ y.hmode = x.hmode) ∧
    lands (fun n => .vrdLanding h w n) .vrd ∧ lands (fun n => .vwrLanding h w n) .vwr

/-- R31, R33, R43, R51, R77 to R79, R186, R189, R191 to R193, R249: placement of a cluster's
blocks and warps, eligibility and the end of blocks and contexts; the end of a page
walk, SFENCE.VMA and a fetch fault; a logged SPILL whose line is in the first level. -/
def Obligations.PlacementTranslationAndLogMoves : Prop :=
  ∀ (s : State) (h n w : Nat),
    let m := s.m
    let x := m.warp h w
    (∀ l, m.launches.get? n = some l → m.placeDue n = true → Next (exec (.clusterPlacement n) s) fun t =>
      t.m.launches.get? n = some { l with placed := l.placed + 1 } ∧
      ∃ hams : List Nat, hams.length = l.clb ∧ hams.Pairwise (· < ·) ∧ (∀ g ∈ hams, hamParish g = hamParish (hams.headD 0) ∧ 1 ≤ m.roomFor g l) ∧
        ∀ r < l.clb,
          let g := hams.getD r 0
          let k := (m.ham g).nextBlock
          (∃ b, (t.m.ham g).blocks.get? k = some b ∧ b.launch = n ∧ b.rank = r ∧ b.clusterId = l.placed ∧ b.lanes = l.lanes ∧
            b.carve = l.carve ∧ b.pairs = (m.ham g).freePairs.take l.pairs ∧ b.peers = hams.map (fun g => (g, (m.ham g).nextBlock)) ∧
            b.eligible = false ∧ m.now + 8 + 16 * b.pairs.length ≤ b.eligAt) ∧
          ∀ w < l.warps, ∃ j y, (t.m.ham g).warps.get? j = some y ∧ y.block = k ∧ y.idx = w ∧ y.ended = false ∧ y.v = [] ∧
            (∀ i < 32, y.sr i = l.args.getD i 0) ∧
            (∀ i < 32, y.lane i = if 32 * w + i < l.lanes then { st := .ready, pc := BitVec.ofNat 32 l.entry } else {})) ∧
    (∀ b, (m.ham h).blocks.get? n = some b → b.eligible = false → b.eligAt ≤ m.now → (m.launches.get default b.launch).heldStart = false →
      Next (exec (.blockWarpsEligible h n) s) fun t => t.mem = s.mem ∧ (t.m.ham h).blocks.get? n = some { b with eligible := true } ∧
        (t.m.ham h).warps = (m.ham h).warps) ∧
    (∀ b l, (m.ham h).blocks.get? n = some b → m.endDue h n = true → m.launches.get? b.launch = some l →
      Next (exec (.blockEnd h n) s) fun t => t.mem = s.mem ∧ (t.m.ham h).blocks.get? n = none ∧
        (∀ e ∈ (t.m.ham h).warps, e.2.block ≠ n) ∧ (∀ e ∈ (t.m.ham h).pairs, e.2 ≠ n) ∧
        t.m.launches.get? b.launch = some { l with endedBlocks := l.endedBlocks + 1 }) ∧
    (m.leaveDue s.mem h n = true → Next (exec (.contextLeave h n) s) fun t =>
      (t.m.ham h).ctxs.get? n = none ∧ ∀ c, c ≠ n → (t.m.ham h).ctxs.get? c = (m.ham h).ctxs.get? c) ∧
    (∀ k flags ppn pages ok m', (m.ham h).walks.find? (fun y => y.id = n) = some k → (m.satp h k.ctx).1 = 9 →
      m.clear.walkFrom s.mem (m.partHam h) k.vpn 4 (m.satp h k.ctx).2.2 = (.leaf flags ppn pages ok, m') →
      (∃ v ∈ k.waiters, leafCheck flags ok v.2 = none) → Next (exec (.pageWalkComplete h n) s) fun t =>
        (∀ y ∈ (t.m.ham h).walks, y.id ≠ n) ∧
        ∃ e ∈ (t.m.ham h).tlb, e.asid = k.asid ∧ e.vpn = k.vpn ∧ e.ppn = ppn ∧ e.pages = pages ∧ e.flags = flags) ∧
    (Next (exec (.sfenceVma h none none) s) fun t => t.mem = s.mem ∧ (t.m.ham h).tlb = [] ∧ (t.m.ham h).warps = (m.ham h).warps) ∧
    (∀ va asid, Next (exec (.sfenceVma h (some va) (some asid)) s) fun t => t.mem = s.mem ∧
      (t.m.ham h).tlb = (m.ham h).tlb.filter (fun e =>
        !(!e.glob && e.asid = asid && va % 2 ^ 48 / 4096 / 2 ^ e.pages = e.vpn / 2 ^ e.pages))) ∧
    (∀ lanes va, x.fetchBad = some (lanes, va) → lanes &&& x.readyMask ≠ 0 → Next (exec (.fetchFault h w n) s) fun t =>
      let y := t.m.warp h w
      y.fetchBad = none ∧ y.v = x.v ∧ y.s = x.s ∧ y.k = x.k ∧
      (∀ l < 32, y.lane l = if (lanes &&& x.readyMask).getLsbD l then { x.lane l with st := .parked .fetch } else x.lane l)) ∧
    (∀ e pa y, x.log.find? (fun e => e.id = n) = some e → x.logReady m.now e = true → e.store = true → e.io = false → e.todo = 1 →
      e.size = 4 → e.found = [] → m.translate h (m.warpCtx h w) (e.addrs.get 0 0) .store = .hit pa → m.reach (m.partHam h) pa true = .ok →
      m.l1Find h 0 0 (e.addrs.get 0 0 / 128) (m.ctx h (m.warpCtx h w)).num (pa / 128 * 128) = some y → m.poison = [] → s.mem.wf = true →
      (∀ l < 32, (e.data.get [] l).length = 4) → Next (exec (.operandLogAccess h w n) s) fun t =>
        (∀ l < 32, e.mask.getLsbD l = true → ∀ j < 4, t.mem.read (y.key h + 4 * l + j) = (e.data.get [] l).getD j 0) ∧
        (∀ c, (∀ l < 32, e.mask.getLsbD l = true → c < y.key h + 4 * l ∨ y.key h + 4 * l + 4 ≤ c) → t.mem.read c = s.mem.read c))

/-- R22, R28, R81, R88, R157, R159, R300, R358: a request of its own partition is accepted at its home's router; its access takes effect at the home, or
at the block whose shared memory it names; a peer that has no copy to give forwards it; and its data land in the register that waits, once no
lane's data are missing; the line of a Commons load is kept in the hamlet's first level, with the stores that the hamlet has made to it since,
unless it has been invalidated since. -/
def Obligations.RequestsMoveToTheirHomesAndBack : Prop :=
  ∀ (s : State) (n : Nat) (r : Req),
    let m := s.m
    m.req n = some r →
    (m.partOf r.router.2 = some r.tag → Next (exec (.flitEjection n) s) fun t => t.mem = s.mem ∧
      ∃ q, t.m.req n = some q ∧ q.stage = 1 ∧ q.kind = r.kind ∧ q.lanes = r.lanes ∧ q.home = r.home) ∧
    (m.partOf r.router.2 ≠ some r.tag → Next (exec (.flitEjection n) s) fun t =>
      t.m.routerErr.get 0 r.router.1 = m.routerErr.get 0 r.router.1 + 1 ∧ (r.ack = none → t.m.req n = none)) ∧
    (∀ l a b, r.kind = .store → m.poison = [] → s.mem.wf = true → r.lanes = [(l, a, b)] → Next (exec (.homeAccess n) s) fun t =>
      t.m.req n = none ∧
      (∀ c, t.mem.read c = let k := m.commonsKey r.tag r.die a
        if k ≤ c ∧ c < k + b.length then b.getD (c - k) 0 else s.mem.read c)) ∧
    (r.kind = .load → m.poison = [] → Next (exec (.homeAccess n) s) fun t => t.mem = s.mem ∧
      ∃ q, t.m.req n = some q ∧ q.stage = 3 ∧ q.data = (m.clear.commonsRead s.mem r.tag r.die (128 * r.line) 128).1) ∧
    (m.clear.l1Serving s.mem (r.peer.getD r.ham) r.die (128 * r.line) r.ro r.began = none → Next (exec (.peerForwardRequest n) s) fun t => t.mem = s.mem ∧
      ∃ q, t.m.req n = some q ∧ q.stage = 0 ∧ q.peer = none ∧ q.kind = r.kind) ∧
    (∀ x, m.poison = [] → m.clear.l1Serving s.mem (r.peer.getD r.ham) r.die (128 * r.line) r.ro r.began = some x →
      Next (exec (.peerForwardRequest n) s) fun t => t.mem = s.mem ∧
        ∃ q, t.m.req n = some q ∧ q.stage = 3 ∧ q.data = (List.range 128).map (fun i => m.clear.rd s.mem (x.key (r.peer.getD r.ham) + i))) ∧
    (∀ x l a b, r.kind = .sstore → m.poison = [] → s.mem.wf = true → (m.ham r.home).blocks.get? r.block = some x → r.lanes = [(l, a, b)] →
      Next (exec (.remoteSharedRequest n) s) fun t => t.m.req n = none ∧
        (∀ c, t.mem.read c = let k := sharedKey r.home x a
          if k ≤ c ∧ c < k + b.length then b.getD (c - k) 0 else s.mem.read c)) ∧
    (∀ p a v, r.kind = .sload → (m.warp r.ham r.warp).pends = [p] → p.id = r.pend → p.file = .v → p.vals = [] → p.early = [] →
      p.land = none → p.role = .plain → p.least ≤ m.now → (m.warp r.ham r.warp).fences = [] → (m.warp r.ham r.warp).withheld = [] →
      r.vals = [(a, v)] → (∀ q ∈ m.reqs, q.id ≠ n → q.pend ≠ r.pend) →
      Next (exec (.loadDataReturn n) s) fun t =>
        let y := t.m.warp r.ham r.warp
        t.mem = s.mem ∧ t.m.req n = none ∧ y.pends = [] ∧ y.s = (m.warp r.ham r.warp).s ∧ y.k = (m.warp r.ham r.warp).k ∧
        (∀ c, y.v.get 0 c = if c = a then v else (m.warp r.ham r.warp).v.get 0 c)) ∧
    (∀ p z, r.kind = .load → r.lay = none → z ≤ 4 → r.size = 2 ^ z → r.onPath = [] → s.mem.wf = true → (m.warp r.ham r.warp).pends = [p] →
      p.id = r.pend → p.file = .v → p.vals = [] → p.early = [] → p.land = none → p.role = .plain → p.least ≤ m.now →
      (m.warp r.ham r.warp).fences = [] → (m.warp r.ham r.warp).withheld = [] → (∀ q ∈ m.reqs, q.id ≠ n → q.pend ≠ r.pend) →
      (r.lanes.map (·.1)).Nodup → (∀ e ∈ r.lanes, e.1 < 32) →
      Next (exec (.loadDataReturn n) s) fun t =>
        let x := m.warp r.ham r.warp
        let y := t.m.warp r.ham r.warp
        t.m.req n = none ∧ y.pends = [] ∧ y.s = x.s ∧ y.k = x.k ∧ y.lanes = x.lanes ∧
        (∀ e ∈ r.lanes, ∀ i < max 1 (r.size / 4), y.v.get 0 (32 * (r.reg + i) + e.1) =
          BitVec.ofNat 32 ((List.range (min 4 r.size)).map (fun j => (r.data.getD (e.2.1 % 128 + (4 * i + j)) 0).toNat * 256 ^ j)).sum) ∧
        (∀ c, (∀ e ∈ r.lanes, ∀ i < max 1 (r.size / 4), c ≠ 32 * (r.reg + i) + e.1) → y.v.get 0 c = x.v.get 0 c) ∧
        (r.drop = true → (t.m.ham r.ham).l1 = (m.ham r.ham).l1) ∧
        (r.drop = false → ∃ k, t.m.l1Commons r.ham r.die (128 * r.line) = some k ∧
          ∀ j < 128, t.mem.read (k.key r.ham + j) = (r.patch.get? j).getD (r.data.getD j 0)))

/-- R97, R99, R104, R106, R131, R136, R289 to R292, R355: a channel and the quantisation engine start the command at the head of their queue;
a chunk of a push enters its FIFO; an acknowledgement is counted; an AMO replaces its word; a LAYSET's record lands in its slot; a
quantisation writes a block in each cycle, and leaves its queue when they are written. A push reads its source in the move in which its chunk
enters the FIFO (log 12: the model's choice; R173 leaves the cycle open). -/
def Obligations.ChannelsRunTheirCommands : Prop :=
  ∀ (s : State) (h ch n : Nat) (c : Cmd) (rest : List Cmd),
    let m := s.m
    let head (t : State) : Option Cmd := ((t.m.ham h).chans.get [] ch).head?
    let eng (t : State) : Engine := (t.m.ham h).eng
    let b := m.block h c.block
    ((m.ham h).chans.get [] ch = c :: rest →
      (ch < 4 → m.mayStart h ch = true → Next (exec (.commandStart h ch) s) fun t => t.mem = s.mem ∧
        ∃ d, head t = some d ∧ d.start = some m.now ∧ m.now + 20 ≤ d.due ∧ d.id = c.id ∧ d.words = c.words ∧ d.prog = c.prog) ∧
      (let d := (c.words.headD 0).toNat
       let k := min 128 (c.total - c.prog)
       c.fn = 1 → c.fifo = 2 → c.drain = none → c.found = none → c.addTo = none → c.zrows = none → c.discard = false → d < 2 ^ 28 →
       (eng s).dropW = 0 → (eng s).dropA = 0 → m.poison = [] → m.chunkDue h ch = true →
       Next (exec (.commandChunk h ch) s) fun t => t.mem = s.mem ∧ (eng t).fifoA = (eng s).fifoA ∧
         (eng t).fifoW.data = (eng s).fifoW.data ++ (m.clear.localRead s.mem h b 0 (d % 2 ^ 27 + c.prog) k).1) ∧
      (ch < 4 → 2 ≤ c.acks → Next (exec (.chunkAcknowledgement h ch c.id) s) fun t => t.mem = s.mem ∧
        head t = some { c with acks := c.acks - 1, lastAck := m.now }) ∧
      (∀ va z v e pa k at' m', amoOperands c.words = (va, z, v, e) → m.amoDue h ch = true → c.found = none → c.performed = false →
        m.translate h c.ctx va .amo = .hit pa → pa < 2 ^ 46 → pa / 2 ^ 40 = m.ownPkg →
        ((c.words.getD 6 0).getLsbD 5 = true → m.stackWaits pa = false) → m.reach (m.partHam h) pa true = .ok →
        m.clear.amoPlace s.mem h c pa = (k, at', m') → m.reserved c.id k = false → m'.bad k z = false → s.mem.wf = true →
        Next (exec (.amoPerform h ch) s) fun t =>
          (∀ j < z, t.mem.read (k + j) = (leBytes z (amoNew (field (c.words.getD 6 0) 0 4) (8 * z) (m'.rdNat s.mem k z) v e)).getD j 0))) ∧
    (∀ q r, (m.ham h).qeng = q :: r → m.qengMayStart h = true → Next (exec (.commandStart h 4) s) fun t => t.mem = s.mem ∧
      (t.m.ham h).qeng = { q with start := some m.now, due := m.now + 24 } :: r) ∧
    (∀ q r, (m.ham h).qeng = q :: r → m.qengDue h = true → m.poison = [] → q.fault = none → (∀ i < 3, (q.words.getD i 0).toNat < 2 ^ 27) →
      Next (exec (.qengComplete h) s) fun t =>
        (q.pos + 1 < q.blocks → (t.m.ham h).qeng = { q with pos := q.pos + 1, due := m.now + 1 } :: r) ∧
        (q.pos + 1 = q.blocks → q.acks = 0 → (t.m.ham h).qeng = r)) ∧
    (∀ y k, (m.ham h).lays.find? (fun y => y.id = n) = some y → m.laysetDue h y = true → y.slot = some k → recOk (y.bytes.getD []) = true →
      Next (exec (.laysetArrival h n) s) fun t => t.mem = s.mem ∧ (t.m.block h y.block).slots.get? k = y.bytes ∧
        (∀ z ∈ (t.m.ham h).lays, z.id ≠ n))

/-- R135, R136, R141, R143 to R150, R282, R356: what the matrix engine's moves do to its FIFOs, latches, accumulator rows and queue. An
MMSP of no nonzeros begins to drain at once (log 14: DEDUCED). -/
def Obligations.TheMatrixEngineRunsItsCommands : Prop :=
  ∀ (s : State) (h n : Nat) (c : ECmd) (rest : List ECmd),
    let m := s.m
    let eng (t : State) : Engine := (t.m.ham h).eng
    let p := parOf c.fn c.par
    ((eng s).shadowDue m.now = true → (eng s).stage.data = [] → Next (exec (.shadowLatchLoad h) s) fun t =>
      t.mem = s.mem ∧ (eng t).fifoW = (eng s).fifoW.drop 32 ∧ (eng t).fifoA = (eng s).fifoA ∧ (eng t).acc = (eng s).acc ∧
      ((eng t).stage.data = (eng s).fifoW.data.take 32 ∨ ∃ x, (eng t).shadow = some x ∧ x.bytes = (eng s).fifoW.data.take 32)) ∧
    (∀ (e : Engine) (f : Flow), e.flow = [f] → f.done = 0 → f.cols = 64 →
      (∀ now < f.entry + 114, (e.land now).acc = e.acc ∧ (e.land now).tag = e.tag) ∧
      (∀ k < 64, ∀ w < 64, (e.land (f.entry + 114 + k)).acc.get 0 (64 * f.row + w) =
        if w ≤ k then f.words.getD w 0 else e.acc.get 0 (64 * f.row + w))) ∧
    (∀ y d, (m.ham h).lays.find? (fun y => y.id = n) = some y → m.parDue h y = true → (eng s).q.find? (fun c => some c.id = y.ecmd) = some d →
      let m1 := m.clear.modHam h (fun x => { x with lays := x.lays.filter (fun z => z.id ≠ n) })
      (∀ w a, m1.mmCheck h d = .ok (w, a) → Next (exec (.parameterBlockArrival h n) s) fun t => t.mem = s.mem ∧
        ∃ e ∈ (eng t).q, e.id = d.id ∧ e.phase = .queued ∧ e.claimW = w ∧ e.claimA = a) ∧
      (∀ x, m1.mmCheck h d = .error x → Next (exec (.parameterBlockArrival h n) s) fun t => ∀ e ∈ (eng t).q, e.id ≠ d.id)) ∧
    ((eng s).q = c :: rest →
      (m.switchDue h = true → (eng s).switching = false → Next (exec (.engineContextSwitch h) s) fun t => t.mem = s.mem ∧
        (eng t).fifoW = {} ∧ (eng t).fifoA = {} ∧ (eng t).shadow = none ∧ (eng t).switching = true ∧ (eng t).acc = (eng s).acc) ∧
      (m.switchDue h = true → (eng s).switching = true → (m.ham h).engSaved.get? (m.ctxNum h c.ctx) = none →
        Next (exec (.engineContextSwitch h) s) fun t => t.mem = s.mem ∧ (eng t).acc = [] ∧ (eng t).tag = [] ∧ (eng t).active = none ∧
          (eng t).owner = some (m.ctxNum h c.ctx) ∧ (eng t).switching = false ∧ (eng t).switchEnd = m.now + 128) ∧
      (m.engStartDue h = true → c.starved = false → c.resume = none → Next (exec (.engineCommandStart h) s) fun t => t.mem = s.mem ∧
        (eng t).owner = some (m.ctxNum h c.ctx) ∧
        ∃ d, (eng t).q.head? = some d ∧ d.id = c.id ∧ d.phase = (if c.fn ≤ 1 then .running else .draining)) ∧
      (∀ x, m.tileDue h = true → c.starved = false → c.row = 0 → (eng s).shadow = some x → x.bad = false → x.fails = [] →
        natAt x.bytes 1 1 = p.bfmt + 16 * p.bkb.toNat → p.bfmt < 16 → Next (exec (.mmopTile h) s) fun t => t.mem = s.mem ∧
          (eng t).shadow = none ∧ (eng t).active = some { fmt := p.bfmt, kb := p.bkb, data := x.bytes.drop 32 } ∧
          ∃ d, (eng t).q.head? = some d ∧ d.row = 1) ∧
      (m.tileDue h = true → c.starved = false → c.row ≠ 0 → (eng s).fifoA.fails = [] → activOk p ((eng s).fifoA.data.take 32) = true →
        Next (exec (.mmopTile h) s) fun t => t.mem = s.mem ∧ (eng t).fifoA = (eng s).fifoA.drop 32 ∧
          ∃ d, (eng t).q.head? = some d ∧ d.phase = .rows ∧ d.row = 0) ∧
      (∀ l, m.rowDue h = true → p.akb = false → (eng s).active = some l → (eng s).fifoA.fails = [] → (eng s).accFails = [] →
        Next (exec (.activationRowEntry h) s) fun t =>
          let r := p.acc + c.row
          t.mem = s.mem ∧ (eng t).fifoA = (eng s).fifoA.drop (rowLen p.afmt (mmK p.bfmt)) ∧ (eng t).acc = (eng s).acc ∧
          (eng t).tag = (eng s).tag ∧ (∃ f, (eng t).flow = (eng s).flow ++ [f] ∧ f.entry = m.now ∧ f.cols = mmN l.fmt ∧ f.done = 0) ∧
          (∀ k, (eng t).tagOf k = if k = r then p.typ else (eng s).tagOf k) ∧
          (∀ k, k ≠ r → ∀ w < 64, (eng t).rowWord k w = (eng s).rowWord k w) ∧
          (∀ w < 64, (eng t).rowWord r w = (mmRow { eng s with fifoA := (eng t).fifoA } l r p.typ p.afmt (p.zero && c.tile = 0)
            ((eng s).fifoA.data.take (rowLen p.afmt (mmK p.bfmt))) [] false).getD w 0)) ∧
      (m.engDone h = true → c.chanDone ≠ some false → c.fault = none → c.short = false → Next (exec (.engineCommandComplete h) s) fun t =>
        (eng t).q = ((eng s).q.filter (fun d => d.id ≠ c.id)) ∧ (eng t).acc = (eng s).acc) ∧
      (m.drainStartDue h = true → p.code ≠ 4 → (eng s).accFails = [] → Next (exec (.drainStart h) s) fun t => t.mem = s.mem ∧
        (eng t).q = { c with started := true, short := false
                             due := if p.dop = 1 then m.now + 3 + (p.drainLen + 127) / 128 else m.now + 4 } :: rest) ∧
      (∀ x, m.reserveDue h = true → m.nextGran h c p = some x → Next (exec (.drainReserve h) s) fun t => t.mem = s.mem ∧
        t.m.resv = m.resv ++ [(c.did, 0, m.granKey h x)]) ∧
      (m.reserveDue h = true → m.nextGran h c p = none → Next (exec (.drainReserve h) s) fun t => t.mem = s.mem ∧
        (eng t).q = { c with reserved := true } :: rest) ∧
      (m.drainChunkDue h = true → p.dop = 0 → p.code = 0 → m.poison = [] → (eng s).accFails = [] → s.mem.wf = true →
        Next (exec (.drainChunk h) s) fun t =>
          let r := dRow p.dtype
          let n := min 128 (r - c.pos % r)
          let key (i : Nat) : Nat := sharedKey h (m.block h c.block) (p.off + c.pos / r * p.dstr + c.pos % r + i)
          (∃ d, (eng t).q.head? = some d ∧ d.pos = c.pos + n) ∧
          (∀ i < n, t.mem.read (key i) = ((eng s).rowBytes (p.acc + c.pos / r) p.dtype).getD (c.pos % r + i) 0) ∧
          (∀ a, (∀ i < n, a ≠ key i) → t.mem.read a = s.mem.read a)) ∧
      (m.mmspDue h = true → m.poison = [] →
        (∀ i ≤ p.rows, wordAt (m.clear.localRead s.mem h (m.block h c.block) 0 p.rptr (4 * (p.rows + 1))).1 (4 * i) = 0) →
        Next (exec (.mmspChunk h) s) fun t => t.mem = s.mem ∧ (eng t).active = none ∧
          ∃ d, (eng t).q.head? = some d ∧ d.phase = .draining ∧ d.due = m.now))

/-- R82, R111, R164, R169, R211 to R213, R299, R303, R331: cluster-barrier messages, flips and answers; the release of a fence and of an
ordered ATOM; a dealer's answer to TASKGET and a front-end's to ENQ; the load token and an acknowledged steal. A donor takes the
first request of the token and strikes it out (log 20: the model's choice; R212 names neither). A barrier's answer shows the asking block the
parity that its host has (log 23: DEDUCED from R111). -/
def Obligations.BarriersFencesAndTasksMove : Prop :=
  ∀ (s : State) (h w n : Nat),
    let m := s.m.clear
    let freed (x y : Warp) (mask : Word) (p : LaneState → Prop) (after : Nat) : Prop :=
      ∀ l < 32, mask.getLsbD l = true → p (x.lane l).st → goes x l → y.lane l = { x.lane l with st := .ready, after }
    let gets (t : State) (k : Task) (f : Word → Word → Prop) : Prop :=
      ∀ p, (m.warp k.ham k.warp).pends = [p] → p.id = k.pend → ∃ (a : SMap Word) (at' : Nat),
        (t.m.warp k.ham k.warp).pends = [{ p with vals := p.vals ++ a, land := some at' }] ∧ f (a.get 0 k.s) (a.get 0 (k.s + 1))
    (∀ g e, m.msgs.find? (fun y => y.id = n) = some g → g.own = false → g.item = .barrd e → g.lanes ≠ 0 →
      ((m.ham g.dst).blocks.get? g.dblock).isSome = true →
      let b := (m.block g.dst g.dblock).barOf true g.bar
      let back (t : State) (ok : Bool) : Prop :=
        ∃ a ∈ t.m.msgs, a.item = .answer ok b.ph false false none ∧ a.src = g.dst ∧ a.dst = g.src ∧ a.dblock = g.sblock ∧ a.lanes = g.lanes
      (1 ≤ b.exp + b.dlt - e → Next (exec (.clusterBarrierMessage n) s) fun t => t.mem = s.mem ∧ back t true ∧
        (t.m.block g.dst g.dblock).barOf true g.bar = { b with dlt := b.dlt - e }) ∧
      (b.exp + b.dlt - e < 1 → Next (exec (.clusterBarrierMessage n) s) fun t => t.mem = s.mem ∧ back t false ∧
        (t.m.block g.dst g.dblock).barOf true g.bar = b)) ∧
    (∀ g ph x, m.msgs.find? (fun y => y.id = n) = some g → g.item = .flip ph → ((m.ham g.dst).blocks.get? g.dblock).isSome = true →
      (m.ham g.dst).warps.get? w = some x → x.block = g.dblock → x.ended = false → ((m.block g.dst g.dblock).bar g.bar).cl = true →
      Next (exec (.clusterFlipMessage n) s) fun t => t.mem = s.mem ∧ ((t.m.block g.dst g.dblock).bar g.bar).ph = ph ∧
        ∀ l < 32, (x.lane l).st = .held .bwait → (x.lane l).arg = g.bar → goes x l →
          (t.m.warp g.dst w).lane l = { x.lane l with st := .ready, after := m.now + 4 }) ∧
    (∀ g ph flip, m.msgs.find? (fun y => y.id = n) = some g → g.item = .answer true ph flip false none → g.pend = 0 →
      let x := m.warp g.dst g.warp
      Next (exec (.barrierAnswer n) s) fun t => t.mem = s.mem ∧
        freed x (t.m.warp g.dst g.warp) g.lanes (fun k => k = .held .hosted) m.now ∧
        (g.own = false → ((m.block g.dst g.dblock).bar g.bar).cl = true → ((t.m.block g.dst g.dblock).bar g.bar).ph = (ph ^^ flip)) ∧ (∀ y ∈ t.m.msgs, y.id ≠ n)) ∧
    (∀ f, h < 640 → w < 64 → m.fenceDue h w = some f → f.rest = [] → f.enc = none → (m.reg (wctlReg h w)).getLsbD 0 = false →
      Next (exec (.fenceRelease h w) s) fun t => t.mem = s.mem ∧ f ∉ (t.m.warp h w).fences ∧
        freed (m.warp h w) (t.m.warp h w) f.mask (fun k => k = .held .fence) (max m.now (f.issue + 4)) ∧
        (f.kind ≠ 1 → 1 ≤ m.scopeOf f.kind f.scope → ∀ y ∈ (t.m.ham h).l1, y.kind = 0) ∧
        (f.kind = 3 → m.sequencer = true → t.m.reg (netReg 0 0x84) = m.reg (netReg 0 0x84) + 1)) ∧
    (∀ f j, h < 640 → w < 64 → m.atomDue h w = some (f, j) → j.sent = true → f.rest = [] → f.enc = none →
      (m.reg (wctlReg h w)).getLsbD 0 = false →
      Next (exec (.orderedAtomRelease h w) s) fun t => t.mem = s.mem ∧ f ∉ (t.m.warp h w).fences ∧ (∀ y ∈ (t.m.ham h).l1, y.kind = 0) ∧
        freed (m.warp h w) (t.m.warp h w) f.mask (fun k => k = .held .atom) (max (m.now + 4) (f.issue + 4))) ∧
    (∀ k b id, m.tasks.find? (fun y => y.id = n && y.enq.isNone) = some k → k.due ≤ m.now →
      (m.ham k.ham).blocks.get? k.block = some b → m.cardOf b = some id →
      let c := m.cards.get default id
      let left := c.stop - c.next
      let active := ((m.hams.flatMap (fun e => e.2.blocks)).filter (fun x => x.2.launch = b.launch && x.2.dealing && x.2.eligible)).length
      (b.dealing = true → 1 ≤ active → m.placementStopped (m.ctx k.ham b.ctx).num = false → c.next < c.stop →
        let count := min left (max c.minchunk ((left + 2 * active - 1) / (2 * active)))
        Next (exec (.taskDeal n) s) fun t => t.mem = s.mem ∧
          t.m.cards.get default id =
            { c with next := c.next + count, chunks := c.chunks ++ [{ ham := k.ham, block := k.block, first := c.next, count }] } ∧
          gets t k (fun x y => x = BitVec.ofNat 32 c.next ∧ y = BitVec.ofNat 32 count)) ∧
      (c.stop ≤ c.next → Next (exec (.taskDeal n) s) fun t => t.mem = s.mem ∧ t.m.cards = m.cards ∧
        (t.m.block k.ham k.block).dealing = false ∧ gets t k (fun _ y => y = 0))) ∧
    (∀ k qw b, m.enqDue = some k → k.id = n → k.enq = some (qw, b) →
      let q := qw.toNat
      let tenant := k.tenant
      let gone : Mach := { m with tasks := m.tasks.filter (fun x => x.id ≠ k.id) }
      (1024 ≤ q ∨ m.queues.get? q = none → Next (exec (.enqRequest n) s) fun t => t.mem = s.mem ∧ gets t k (fun x _ => x = 3)) ∧
      (q < 1024 → ∀ x, m.queues.get? q = some x →
        (x.shadow.tenant ≠ tenant → m.filterOpen tenant q (natAt b 0 1) = false → Next (exec (.enqRequest n) s) fun t =>
          t.mem = s.mem ∧ t.m.reg (stwReg 0x2800) = m.reg (stwReg 0x2800) + 1 ∧ t.m.queues = m.queues ∧ gets t k (fun x _ => x = 2)) ∧
        (x.shadow.tenant = tenant ∨ m.filterOpen tenant q (natAt b 0 1) = true → ∀ st m', gone.placePacket s.mem q b = .ok st m' →
          Next (exec (.enqRequest n) s) fun t => t.mem = s.mem.commit m'.wr ∧ t.m.tasks = gone.tasks ∧
            gets t k (fun x _ => x = BitVec.ofNat 32 st)))) ∧
    (∀ z loads requests, (z % 2 ^ 16 + 2 ^ 16 - m.podSeq) % 2 ^ 16 < 2 ^ 15 →
      let mine := m.stealReturn.podLoad
      let loads' := (loads.map (· % 2 ^ 16)).set m.ownPkg mine
      let asks : Prop := 2 * mine * loads'.length < loads'.foldl (· + ·) 0 ∧ m.ownPkg ∉ requests
      let sent (t : State) (l : List Nat) : Prop := t.m.podSeq = z % 2 ^ 16 ∧ t.m.podLast = m.now ∧
        t.m.podForwarded = m.podForwarded ++ [(z % 2 ^ 16, loads', l)]
      let gives : Prop := (∀ x ∈ loads', x ≤ mine) ∧ 2 * loads'.foldl (· + ·) 0 < mine * loads'.length
      (requests.find? (· ≠ m.ownPkg) = none ∨ ¬ gives → Next (exec (.loadToken z ⟨loads, requests⟩) s) fun t => t.mem = s.mem ∧
        (asks → sent t (requests ++ [m.ownPkg])) ∧ (¬ asks → sent t requests)) ∧
      (∀ d m1, requests.find? (· ≠ m.ownPkg) = some d → gives → ¬ asks → m.stealReturn.donate s.mem d = (true, m1) →
        Next (exec (.loadToken z ⟨loads, requests⟩) s) fun t => t.mem = s.mem.commit m1.wr ∧ t.m.podShipped = m1.podShipped ∧
          t.m.cards = m1.cards ∧ t.m.podSeq = z % 2 ^ 16 ∧
          t.m.podForwarded = m1.podForwarded ++ [(z % 2 ^ 16, loads', dropFirst (fun d => d ≠ m.ownPkg) requests)])) ∧
    (m.ownPkg = 0 → m.podLast + feCycles (2 ^ 20) ≤ m.now → Next (exec .loadTokenReissue s) fun t => t.mem = s.mem ∧
      t.m.podSeq = (m.podSeq + 1) % 2 ^ 16 ∧ t.m.podLast = m.now) ∧
    (∀ c a k, m.cards.get? n = some c → c.shipped = some (a, k) → Next (exec (.stealAck n) s) fun t => t.mem = s.mem ∧
      t.m.cards.get? n = some { c with records := c.records - k, shipped := none })

/-- R200, R202, R204 to R211, R232: doorbells; the start of a packet or the halt of its queue; the moves of LAUNCH, BATCH, WAITSEM, SIGNAL,
COPYQ, FENCEQ and QMARK; completions. Hypotheses name what the front-end reads and writes in the queue's context; its faults and waits are
those of the accesses. A doorbell that finds an illegal BASE or L keeps the queue's ring, and COPYQ moves 128 bytes at a time, in the order of
their addresses (log 20: the model's choices; R208 leaves the order open, and no rule gives the size). -/
def Obligations.QueuesRunTheirPackets : Prop :=
  ∀ (s : State) (q : Nat) (x : Queue),
    let m := s.m.clear
    m.queues.get? q = some x →
    let isOver (t : State) (p : Packet) : Prop := t.m.cqueue = m.cqueue ++ [(q, p.idx)]
    let entry (t : State) (p : Packet) (f : Packet → Prop) : Prop := ∃ y ∈ (t.m.queue q).packets, y.idx = p.idx ∧ f y
    (∀ pa b m0 m', (m.modQueue q (fun x => { x with rung := true })).feXlat s.mem x.shadow.ctx x.qcb .load = .ok pa m0 →
      m0.feRead s.mem x.shadow.ctx x.qcb 64 2 = .ok b m' →
      let take := x.ridx = x.widx ∧ 4 ≤ natAt b 8 4 ∧ natAt b 8 4 ≤ 16 ∧ natAt b 0 8 % 64 = 0
      Next (exec (.qdbRing q) s) fun t => t.mem = s.mem.commit m'.wr ∧ t.m.queue q =
        { x with qcbPa := some pa, known := true, base := if take then natAt b 0 8 else x.base, l := if take then natAt b 8 4 else x.l,
                 widx := natAt b 0xC 4, qsb := natAt b 0x10 8, rung := false }) ∧
    (x.halt = false → (∀ p ∈ x.packets, p.halted = false) → exec (.qdbResume q) s = .next (still s)) ∧
    (x.halt = true → ∀ m', (m.modQueue q (fun x => { x with halt := false, packets := x.packets.map (fun p =>
        { p with again := p.halted }) })).qsbWrite s.mem q = .ok () m' →
      Next (exec (.qdbResume q) s) fun t => t.mem = s.mem.commit m'.wr ∧
        ((t.m.queue q).halt = false ∨ (t.m.queue q).err = 7) ∧ (∀ p ∈ (t.m.queue q).packets, p.again = p.halted) ∧
        (t.m.queue q).ridx = x.ridx) ∧
    (m.startDue q = true → x.rung = false → (∀ p ∈ x.packets, p.again = false) → x.cidx = x.ridx → ∀ b m1,
      (m.modQueue q (fun x => { x with shadow := x.steward, barred := false })).feRead s.mem x.steward.ctx
        (x.base + 64 * (x.ridx % 2 ^ x.l)) 64 2 = .ok b m1 →
      (∀ m2 m3, m1.packetErr s.mem x.steward x.seq b = .ok 0 m2 →
        let p := newPacket x.ridx b x.steward
        (m2.modQueue q (fun y => { y with ridx := (x.ridx + 1) % 2 ^ 32, seq := p.seq, packets := y.packets ++ [p] })).qsbWrite s.mem q =
          .ok () m3 →
        Next (exec (.packetStart q) s) fun t => t.mem = s.mem.commit m3.wr ∧ (t.m.queue q).packets = x.packets ++ [p] ∧
          (t.m.queue q).ridx = (x.ridx + 1) % 2 ^ 32 ∧ (t.m.queue q).seq = natAt b 4 4) ∧
      (∀ e m2 m3, e ≠ 0 → x.halt = false → m1.packetErr s.mem x.steward x.seq b = .ok e m2 →
        m2.haltAt s.mem q e x.ridx (natAt b 4 4) = .ok () m3 →
        Next (exec (.packetStart q) s) fun t => (t.m.queue q).halt = true ∧ (t.m.queue q).err = e ∧
          (t.m.queue q).errIdx = x.ridx % 2 ^ x.l ∧ (t.m.queue q).errSeq = natAt b 4 4 % 2 ^ 32 ∧ (t.m.queue q).ridx = x.ridx)) ∧
    (∀ p args m', m.opening q 1 = some p → m.feRead s.mem p.ctx (natAt p.body 0x10 8) 128 3 = .ok args m' →
      Next (exec (.launch q) s) fun t => t.mem = s.mem.commit m'.wr ∧
        t.m.launches.get? m'.nextId = some { launchOf q p p.body args none false with began := m.now } ∧
        entry t p (fun y => y.begun = true ∧ y.launches = [m'.nextId])) ∧
    (∀ p b args m1 m2, m.opening q 2 = some p → m.feRead s.mem p.ctx (natAt p.body 8 8) 64 2 = .ok b m1 →
      ({ m1 with nextId := m1.nextId + 1 } : Mach).feRead s.mem p.ctx (natAt b 0x10 8) 128 3 = .ok args m2 →
      Next (exec (.batch q) s) fun t => t.mem = s.mem.commit m2.wr ∧
        t.m.launches.get? m2.nextId = some { launchOf q p b args (some m1.nextId) false with began := m.now } ∧
        t.m.cards.get? m1.nextId = some { queue := q, launch := m2.nextId, records := natAt p.body 0x18 4, recBytes := natAt p.body 0x1C 1,
                                          minchunk := natAt p.body 0x1E 2, next := 0, stop := natAt p.body 0x18 4,
                                          array := natAt p.body 0x10 8, packet := p.idx } ∧
        entry t p (fun y => y.begun = true ∧ y.launches = [m2.nextId] ∧ y.card = some m1.nextId)) ∧
    (∀ (i : Instr) p b m', (i = .waitsem q ∧ m.opening q 3 = some p) ∨ (i = .waitsemPoll q ∧ m.pollDue q = some p) →
      m.feRead s.mem p.ctx (natAt p.body 8 8) 8 1 = .ok b m' →
      (semHolds (natAt p.body 0x18 1 % 4) (leNat b) (natAt p.body 0x10 8) = true → Next (exec i s) fun t => isOver t p) ∧
      (semHolds (natAt p.body 0x18 1 % 4) (leNat b) (natAt p.body 0x10 8) = false → natAt p.body 0x1C 4 ≠ p.polls + 1 →
        Next (exec i s) fun t => t.m.cqueue = m.cqueue ∧
          entry t p (fun y => y.polls = p.polls + 1 ∧ y.next = m.now + feCycles (min (64 * 2 ^ (min (p.polls + 1) 11 - 1)) 65536)))) ∧
    (∀ p b m1 m2, m.opening q 4 = some p → m.feRead s.mem p.ctx (natAt p.body 8 8) 8 1 = .ok b m1 →
      m1.feWrite s.mem p.ctx (natAt p.body 8 8)
        (leBytes 8 (if natAt p.body 0x18 1 % 2 = 1 then (leNat b + natAt p.body 0x10 8) % 2 ^ 64 else natAt p.body 0x10 8)) .amo 1 =
        .ok () m2 →
      Next (exec (.signal q) s) fun t => t.mem = s.mem.commit m2.wr ∧ isOver t p) ∧
    (∀ p b m1 m2, m.copyDue q = some p → (∀ y ∈ x.packets, y.idx = p.idx → y = p) →
      let j := min 128 (natAt p.body 0x18 4 - p.next)
      m.feRead s.mem p.ctx (natAt p.body 8 8 + p.next) j 2 = .ok b m1 →
      m1.feWrite s.mem p.ctx (natAt p.body 0x10 8 + p.next) b .store 2 = .ok () m2 →
      Next (exec (.copyq q) s) fun t => t.mem = s.mem.commit m2.wr ∧
        (natAt p.body 0x18 4 ≤ p.next + j → isOver t p) ∧
        (p.next + j < natAt p.body 0x18 4 → t.m.cqueue = m.cqueue ∧ entry t p (fun y => y.next = p.next + j))) ∧
    (∀ p, m.opening q 7 = some p → Next (exec (.fenceq q) s) fun t => t.mem = s.mem ∧ isOver t p ∧
      (m.sequencer = true → t.m.reg (netReg 0 0x84) = m.reg (netReg 0 0x84) + 1)) ∧
    (∀ p m', m.opening q 8 = some p → m.qsbPut s.mem q = .ok () m' → Next (exec (.qmark q) s) fun t => t.mem = s.mem.commit m'.wr ∧ isOver t p ∧
      ∀ f ∈ m.funcsOf p.tenant, (t.m.funcs.get {} f).events.getLast? = some (2, BitVec.ofNat 32 q, BitVec.ofNat 32 p.seq)) ∧
    (m.completeDue q = true →
      let done := x.packets.takeWhile (fun p => p.done)
      (done = [] → Next (exec (.packetComplete q) s) fun t => t.mem = s.mem ∧ (∀ e ∈ t.m.cqueue, e.1 ≠ q) ∧
        (t.m.queue q).cidx = x.cidx % 2 ^ 32 ∧ (t.m.queue q).packets = x.packets) ∧
      (done ≠ [] → Next (exec (.packetComplete q) s) fun t =>
        ((t.m.queue q).cidx = (x.cidx + done.length) % 2 ^ 32 ∧ (t.m.queue q).packets = x.packets.drop done.length ∧
          (∀ e ∈ t.m.cqueue, e.1 ≠ q)) ∨
        (t.m.queue q = { x with due := m.now + 1 } ∧ t.m.cqueue = m.cqueue ∧ t.mem = s.mem)))

/-- R184, R215, R216, R218 to R220: the moves of a muster, of the watchdogs, and of a save and a restore. -/
def Obligations.MustersWatchdogsAndSavesMove : Prop :=
  ∀ (s : State) (q n : Nat),
    let m := s.m.clear
    let prstat (t : State) : Word := t.m.reg (stwReg 0x3210)
    let fits (m : Mach) (l : List Nat) : Prop := ∀ id ∈ l, m.neverFits (m.launches.get default id) = false
    let restarts (i : Instr) : Prop := m.servedBy n = [] → Next (exec i s) fun t => t.mem = s.mem ∧ t.m.kicks.get? n = some m.now ∧
      t.m.regField (cpqReg (n / 4) (0x200 + 4 * (n % 4))) 24 8 = min 255 (m.regField (cpqReg (n / 4) (0x200 + 4 * (n % 4))) 24 8 + 1) ∧
      ∀ x, m.cpus.get? (640 + n) = some x → ∃ y, t.m.cpus.get? (640 + n) = some y ∧ y.pc = x.start ∧ y.mode = 3 ∧
        y.x = [(10, BitVec.ofNat 64 (640 + n))] ∧ y.csr = [] ∧ y.resv = none
    (∀ p ids m1 m2, m.musterDue q = some p → m.addParts s.mem q p (musterParts p.body) = .ok ids m1 →
      (((m1.modPacket q p.idx (fun p' => { p' with begun := true, parts := musterParts p.body, launches := ids })).modPacket q p.idx
        (fun p => { p with retry := none })).modQueue q (fun x => { x with mustate := 1 })).qsbWrite s.mem q = .ok () m2 → fits m2 ids →
      Next (exec (.muster q) s) fun t => t.mem = s.mem.commit m2.wr ∧ (t.m.queue q).mustate = 1 ∧
        ∃ y ∈ (t.m.queue q).packets, y.idx = p.idx ∧ y.begun = true ∧ y.parts = musterParts p.body ∧ y.launches = ids) ∧
    (∀ p id, m.nextPart q = some (p, n, id) → m.grantDue q = some n → fits m [id] →
      let m1 : Mach := { m.placeAll s.mem id with reservations := m.reservations.set n q }
      (p.parts.all (fun e => decide (m1.reservations.get? e.1 = some q)) = false →
        Next (exec (.musterReserveGrant q n) s) fun t => t.mem = s.mem.commit m1.wr ∧ t.m.reservations.get? n = some q) ∧
      (p.parts.all (fun e => decide (m1.reservations.get? e.1 = some q)) = true → ∀ m2,
        (m1.modQueue q (fun x => { x with mustate := 2 })).qsbWrite s.mem q = .ok () m2 →
        Next (exec (.musterReserveGrant q n) s) fun t => t.mem = s.mem.commit m2.wr ∧ (t.m.queue q).mustate = 2 ∧
          (∀ e ∈ t.m.reservations, e.2 ≠ q) ∧ ∃ c new, t.m.tokens = m1.tokens ++ new ∧ new.map (fun x => (x.part, x.launch)) = p.partLaunches ∧
            ∀ x ∈ new, x.queue = q ∧ m.now < c ∧ c ≤ x.due ∧ x.due ≤ c + 4096)) ∧
    (∀ k l, m.tokenDue q n = some k → m.launches.get? k.launch = some l →
      Next (exec (.musterStartToken q n) s) fun t => t.mem = s.mem ∧ t.m.tokens.length + 1 = m.tokens.length ∧ (∀ x ∈ t.m.tokens, x ∈ m.tokens) ∧
        t.m.launches.get? k.launch = some (if l.heldStart then { l with heldStart := false, began := m.now } else l) ∧
        t.m.reservations = m.reservations) ∧
    (∀ p m2, m.retryDue q = some p →
      ((m.modPacket q p.idx (fun p => { p with retry := none })).modQueue q (fun x => { x with mustate := 1 })).qsbWrite s.mem q = .ok () m2 →
      fits m2 p.launches → Next (exec (.musterRetry q) s) fun t => t.mem = s.mem.commit m2.wr ∧ (t.m.queue q).mustate = 1 ∧
        ∃ y ∈ (t.m.queue q).packets, y.idx = p.idx ∧ y.retry = none) ∧
    ((∀ c, m.kicks.get? n = some c → c + feCycles (2 ^ 16) ≤ m.now) → Next (exec (.wdogKick n) s) fun t => t.mem = s.mem ∧
      t.m.kicks.get? n = some m.now ∧ t.m.regs = m.regs) ∧
    (∀ c, m.kicks.get? n = some c → m.now < c + feCycles (2 ^ 16) → restarts (.wdogKick n)) ∧
    (∀ c, m.kicks.get? n = some c → c + feCycles (2 ^ 22) < m.now → restarts (.watchdogRestart n)) ∧
    (∀ p, m.pre = some p → exec (.prcmdSave n) s = .next (still s)) ∧
    (m.pre = none → m.residents (n % 4096) ≠ [] → m.reservations = [] → Next (exec (.prcmdSave n) s) fun t => t.mem = s.mem ∧
      (prstat t).getLsbD 0 = true ∧ (prstat t).getLsbD 1 = (prstat s).getLsbD 1 ∧
      ∃ p, t.m.pre = some p ∧ p.op = 1 ∧ p.ctx = n % 4096 ∧ p.stage = 1 ∧ p.since = m.now ∧ p.todo = m.residents (n % 4096) ∧
        p.pages = m.regField (stwReg 0x3208) 0 20) ∧
    (m.pre = none → m.residents (n % 4096) = [] → n % 4096 ∉ m.suspended → ∀ i, i = .prcmdSave n ∨ i = .prcmdRestore n →
      Next (exec i s) fun t => t.mem = s.mem ∧ t.m.pre = none ∧ (prstat t).getLsbD 0 = false ∧ (prstat t).getLsbD 1 = true ∧
        field (prstat t) 8 8 = 1) ∧
    (∀ p, m.pre = some p → m.stage2Due = true → m.drainedOut p = false → m.regionsDue p = false →
      Next (exec .preemptStage2 s) fun t => t.mem = s.mem ∧
        (∃ p', t.m.pre = some p' ∧ p'.stage = 2 ∧ p'.ctx = p.ctx ∧ p'.op = 1 ∧ p'.todo = p.todo ∧
          ∀ e ∈ m.stopsDue p, p'.stops.get? e.1 = some m.now) ∧
        ∀ h c k, m.stopsDue p = [(h, c)] → (m.ham h).ctxs.get? c = some k →
          (t.m.ham h).ctxs.get? c = some { k with stopped := true } ∧
          ∀ w ∈ ((m.ham h).ctxWarps c).map (fun e => e.1),
            if (m.warp h w).hmode = true then (t.m.warp h w).saveWait = some m.now ∧ (t.m.warp h w).stopped = (m.warp h w).stopped
            else (t.m.warp h w).stopped = true) ∧
    (∀ p, m.pre = some p → m.resetDue = true → Next (exec .preemptReset s) fun t => t.m.pre = none ∧ (prstat t).getLsbD 0 = false ∧
      (prstat t).getLsbD 1 = true ∧ (prstat t).getLsbD 2 = true ∧ (∀ e ∈ t.m.launches, e.2.ctx ≠ p.ctx)) ∧
    (∀ p, m.pre = some p → p.op = 2 → p.ctx = n % 4096 → p.stage = 1 → p.regions = [] → m.anyHot = false → Next (exec (.prcmdRestore n) s) fun t =>
      t.mem = s.mem ∧ t.m.pre = none ∧ (prstat t).getLsbD 0 = false ∧ (prstat t).getLsbD 1 = true ∧
      n % 4096 ∉ t.m.suspended ∧ t.m.saved = m.saved)

/-- R10, R11, R23, R95, R186 to R188, R190, R196, R197, R217, R223, R224, R229: what a Reeve's replies and writes do to its warps; plain
registers; mailboxes; PARTOWN and CCARVE. CLRH makes the lanes ready that entering the handler had parked (log 23: DEDUCED from R183 and R224),
and a message with the tag of another partition is refused to its sender by NACK (log 21: the model's choice beside R22 and R229). -/
def Obligations.ReeveAndRegisterWritesAct : Prop :=
  ∀ (s : State) (h w n : Nat) (v : Word), h < 640 → w < 64 →
    let m := s.m.clear
    let x := m.warp h w
    let wctl (t : State) : Word := t.m.reg (wctlReg h w)
    let warp (t : State) : Warp := t.m.warp h w
    let there := ((m.ham h).warps.get? w).isSome = true
    let movedTo (t : State) (c : Nat → Prop) (f : Nat → Lane → Lane) : Prop :=
      t.mem = s.mem ∧ (warp t).v = x.v ∧ (warp t).s = x.s ∧ (warp t).pends = x.pends ∧
      ∀ l < 32, (c l → (warp t).lane l = f l (x.lane l)) ∧ (¬ c l → (warp t).lane l = x.lane l)
    let moved (t : State) (c : Nat → Prop) (f : Lane → Lane) : Prop := movedTo t c (fun _ => f)
    (∀ r b, m.fqOpen h (n % 256) = true → (m.ham h).fqMeta.get? (n % 256) = some (r, b) →
      (∀ lanes, r = .fetch w lanes → Next (exec (.fqreplyRetry h n) s) fun t => (t.m.ham h).fqMeta.get? (n % 256) = some (r, true) ∧
        movedTo t (fun l => lanes.getLsbD l = true ∧ (x.lane l).st = .parked .fetch) (fun l y => { y with st := x.released l, after := m.now })) ∧
      (∀ id e, r = .log w id → x.log = [e] → e.id = id →
        (Next (exec (.fqreplyRetry h n) s) fun t => t.mem = s.mem ∧ (t.m.ham h).fqMeta.get? (n % 256) = some (r, true) ∧
          (warp t).log = [{ e with fparts := 0, faulted := 0, found := [], due := m.now }]) ∧
        (Next (exec (.fqreplyAbort h n) s) fun t => (t.m.ham h).fqMeta.get? (n % 256) = some (r, true) ∧ (warp t).log = [] ∧
          t.mem = s.mem ∧ (warp t).v = x.v ∧ (warp t).lanes = x.lanes))) ∧
    (m.fqOpen h (n % 256) = false → exec (.fqreplyRetry h n) s = .next (still s) ∧ exec (.fqreplyAbort h n) s = .next (still s)) ∧
    (Next (exec (.fqctlHeadWrite h n) s) fun t => t.m.regField (hamReg h 0x630) 0 9 = n % 512 ∧
      ((m.ham h).fqWait = [] → t.mem = s.mem ∧ t.m.regField (hamReg h 0x630) 16 9 = m.regField (hamReg h 0x630) 16 9)) ∧
    (let full := m.reg (hamReg h 0x638)
     Next (exec (.scstatFree h n) s) fun t => t.mem = s.mem ∧ t.m.reg (hamReg h 0x638) = full &&& ~~~(BitVec.ofNat 32 n) ∧
      ∀ j, j ∈ (t.m.ham h).scRes ↔ j ∈ (m.ham h).scRes ∧ (BitVec.ofNat 32 n &&& full).getLsbD j = false) ∧
    (there → field v 0 6 = w → x.hmode = false → (wctl s).getLsbD 1 = false → x.log = [] → Next (exec (.resumecmd h v) s) fun t =>
      let mask := m.reg (hamReg h 0x640)
      let free (l : Nat) : Prop := (x.lane l).st = .parked .syscall ∨ (x.lane l).st = .parked .trap ∨ (x.lane l).st = .parked .fetch ∨
        (x.lane l).st = .parked .doubleTrap ∨ (x.lane l).st = .parked .logged
      moved t (fun l => mask.getLsbD l = true ∧ free l) (fun y =>
        { y with st := .ready, pc := if v.getLsbD 8 = true then m.reg (hamReg h 0x644) else y.pc, after := m.now + 40 })) ∧
    (there → x.ended = false → n < 0x2000 → n % 4 = 0 →
      ((∃ p, (x.lane (n / 4 % 32)).st = .parked p) → Next (exec (.warpWindowWrite h w n v) s) fun t =>
        t.mem = s.mem ∧ (warp t).lanes = x.lanes ∧ ∀ k, (warp t).v.get 0 k = if k = n / 4 then v else x.v.get 0 k) ∧
      ((∀ p, (x.lane (n / 4 % 32)).st ≠ .parked p) → Next (exec (.warpWindowWrite h w n v) s) fun t =>
        t.mem = s.mem ∧ warp t = x ∧ (wctl t).getLsbD 2 = true)) ∧
    (there → Next (exec (.wctlStop h w true) s) fun t => (wctl t).getLsbD 1 = true) ∧
    (there → x.withheld = [] → Next (exec (.wctlStop h w true) s) fun t =>
      moved t (fun l => (x.lane l).st = .ready) (fun y => { y with st := .parked .stop })) ∧
    (there → (wctl s).getLsbD 1 = true → x.resumes = [] → Next (exec (.wctlStop h w false) s) fun t => (wctl t).getLsbD 1 = false ∧
      moved t (fun l => (x.lane l).st = .parked .stop) (fun y => { y with st := .ready, after := m.now })) ∧
    (∀ on, Next (exec (.wctlStep h w on) s) fun t => t.mem = s.mem ∧ t.m.hams = m.hams ∧ (wctl t).getLsbD 0 = on ∧
      (wctl t).getLsbD 1 = (wctl s).getLsbD 1) ∧
    (there → x.hmode = true → x.resumes = [] → (wctl s).getLsbD 1 = false →
      (∀ l < 32, (x.kr 0).getLsbD l = true → (x.lane l).st ≠ .ready ∧ ∀ y, (x.lane l).st ≠ .held y) →
      Next (exec (.wctlClrh h w) s) fun t => (warp t).hmode = false ∧ (warp t).kr 0 = x.saved ∧
        moved t (fun l => (x.lane l).st = .parked .nonTrap) (fun y => { y with st := .ready, after := m.now + 4 })) ∧
    ((∃ o, regPlace n = .lnk o ∨ regPlace n = .pci o ∨ regPlace n = .boot o ∨ regPlace n = .etx o) → n < 2 ^ 48 → n % 4 = 0 →
      Next (exec (.registerWrite n v) s) fun t => t.mem = s.mem ∧ (∀ k, k ≠ n → t.m.reg k = m.reg k) ∧
        (∀ b, (regSpec n).rw.getLsbD b = false → (regSpec n).w1c.getLsbD b = false →
          (∀ o, regPlace n = .lnk o → b ≠ 31) → (t.m.reg n).getLsbD b = (m.reg n).getLsbD b) ∧
        (∀ b, (regSpec n).rw.getLsbD b = true → (∀ o, regPlace n = .lnk o → b ≠ 31) → (t.m.reg n).getLsbD b = v.getLsbD b)) ∧
    (∀ dest, n ≤ 656 → (m.reg (mailBase n + 0x844)).getLsbD 0 = false →
      (dest ≤ 656 → Next (exec (.mailboxSend n dest) s) fun t => t.mem = s.mem ∧ (t.m.reg (mailBase n + 0x844)).getLsbD 0 = true ∧
        ∃ y, t.m.mails = m.mails ++ [y] ∧ y.src = n ∧ y.dst = dest ∧
          y.words = (List.range 14).map (fun i => m.reg (mailBase n + 0x808 + 4 * i))) ∧
      (656 < dest → Next (exec (.mailboxSend n dest) s) fun t => t.mem = s.mem ∧ t.m.mails = m.mails ∧
        (t.m.reg (mailBase n + 0x844)).getLsbD 1 = true)) ∧
    (∀ y, m.mails.find? (fun y => y.id = n && y.due ≤ m.now) = some y →
      let tail := m.regField (mailBase y.dst + 0x84C) 16 7
      let used := (tail + 128 - m.regField (mailBase y.dst + 0x84C) 0 7) % 128
      let place := (m.reg (mailBase y.dst + 0x848)).toNat * 65536 + 64 * (tail % 64)
      (used < 64 → m.mailBarred y = false → m.reach (m.corePart y.dst) place true ≠ .held →
        Next (exec (.mailboxDeliver n) s) fun t => (∀ z ∈ t.m.mails, z.id ≠ n) ∧
        t.m.sends.get 0 y.src = (m.sends.get 0 y.src + 1) % 2 ^ 32 ∧ t.m.regField (mailBase y.dst + 0x84C) 16 7 = (tail + 1) % 128 ∧
        (t.m.reg (mailBase y.src + 0x844)).getLsbD 0 = false) ∧
      (64 ≤ used ∨ m.mailBarred y = true → Next (exec (.mailboxDeliver n) s) fun t => t.mem = s.mem ∧ t.m.sends = m.sends ∧
        (t.m.reg (mailBase y.src + 0x844)).getLsbD 0 = false ∧ (t.m.reg (mailBase y.src + 0x844)).getLsbD 1 = true ∧
        (m.mailBarred y = true → t.m.routerErr.get 0 (reeveRouter y.dst) = m.routerErr.get 0 (reeveRouter y.dst) + 1))) ∧
    (n < 40 →
      ((∀ k ∈ hamsOf n, (m.ham k).ctxs = []) → m.windowsOff (n / 10) = true → Next (exec (.partownWrite n v) s) fun t => t.mem = s.mem ∧
        t.m.partOf n = if v.getLsbD 31 = true ∧ field v 0 6 < 40 then some (field v 0 6) else none) ∧
      ((∃ k ∈ hamsOf n, (m.ham k).ctxs ≠ []) ∨ m.windowsOff (n / 10) = false → Next (exec (.partownWrite n v) s) fun t =>
        t.mem = s.mem ∧ t.m.partOf n = m.partOf n ∧ (t.m.reg (stwReg 0x30A0)).getLsbD 0 = true)) ∧
    (n < 320 →
      (m.windowsOff (n / 80) = true → s.mem.wf = true → Next (exec (.ccarveWrite n v) s) fun t => t.m.carveOf n = min (field v 0 3) 6 ∧
        ∀ k, m.carveOf n * 2 ^ 18 ≤ k → k < t.m.carveOf n * 2 ^ 18 → t.mem.read (keyCommons n k) = 0) ∧
      (m.windowsOff (n / 80) = false → Next (exec (.ccarveWrite n v) s) fun t => t.mem = s.mem ∧ t.m.carveOf n = m.carveOf n ∧
        t.m.sliceErr.get 0 n = m.sliceErr.get 0 n + 1))

/-- R20, R225, R228, R230, R231, R232, R236, R237, R238, R246, R247: governors, the power controller, the thermal freeze, package and function
reset, feature negotiation, host doorbells and event rings. Choices of the model that clauses here rest on: what a reset keeps, Memory among
it (log 21), the freeze in the cycle of its signal (log 8), the registers of a released core (logs 3 and 7, PRESUMED). -/
def Obligations.PowerResetAndTheHostLinkMove : Prop :=
  ∀ (s : State) (n k : Nat),
    let m := s.m.clear
    let gov (t : State) (p : Nat) : Word := t.m.reg (govStat p)
    let ceil (p : Nat) : Nat := field (gov s p) 8 5
    let floor (p : Nat) : Nat := m.regField (govReg p) 0 5
    let top (p : Nat) : Nat := m.regField (govReg p) 8 5
    let watts := k % 4096
    let limit := m.regField (netReg 0 0x90) 0 12
    let th (t : State) (i : Nat) : Word := t.m.reg (hbmReg i 4)
    let ctl := m.reg (hbmReg n 0)
    let fn (t : State) : Func := t.m.func n
    let f := m.func n
    (n < 40 → m.govDue n = true → Next (exec (.governorStep n k) s) fun t => t.mem = s.mem ∧ field (gov t n) 16 8 = k % 256 ∧
      field (gov t n) 8 5 = ceil n ∧
      field (gov t n) 0 5 = govNext ((m.reg (govReg n)).getLsbD 31) (field (gov s n) 0 5) (ceil n) (floor n)
        (m.regField (govReg n) 16 5) (m.regField (govReg n) 24 5) (k % 256) % 32) ∧
    (m.powerDue = false → exec (.powerControlTick k) s = .next (still s)) ∧
    (m.powerDue = true → Next (exec (.powerControlTick k) s) fun t => t.mem = s.mem ∧ t.m.powLast = m.powLast + 1500000 ∧ t.m.regField (netReg 0 0x94) 0 12 = watts ∧
      (limit < watts → (∀ p < 40, ceil p ≤ floor p) → t.m.throttle = true) ∧
      (limit < watts → (∃ p < 40, floor p < ceil p) → (∀ p < 40, floor p ≤ ceil p ∧ ceil p ≤ top p) →
        ∀ p < 40, field (gov t p) 8 5 = if floor p < ceil p then ceil p - 1 else ceil p) ∧
      (100 * watts < 95 * limit → m.throttle = false → (∀ p < 40, floor p ≤ ceil p ∧ ceil p ≤ top p) →
        ∀ p < 40, field (gov t p) 8 5 = if ceil p < top p then ceil p + 1 else ceil p) ∧
      (watts < limit → m.throttle = true → t.m.throttle = false)) ∧
    (n < 16 → field ctl 0 8 ≤ k % 256 → Next (exec (.thermalHot n k) s) fun t => t.mem = s.mem ∧ t.m.frozen = true ∧
      t.m.freezeEnd = none ∧ (th t n).getLsbD 0 = true ∧ field (th t n) 8 8 = k % 256) ∧
    (n < 16 → k % 256 < field ctl 0 8 → k % 256 < field ctl 8 8 → m.frozen = true → (th s n).getLsbD 0 = true →
      (∀ i < 16, i ≠ n → (th s i).getLsbD 0 = false) → Next (exec (.stackBelowRel n k) s) fun t => t.mem = s.mem ∧
        t.m.freezeEnd = some (m.now + 1024) ∧ (th t n).getLsbD 0 = false ∧ field (th t n) 8 8 = k % 256) ∧
    (∀ c, m.freezeEnd = some c → c ≤ m.now → Next (exec .freezeEnd s) fun t => t.mem = s.mem ∧ t.m.frozen = false ∧
      t.m.freezeEnd = none ∧ ∀ i < 16, (th t i).getLsbD 1 = false) ∧
    (m.memDead = true → Next (exec .packageReset s) fun t => t.mem = s.mem ∧ t.m.cores = [] ∧ t.m.regField (bootReg 0) 8 8 = 3) ∧
    (m.memDead = false → m.flashDead = true → Next (exec .packageReset s) fun t => t.mem = s.mem ∧ t.m.cores = [] ∧
      t.m.regField (bootReg 0) 8 8 = 2 ∧ t.m.regField (bootReg 0) 0 8 = 1) ∧
    (m.memDead = false → m.flashDead = false → m.flashA = [] → m.flashB = [] → Next (exec .packageReset s) fun t => t.mem = s.mem ∧
      t.m.booted = true ∧ t.m.now = m.now ∧ t.m.hams = [] ∧ t.m.queues = [] ∧ t.m.launches = [] ∧ t.m.reqs = [] ∧ t.m.cores = [] ∧
      t.m.regField (bootReg 0) 8 8 = 1 ∧ t.m.regField (bootReg 0) 0 8 = 2) ∧
    (∀ i, m.memDead = false → m.flashDead = false → m.flashA = [i] → i.type = 1 → m.afterReset.imageOk i = true →
      Next (exec .packageReset s) fun t => t.m.hams = [] ∧ t.m.cores = List.range 657 ∧ t.m.regField (bootReg 0) 8 8 = 0 ∧
        t.m.regField (bootReg 0) 0 8 = 5 ∧ ∀ c < 657, ∃ y, t.m.cpus.get? c = some y ∧ y.pc = BitVec.ofNat 64 (natAt i.bytes 0x18 8) ∧
          y.x = [(10, BitVec.ofNat 64 c)]) ∧
    (n ≤ 256 → Next (exec (.functionReset n) s) fun t => t.mem = s.mem ∧ fn t = { events := f.events, msix := f.msix }) ∧
    (n ≤ 256 → f.refused = false →
      let good := f.drv.getD 0 0 &&& ~~~m.offer = 0 ∧ f.drv.getD 1 0 = 0 ∧ f.drv.getD 2 0 = 0 ∧ f.drv.getD 3 0 = 0 ∧
        (f.drv.getD 0 0).getLsbD 2 = true
      Next (exec (.featureNegotiate n) s) fun t => t.mem = s.mem ∧
        (good → (fn t).ok = true ∧ (fn t).refused = false) ∧ (¬ good → (fn t).ok = false ∧ (fn t).refused = true)) ∧
    (∀ d : BitVec 64, n ≤ 256 →
      let q := d.toNat / 2 ^ 32 % 2 ^ 10
      let good := d.extractLsb' 0 32 = f.lasth + 1 ∧ (∃ x, m.queues.get? q = some x ∧ n ∈ m.funcsOf x.steward.tenant) ∧
        d.toNat / 2 ^ 42 = 0 ∧ f.refused = false
      Next (exec (.hostDoorbell n d) s) fun t =>
        (good → (fn t).lasth = d.extractLsb' 0 32 ∧ (fn t).dbrej = f.dbrej) ∧
        (¬ good → t.mem = s.mem ∧ fn t = { f with dbrej := f.dbrej + 1 } ∧ t.m.queues = m.queues)) ∧
    (∀ kind w2 w3 rest, f.events = (kind, w2, w3) :: rest → m.eventDue n = true → s.mem.wf = true →
      Next (exec (.eventRingWrite n) s) fun t => fn t = { f with events := rest, nextd := f.nextd + 1, msix := f.msix + 1 } ∧
        let at' := keyHost (f.evbase + 16 * (f.nextd.toNat % 2 ^ f.evcfg))
        ∀ c, t.mem.read c =
          if at' ≤ c ∧ c < at' + 16 then (wordsBytes [f.nextd, BitVec.ofNat 32 (kind % 256), w2, w3]).getD (c - at') 0 else s.mem.read c)

/-- R241, R243, R244, R245: Clodor flits and ports, Ethernet frames in and out, and the NVMe module. Choices of the model that
clauses here rest on: the NVMe queues, commands and shutdown (log 16, PRESUMED from NVM Express); the places in a flit's header, what a payload
asks for, the renumbering of kept flits and the PAUSE form (log 22). -/
def Obligations.LinksEthernetAndMediaMove : Prop :=
  ∀ (s : State) (n k : Nat) (v : Word),
    let m := s.m.clear
    let port (t : State) (p : Nat) : Port := t.m.port p
    let nv (t : State) : Nvme := t.m.nvme
    (∀ flit : List Byte, n < 18 →
      let good := (port s n).up = true ∧ flit.length = 256 ∧ flit.drop 248 = crc64 (flit.take 248) ∧
        (flitHead flit).1 = (port s n).rxSeq ∧ (flitHead flit).2 ≠ 3
      let b := (flit.drop 8).take 240
      let came (x : Port) : Port :=
        { x with rxSeq := ((flitHead flit).1 + 1) % 4096, acked := x.acked + 1, rx := x.rx ++ [((flitHead flit).2, b)] }
      (good → (flitHead flit).2 = 1 → Config.flitResponse b = none → Next (exec (.clodorFlitReceive n flit) s) fun t =>
        t.mem = s.mem ∧ port t n = came (port s n)) ∧
      (∀ pa data, good → (flitHead flit).2 = 1 → Config.flitResponse b = some (pa, data) → pa < 2 ^ 46 → pa / 2 ^ 40 ≠ m.ownPkg →
        s.mem.wf = true → Next (exec (.clodorFlitReceive n flit) s) fun t => port t n = came (port s n) ∧
          (∀ c, t.mem.read c = if pa ≤ c ∧ c < pa + data.length then data.getD (c - pa) 0 else s.mem.read c) ∧
          t.m.remote = m.remote.map (fun r => if r.line = pa / 128 ∧ r.asked = true then { r with come := true } else r)) ∧
      (good → (flitHead flit).2 = 2 → Next (exec (.clodorFlitReceive n flit) s) fun t => t.mem = s.mem ∧ port t n = came (port s n) ∧
        t.m.deeds = m.deeds ++ match Config.flitToken b with | some (z, l, r) => [(m.now, Deed.token z l r)] | none => []) ∧
      (good → (flitHead flit).2 = 0 → (port s n).todo ≠ [] → Next (exec (.clodorFlitReceive n flit) s) fun t => t.mem = s.mem ∧
        port t n = { came (port s n) with todo := (port s n).todo ++ [b] }) ∧
      (good → (flitHead flit).2 = 0 → (port s n).todo = [] → Config.flitRequest b = none → Next (exec (.clodorFlitReceive n flit) s) fun t =>
        t.mem = s.mem ∧ port t n = came (port s n)) ∧
      (∀ pa data, good → (flitHead flit).2 = 0 → (port s n).todo = [] → Config.flitRequest b = some (true, pa, data) →
        pa / 2 ^ 40 = m.ownPkg →
        let done := (Mach.devPut s.mem { m.modPort n (fun x => { came x with todo := [b] }) with stuck := false } pa data).2
        done.stuck = false → Next (exec (.clodorFlitReceive n flit) s) fun t => t.mem = s.mem.commit done.wr ∧ (port t n).todo = [] ∧
          (port t n).sent.length = (done.port n).sent.length + 1) ∧
      (¬ good → exec (.clodorFlitReceive n flit) s = .next (still s))) ∧
    (n < 18 → Next (exec (.linkPortDown n) s) fun t => t.mem = s.mem ∧ (port t n).up = false ∧ (t.m.reg (lnkReg 4)).getLsbD n = false ∧
      let m1 := m.modPort n (fun x => { x with up := false })
      let old := (port s n).replay
      ((∀ e ∈ old, m1.portTo e.1 = none) → (port t n).replay.map (fun e => e.1) = old.map (fun e => e.1) ∧ (port t n).sent = (port s n).sent ∧
        ∀ a, a ≠ n → port t a = port s a) ∧
      ∀ a, a ≠ n → (port s a).txSeq < 4096 → (∀ e ∈ old, m1.portTo e.1 = some a) →
        let new := ((List.range old.length).zip old).map (fun e =>
          (e.2.1, flitBytes (((port s a).txSeq + e.1) % 4096) (flitHead e.2.2).2 ((e.2.2.drop 8).take 240)))
        (port t n).replay = [] ∧ (port t a).replay = (port s a).replay ++ new ∧
        (port t a).sent = (port s a).sent ++ new.map (fun e => e.2)) ∧
    (n < 18 → Next (exec (.linkPortUp n) s) fun t => t.mem = s.mem ∧ (t.m.reg (lnkReg 4)).getLsbD n = true ∧
      port t n = { port s n with up := true, sent := (port s n).sent ++ (port s n).replay.map (fun e => e.2) }) ∧
    (∀ frame, n < 4 →
      let busy := m.timers.any (fun e => match e.2 with | .ethFrameReceive p _ => decide (p = n) | _ => false)
      let on := (m.reg (ethReg n 8)).getLsbD 0
      let ring := m.steer n frame
      let m0 : Mach := { m with stuck := false }
      let mine := m0.owned s.mem n 0 ring.1 (m.reg (ringReg n 0 ring.1 0x10)).toNat (min (m.ringSize n 0 ring.1) (frame.length + 1))
      let took := m0.ethTake s.mem n frame
      (busy = true → Next (exec (.ethFrameReceive n frame) s) fun t => t.mem = s.mem ∧
        t.m.ethIn.get [] n = m.ethIn.get [] n ++ [frame]) ∧
      (busy = false → macControl frame = true → beNat ((frame.drop 14).take 2) = 1 → Next (exec (.ethFrameReceive n frame) s) fun t =>
        t.mem = s.mem ∧ ∀ i < 8, m.now ≤ t.m.ethPause.get 0 (8 * n + i) ∧
          t.m.ethPause.get 0 (8 * n + i) ≤ m.now + beNat ((frame.drop 16).take 2)) ∧
      (busy = false → macControl frame = false →
        (took.stuck = true → Next (exec (.ethFrameReceive n frame) s) fun t => t.mem = s.mem ∧
          (m.now + 1, .ethFrameReceive n frame) ∈ t.m.timers) ∧
        (on = true → m.accepts n frame = false → Next (exec (.ethFrameReceive n frame) s) fun t =>
          t.mem = s.mem ∧ t.m.reg (ethReg n 0x10) = m.reg (ethReg n 0x10) + 1) ∧
        (on = true → m.accepts n frame = true → took.stuck = false → spread mine.1 frame = none →
          Next (exec (.ethFrameReceive n frame) s) fun t => t.m.reg (ethReg n 0x10) = m.reg (ethReg n 0x10) + 1) ∧
        (on = true → m.accepts n frame = true → took.stuck = false → ∀ ds, spread mine.1 frame = some ds →
          Next (exec (.ethFrameReceive n frame) s) fun t => t.mem = s.mem.commit took.wr ∧
            t.m.reg (ringReg n 0 ring.1 0x10) = m.reg (ringReg n 0 ring.1 0x10) + BitVec.ofNat 32 ds.length ∧
            t.m.reg (ethReg n 0x10) = m.reg (ethReg n 0x10)))) ∧
    (∀ ds, m.txFrame s.mem n k = some ds →
      let read := ds.foldl (fun (a : List (Option (List Byte)) × Mach) d =>
        let (b, m) := a.2.devGet s.mem (natAt d.2 0 8) (natAt d.2 8 4)
        (a.1 ++ [b], m)) ([], { m with stuck := false })
      let frame := read.1.flatMap (fun b => b.getD [])
      let good : Bool := read.1.all (fun b => b.isSome) && frame.length ≤ 9216
      let held := read.2.ethPause.get 0 (8 * n + framePrio frame)
      let status := read.2.freeBelow (if good then 1 else 255)
      let fin := (List.range ds.length).foldl (fun (m : Mach) i =>
        let d := ds.getD i (0, [])
        m.finishDesc s.mem d.1 d.2 (natAt d.2 8 4) 0 (if good then 0 else status.1 + 1) (i = ds.length - 1)) status.2
      (m.now < held → read.2.stuck = false → Next (exec (.ethFrameTransmit n k) s) fun t => t.m.txWait.get 0 (64 * n + k) = held ∧
        t.m.ethOut = read.2.ethOut) ∧
      (held ≤ m.now → fin.stuck = false → Next (exec (.ethFrameTransmit n k) s) fun t => t.mem = s.mem.commit fin.wr ∧
        t.m.reg (ringReg n 1 k 0x10) = m.reg (ringReg n 1 k 0x10) + BitVec.ofNat 32 ds.length ∧
        (good = true → t.m.ethOut.get [] n = m.ethOut.get [] n ++ [frame]))) ∧
    (∀ q, (nv s).sqs.get? k = some q →
      (v.toNat < q.size → Next (exec (.nvmeDoorbell (0x1000 + 8 * k) v) s) fun t => t.mem = s.mem ∧
        (nv t).sqs.get? k = some { q with tail := v.toNat }) ∧
      (q.size ≤ v.toNat → Next (exec (.nvmeDoorbell (0x1000 + 8 * k) v) s) fun t => t.mem = s.mem ∧
        (nv t).sqs = (nv s).sqs ∧ (nv t).errlog = (nv s).errlog ++ [(k, v.toNat)])) ∧
    (∀ q, (nv s).cqs.get? k = some q →
      (v.toNat < q.size → Next (exec (.nvmeDoorbell (0x1004 + 8 * k) v) s) fun t => t.mem = s.mem ∧
        (nv t).cqs.get? k = some { q with head := v.toNat }) ∧
      (q.size ≤ v.toNat → Next (exec (.nvmeDoorbell (0x1004 + 8 * k) v) s) fun t => t.mem = s.mem ∧
        (nv t).cqs = (nv s).cqs ∧ (nv t).errlog = (nv s).errlog ++ [(k, v.toNat)])) ∧
    (v.getLsbD 0 = true → (nv s).cc.getLsbD 0 = false → Next (exec (.nvmeEnable v) s) fun t => t.mem = s.mem ∧ (nv t).cc = v ∧
      (nv t).rdy = (nv s).rdy ∧ ∃ c, m.now < c ∧ c ≤ m.now + 3000000000 ∧ (c, Event.nvmeReady) ∈ t.m.timers) ∧
    (v.getLsbD 0 = false → (nv s).cc.getLsbD 0 = true → Next (exec (.nvmeEnable v) s) fun t => t.mem = s.mem ∧
      nv t = { nv s with cc := v, rdy := false, shst := 0, intm := 0, sqs := [], cqs := [], features := [] }) ∧
    (field v 14 2 ≠ 0 → field (nv s).cc 14 2 = 0 → (nv s).shst = 0 → v.getLsbD 0 = (nv s).cc.getLsbD 0 →
      Next (exec (.nvmeEnable v) s) fun t => t.mem = s.mem ∧ (nv t).cc = v ∧ (nv t).shst = 1 ∧ (nv t).rdy = (nv s).rdy ∧
        ∃ c, m.now < c ∧ (c, Deed.nvmeShut) ∈ t.m.deeds) ∧
    ((nv s).cc.getLsbD 0 = true → (nv s).rdy = false → Next (exec .nvmeReady s) fun t => t.mem = s.mem ∧ (nv t).rdy = true ∧
      (nv t).sqs.get? 0 = some { base := (nv s).asq, size := field (nv s).aqa 0 12 + 1, cq := 0 } ∧
      (nv t).cqs.get? 0 = some { base := (nv s).acq, size := field (nv s).aqa 16 12 + 1 }) ∧
    (∀ p q c m1, (nv s).sqs.get? k = some p → (nv s).cqs.get? p.cq = some q → m.nvmeReadyFor k = true → k ≠ 0 →
      Mach.devGet s.mem { m with stuck := false } (p.base + 64 * p.head) 64 = (some c, m1) →
      natAt c 0 1 = 0 → natAt c 1 1 < 64 → natAt c 4 4 = 1 →
      let tail := (q.tail + 1) % q.size
      let head := (p.head + 1) % p.size
      let m2 := (m1.devPut s.mem (q.base + 16 * q.tail) (leBytes 4 0 ++ leBytes 4 0 ++ leBytes 2 head ++ leBytes 2 k ++
        leBytes 4 (natAt c 2 2 + if q.phase then 2 ^ 16 else 0))).2
      m2.stuck = false → Next (exec (.nvmeCommandComplete k) s) fun t => t.mem = s.mem.commit m2.wr ∧
        (nv t).sqs.get? k = some { p with head } ∧
        (nv t).cqs.get? p.cq = some { q with tail, phase := if tail = 0 then !q.phase else q.phase })

/-- R26, R221, R222: the control cores: x0, integer and CSR instructions, mhartid, the entry of traps and interrupts to M and to S mode, MRET, SC
without a reservation, and a core's move. The rules name RV64GC, Zicsr and the three modes; what the encodings, CSRs and traps of those do is
taken from the RISC-V manuals (log 7, PRESUMED), and when a core moves is log 4's choice. -/
def Obligations.ControlCoresRunTheirInstructions : Prop :=
  ∀ (s : State) (m : Mach) (c rd a b imm k v : Nat) (d next : Dword), rd < 32 → a < 32 → b < 32 → imm < 4096 → k < 2 ^ 20 → v < 2 ^ 63 →
    let x := m.cpu c
    let A := x.xr a
    let B := x.xr b
    let I : Dword := (BitVec.ofNat 12 imm).signExtend 64
    let does (w : Nat) (to' : Dword) (y : Mach) : Prop := rvExec s.mem m c w next = .ok to' y
    let gives (w : Nat) (r : Dword) : Prop := does w next (m.modCpu c (fun x => x.xw rd r))
    let csr (f3 n src : Nat) : Nat := encI 0x73 f3 rd src n
    (x.xr 0 = 0 ∧ x.xw 0 d = x ∧ (0 < rd → (x.xw rd d).xr rd = d ∧ ∀ q, q ≠ rd → (x.xw rd d).xr q = x.xr q)) ∧
    gives (encI 0x13 0 rd a imm) (A + I) ∧ gives (encI 0x13 4 rd a imm) (A ^^^ I) ∧ gives (encI 0x13 7 rd a imm) (A &&& I) ∧
    gives (encI 0x13 2 rd a imm) (if A.toInt < I.toInt then 1 else 0) ∧
    gives (encR 0x33 0 0 rd a b) (A + B) ∧ gives (encR 0x33 0 0x20 rd a b) (A - B) ∧ gives (encR 0x33 6 0 rd a b) (A ||| B) ∧
    gives (encR 0x33 1 0 rd a b) (A <<< (B.toNat % 64)) ∧ gives (encR 0x33 3 0 rd a b) (if A.toNat < B.toNat then 1 else 0) ∧
    gives (0x37 + rd * 2 ^ 7 + k * 2 ^ 12) ((BitVec.ofNat 32 (k * 2 ^ 12)).signExtend 64) ∧
    does (encI 0x67 0 rd a imm) ((A + I) &&& ~~~1) (m.modCpu c (fun x => x.xw rd next)) ∧
    (x.mode = 3 → gives (csr 2 0xF14 0) (BitVec.ofNat 64 c) ∧
      does (csr 1 0x340 a) next ((m.modCpu c (fun x => x.csrSet 0x340 A.toNat)).modCpu c (fun y => y.xw rd (BitVec.ofNat 64 (x.csrOf 0x340))))) ∧
    (x.mode < 3 → (∃ w, rvExec s.mem m c (csr 2 0xF14 0) next = .trap 2 w m) ∧ ∃ w, rvExec s.mem m c (csr 1 0x340 a) next = .trap 2 w m) ∧
    rvExec s.mem m c 0x00000073 next = .trap (8 + x.mode) 0 m ∧
    (x.mode < 3 → rvExec s.mem m c 0x30200073 next = .trap 2 0x30200073 m) ∧
    (x.mode = 3 → ∃ y, does 0x30200073 y.pc (m.modCpu c (fun _ => y)) ∧ y.pc = BitVec.ofNat 64 (x.csrOf 0x341) ∧ y.mode = x.status 11 2 ∧
      y.status 3 1 = x.status 7 1 ∧ y.x = x.x) ∧
    (∀ pa m1, m.cpuAddr s.mem c A.toNat 8 .store = .ok pa m1 → (m1.cpu c).resv ≠ some (m1.resvOf c pa) →
      does (encR 0x2F 3 0x0C rd a b) next ((m1.modCpu c (fun x => { x with resv := none })).modCpu c (fun x => x.xw rd 1))) ∧
    (∀ intr : Bool,
      let deleg := x.mode ≤ 1 ∧ (x.csrOf (if intr then 0x303 else 0x302)).testBit k = true
      let y := x.enter intr k v
      let code := k + if intr then 2 ^ 63 else 0
      let at' (tvec : Nat) : Dword := BitVec.ofNat 64 (tvec / 4 * 4 + if intr = true ∧ tvec % 4 = 1 then 4 * k else 0)
      y.x = x.x ∧ y.f = x.f ∧
      (¬ deleg → y.mode = 3 ∧ y.pc = at' (x.csrOf 0x305) ∧ y.csrOf 0x341 = x.pc.toNat ∧ y.csrOf 0x342 = code ∧ y.csrOf 0x343 = v ∧
        y.status 3 1 = 0 ∧ y.status 7 1 = x.status 3 1 ∧ y.status 11 2 = x.mode % 4) ∧
      (deleg → y.mode = 1 ∧ y.pc = at' (x.csrOf 0x105) ∧ y.csrOf 0x141 = x.pc.toNat ∧ y.csrOf 0x142 = code ∧ y.csrOf 0x143 = v ∧
        y.status 1 1 = 0 ∧ y.status 5 1 = x.status 1 1 ∧ y.status 8 1 = x.mode % 2)) ∧
    (let begun := (s.m.clear.someTime (s.m.now + 1)).2.modCpu c
        (fun x => { x with due := (s.m.clear.someTime (s.m.now + 1)).1, idle := false })
      let after := (moveOn s (.cpu c)).m.cpu c
      (∀ i, begun.interrupt c = some i → after = (begun.cpu c).enter true i 0) ∧
      (begun.interrupt c = none → (∀ cause tval m1, rvStep s.mem begun c = .trap cause tval m1 → after = (m1.cpu c).enter false cause tval) ∧
        ∀ pc m1, rvStep s.mem begun c = .ok pc m1 → after.pc = pc ∧ after.x = (m1.cpu c).x ∧ after.mode = (m1.cpu c).mode))

/-- A move of the machine is an instruction of its name (spec/95). -/
def Sys2Proof.Claim.isMove (e : Event) (i : Instr) : Prop :=
  match e with
  | .packageReset => i = .packageReset | .freezeEnd => i = .freezeEnd | .flitEjection x0 => i = .flitEjection x0
  | .homeAccess x0 => i = .homeAccess x0 | .peerForwardRequest x0 => i = .peerForwardRequest x0
  | .remoteSharedRequest x0 => i = .remoteSharedRequest x0 | .loadDataReturn x0 => i = .loadDataReturn x0
  | .vrdLanding x0 x1 x2 => i = .vrdLanding x0 x1 x2 | .vwrLanding x0 x1 x2 => i = .vwrLanding x0 x1 x2
  | .activeSetJoin x0 x1 => i = .activeSetJoin x0 x1 | .forcedJoin x0 x1 => i = .forcedJoin x0 x1
  | .activeSetLeave x0 x1 => i = .activeSetLeave x0 x1 | .leaseReestimate x0 x1 => i = .leaseReestimate x0 x1
  | .passedOverExpiry x0 x1 => i = .passedOverExpiry x0 x1 | .streakExpiry x0 x1 => i = .streakExpiry x0 x1
  | .yieldExpiry x0 x1 => i = .yieldExpiry x0 x1 | .clusterPlacement x0 => i = .clusterPlacement x0
  | .blockWarpsEligible x0 x1 => i = .blockWarpsEligible x0 x1 | .blockEnd x0 x1 => i = .blockEnd x0 x1
  | .contextLeave x0 x1 => i = .contextLeave x0 x1 | .laysetArrival x0 x1 => i = .laysetArrival x0 x1
  | .commandStart x0 x1 => i = .commandStart x0 x1 | .commandChunk x0 x1 => i = .commandChunk x0 x1
  | .chunkAcknowledgement x0 x1 x2 => i = .chunkAcknowledgement x0 x1 x2 | .amoPerform x0 x1 => i = .amoPerform x0 x1
  | .clusterBarrierMessage x0 => i = .clusterBarrierMessage x0 | .clusterFlipMessage x0 => i = .clusterFlipMessage x0
  | .barrierAnswer x0 => i = .barrierAnswer x0 | .qengComplete x0 => i = .qengComplete x0
  | .shadowLatchLoad x0 => i = .shadowLatchLoad x0 | .parameterBlockArrival x0 x1 => i = .parameterBlockArrival x0 x1
  | .engineContextSwitch x0 => i = .engineContextSwitch x0 | .engineCommandStart x0 => i = .engineCommandStart x0
  | .mmopTile x0 => i = .mmopTile x0 | .activationRowEntry x0 => i = .activationRowEntry x0
  | .engineCommandComplete x0 => i = .engineCommandComplete x0 | .drainStart x0 => i = .drainStart x0
  | .drainReserve x0 => i = .drainReserve x0 | .drainChunk x0 => i = .drainChunk x0 | .mmspChunk x0 => i = .mmspChunk x0
  | .fenceRelease x0 x1 => i = .fenceRelease x0 x1 | .orderedAtomRelease x0 x1 => i = .orderedAtomRelease x0 x1
  | .operandLogAccess x0 x1 x2 => i = .operandLogAccess x0 x1 x2 | .pageWalkComplete x0 x1 => i = .pageWalkComplete x0 x1
  | .fetchFault x0 x1 x2 => i = .fetchFault x0 x1 x2 | .watchdogRestart x0 => i = .watchdogRestart x0
  | .packetStart x0 => i = .packetStart x0 | .launch x0 => i = .launch x0 | .batch x0 => i = .batch x0
  | .waitsem x0 => i = .waitsem x0 | .waitsemPoll x0 => i = .waitsemPoll x0 | .signal x0 => i = .signal x0
  | .muster x0 => i = .muster x0 | .musterReserveGrant x0 x1 => i = .musterReserveGrant x0 x1
  | .musterStartToken x0 x1 => i = .musterStartToken x0 x1 | .musterRetry x0 => i = .musterRetry x0 | .copyq x0 => i = .copyq x0
  | .fenceq x0 => i = .fenceq x0 | .qmark x0 => i = .qmark x0 | .packetComplete x0 => i = .packetComplete x0
  | .taskDeal x0 => i = .taskDeal x0 | .enqRequest x0 => i = .enqRequest x0 | .loadTokenReissue => i = .loadTokenReissue
  | .preemptStage2 => i = .preemptStage2 | .preemptReset => i = .preemptReset | .prcmdRestore x0 => i = .prcmdRestore x0
  | .mailboxDeliver x0 => i = .mailboxDeliver x0 | .eventRingWrite x0 => i = .eventRingWrite x0
  | .nvmeDoorbell x0 x1 => i = .nvmeDoorbell x0 x1 | .nvmeEnable x0 => i = .nvmeEnable x0
  | .nvmeCommandComplete x0 => i = .nvmeCommandComplete x0 | .nvmeReady => i = .nvmeReady
  | .handlerModeSaveWaitExpiry x0 x1 => i = .handlerModeSaveWaitExpiry x0 x1 | .ethFrameTransmit x0 x1 => i = .ethFrameTransmit x0 x1
  | .ethFrameReceive x0 x1 => i = .ethFrameReceive x0 x1 | .governorStep x0 x1 => i = .governorStep x0 x1
  | .powerControlTick x0 => i = .powerControlTick x0

/-! ## The whole machine -/

/-- R248 to R258: decoding and encoding agree. Every well-formed instruction word has an encoding of 32 bits, and decoding it gives the
instruction back with every operand; and every word that decodes is the encoding of a well-formed instruction: no bit of it is dropped. -/
def Obligations.DecodingAndEncodingAgree : Prop :=
  (∀ (i : Instr) (n : Nat), i.wf = true → encodeNat i = some n → n < 2 ^ 32 ∧ decode (BitVec.ofNat 32 n) = .ok i) ∧
  (∀ (w : Word) (i : Instr), decode w = .ok i → i.wf = true ∧ encode i = some w)

/-- R248, R250, R255, R258: a few words, written out in the spec beside their assembly text, decode to what they stand for; a word of a reserved opcode or
function value is refused by name, and one with a nonzero reserved field or a register outside R252 by another. -/
def Obligations.WordsOfTheTableDecode : Prop :=
  decode 0x01620A35 = .ok (.and ⟨0, 0⟩ 4 5 6 5) ∧
  decode 0x04220BF0 = .ok (.andi ⟨0, 0⟩ 4 5 (-16)) ∧
  decode 0x02820C40 = .ok (.iadd64 ⟨0, 0⟩ 4 6 8 0) ∧
  decode 0x0526FF80 = .ok (.movh ⟨0, 0⟩ 6 0xFF80) ∧
  decode 0x03A6A20D = .ok (.icmp ⟨0, 0⟩ 3 5 4 6 1) ∧
  decode 0x01E20A32 = .ok (.sel ⟨0, 0⟩ 4 5 6 2) ∧
  decode 0x090120E1 = .ok (.stok ⟨0, 0⟩ 9 7) ∧
  decode 0x08662281 = .ok (.voteZ ⟨0, 0⟩ 3 5 1) ∧
  decode 0x0620BFFF = .ok (.saddi ⟨0, 0⟩ 5 (-1)) ∧
  decode 0x09420A09 = .ok (.clz ⟨0, 0⟩ 4 5 1) ∧
  decode 0x06A20A37 = .ok (.ffma ⟨0, 0⟩ 4 5 6 1 3) ∧
  decode 0x08020B88 = .ok (.cvtMode ⟨0, 0⟩ 4 5 2 1 0 0) ∧
  decode 0x08C20AC0 = .ok (.scanw ⟨0, 0⟩ 4 5 0x18 0) ∧
  decode 0x092248E0 = .ok (.ksync ⟨0, 0⟩ 9 7 0) ∧
  decode 0x09219808 = .ok (.elect ⟨0, 0⟩ 3 2) ∧
  decode 0x0A83086A = .ok (.ldx ⟨0, 0⟩ 6 4 3 2 2) ∧
  decode 0x0B260C51 = .ok (.fill ⟨0, 0⟩ 12 6 2 4 1) ∧
  decode 0x0C038835 = .ok (.atomAdd ⟨0, 0⟩ 7 4 6 5) ∧
  decode 0x0D60AFFC = .ok (.brasNz ⟨0, 0⟩ 5 (-4)) ∧
  decode 0x3DB9001C = .ok (.call ⟨0, 3⟩ 50 28) ∧
  decode 0x0E1FFE80 = .ok (.syscall ⟨0, 0⟩ 511 58) ∧
  decode 0x0E80A600 = .ok (.srd ⟨0, 0⟩ 5 0x30) ∧
  decode 0x0EC03400 = .ok (.fence ⟨0, 0⟩ 3 1 0) ∧
  decode 0x0EE11848 = .ok (.barrd ⟨0, 0⟩ 3 9 0) ∧
  decode 0x0F041425 = .ok (.copym ⟨0, 0⟩ 0 40 4 2 1) ∧
  decode 0x0F240428 = .ok (.mmdrain ⟨0, 0⟩ 0 8 5 0) ∧
  decode 0x0F641E01 = .ok (.enq ⟨0, 0⟩ 60 1) ∧
  decode 0x0F8009C0 = .ok (.lease ⟨0, 0⟩ 2496) ∧
  decode 0x70000000 = .ok (.nop ⟨0, 7⟩) ∧ decode 0 = .ok (.nop ⟨0, 0⟩) ∧
  decode 0x0FE00000 = .error .reservedOp ∧ decode 0x0FC00000 = .error .reservedOp ∧ decode 0x0B600000 = .error .reservedOp ∧
  decode 0x03A00000 = .error .badField ∧ decode 0x00000001 = .error .badField ∧ decode 0x02808000 = .error .badField ∧
  decode 0x06001440 = .error .badField

/-- An instruction word reaches no other warp: its registers, masks, flags, trap registers and outstanding writes stay as they were (R25). -/
def Obligations.NoWordChangesAnotherWarpsRegisters : Prop :=
  ∀ (i : Instr) (s t : State) (h w : Nat), (encodeNat i).isSome = true → exec i s = .next t → (h, w) ≠ (s.m.cur.ham, s.m.cur.warp) →
    let x := s.m.warp h w
    let y := t.m.warp h w
    y.v = x.v ∧ y.s = x.s ∧ y.k = x.k ∧ y.fx = x.fx ∧ y.pends = x.pends ∧ y.fpmode = x.fpmode ∧ y.trapcause = x.trapcause ∧
    y.trapd0 = x.trapd0 ∧ y.trapd1 = x.trapd1 ∧ y.trapd2 = x.trapd2 ∧ y.trappc = x.trappc ∧ y.trapmask = x.trapmask ∧ y.tvec = x.tvec ∧
    y.hmode = x.hmode ∧ y.saved = x.saved

/-- Every step keeps the state well formed: Memory in its canonical form, no byte left in a step's buffer. -/
def Obligations.EveryStepKeepsTheStateWellFormed : Prop := KeptByStep (fun s => s.wf = true)

/-- Nothing stops the machine: every state has a next state, and every run from a well-formed state, of any length, goes on through
well-formed states. -/
def Obligations.EveryRunGoesOn : Prop := (∀ s : State, ∃ t, step s = .next t) ∧ (∀ s : State, s.wf = true → s.Safe)

/-- R10, R12, R20, R23, R69, R169, R227, R228, R236, R246, R247: the state after reset is well formed, holds no warp, queue, launch or
request, its boot is still to run, and each of these registers reads as its reset value. That Memory lists
nothing is log 2 (the model's choice), that PACKAGE_RESET is the first move and that the boot is still to run log 21. -/
def Obligations.ResetLeavesTheResetValues : Prop :=
  let s := State.reset
  let m := s.m
  s.wf = true ∧ s.mem = [] ∧ m.booted = false ∧ m.hams = [] ∧ m.queues = [] ∧ m.launches = [] ∧ m.reqs = [] ∧ m.frozen = false ∧
  nextMove s = .event .packageReset ∧
  (∀ h < 640, m.reg (hamReg h 0x300) = 0x01000801 ∧ m.reg (hamReg h 0x630) = 0 ∧
    ∀ c < 4, m.reg (hamReg h (0x310 + 4 * c)) = 1 ∧ m.reg (hamReg h (0x600 + 4 * c)) = 0 ∧ m.reg (hamReg h (0x700 + 4 * c)) = 0x00400010) ∧
  (∀ p < 40, m.partOf p = some 0 ∧ m.reg (govReg p) = 0x02081800 ∧ m.reg (govStat p) = 0x1818) ∧
  (∀ k < 16, m.reg (hbmReg k 0) = 0x5F69) ∧ (∀ k < 320, m.carveOf k = 0) ∧
  m.reg (netReg 0 0x80) = 1 ∧ m.reg (netReg 0 0x90) = 3600 ∧ m.reg (bootReg 0x100) = 1 ∧ (∀ n < 4, m.reg (bootReg (0x104 + 4 * n)) = 0)

/-- R49, R61, R249: a step is the next move. A move of spec/95 is the instruction of its name, run in the state (from which a timed or an
outside move has been taken). A word that reads a register whose parity fails takes its trap instead, before its
effect (R176; that the reading word finds it is log 23: DEDUCED). A group that issues stands in its warp's packet, which is fetched as a whole
(log 10: the model's choice beside R249) and whose words are those that are fetched at their program counters, each decoded; and a group of one word, not withheld, is that instruction run with its bundle current and its lanes at the
successor, and then the group's end. -/
def Obligations.AStepRunsTheDecodedInstruction : Prop :=
  ∀ s : State,
    (∀ e, ∃ i, isMove e i) ∧ (∀ e i, nextMove s = .event e → isMove e i → step s = exec i { s with m := s.m.taken (.event e) }) ∧
    (∀ c e i, nextMove s = .timed c e → isMove e i → step s = exec i { s with m := s.m.taken (.timed c e) }) ∧
    (∀ c i, nextMove s = .outside c i → isOutside i = true → step s = exec i { s with m := s.m.taken (.outside c i) }) ∧
    (∀ r, nextMove s = .issue r → step s = .next (issueGroup r { s with m := { s.m with agent := 0 } }) ∧
      ∃ x run ws, (r.1.warp, x) ∈ (s.m.ham r.1.ham).warps ∧ x.chosen s.m.now = some run ∧
        s.m.fetchPacket s.mem r.1.ham r.1.warp run.1 = .words ws ∧ r.1 = s.m.groupOf r.1.ham r.1.warp run ws ∧
        (∀ e ∈ ws, s.m.fetchWord s.mem r.1.ham r.1.warp e.1 = .words [e]) ∧
        (∀ e ∈ r.1.words, e ∈ ws ∧ ∃ i, decode e.2 = .ok i)) ∧
    (∀ r pc w i, nextMove s = .issue r → r.1.words = [(pc, w)] → decode w = .ok i →
      let m0 := Mach.take { s.m with agent := 0 } r
      let m := m0.enter r.1
      let m1 : Mach := { m with cur := { m.cur with pc, word := w, rest := [] } }
      withholdOf (m0.warp r.1.ham r.1.warp).fpmode r.1.words = none →
      m.cur.bundle = r.1.bundle ∧ m.cur.ham = r.1.ham ∧ m.cur.warp = r.1.warp ∧ m.cur.succ = r.1.succ ∧
      (m1.cw.parityFail r.1.bundle i = none → ∃ t, exec i { s with m := m1 } = .next t ∧ step s = .next (endGroup t)) ∧
      (∀ e, m1.cw.parityFail r.1.bundle i = some e → step s = .next (endGroup { s with m := m1.parityTrap e })))
end

