-- ==== Sys2Proof/Laws/Maps.lean ====
section
/-! SUPPORT. Laws of the two containers of State: reading a table after an update, reading Memory after a write, and that writes keep
Memory's canonical form. -/
namespace Sys2Proof.Machine

/-! ## Tables -/

@[simp] theorem SMap.get_nil {α : Type} (d : α) (k : Nat) : SMap.get d [] k = d := rfl
@[simp] theorem SMap.get?_nil {α : Type} (k : Nat) : SMap.get? ([] : SMap α) k = none := rfl

/-- Reading the key just written gives the value written. -/
@[simp] theorem SMap.get_set_same {α : Type} (d : α) (m : SMap α) (k : Nat) (x : α) : (SMap.set m k x).get d k = x := by
  induction m with
  | nil => simp [SMap.set, SMap.get]
  | cons e r ih =>
    obtain ⟨k', x'⟩ := e
    unfold SMap.set
    split
    · simp [SMap.get]
    · split
      · simp [SMap.get]
      · rename_i hk _; simp [SMap.get, hk, ih]

/-- A write leaves every other key alone. -/
theorem SMap.get_set_other {α : Type} (d : α) (m : SMap α) (k j : Nat) (x : α) (h : j ≠ k) :
    (SMap.set m k x).get d j = m.get d j := by
  induction m with
  | nil => simp [SMap.set, SMap.get, h]
  | cons e r ih =>
    obtain ⟨k', x'⟩ := e
    unfold SMap.set
    split
    · rename_i hk; subst hk; simp [SMap.get, h]
    · split
      · simp [SMap.get, h]
      · simp [SMap.get, ih]

/-- Reading any key after a write. -/
theorem SMap.get_set {α : Type} (d : α) (m : SMap α) (k j : Nat) (x : α) :
    (SMap.set m k x).get d j = if j = k then x else m.get d j := by
  split
  · rename_i h; subst h; simp
  · rename_i h; exact SMap.get_set_other d m k j x h

/-- Looking a key up, in terms of the entry with a default. -/
theorem SMap.get_eq_get? {α : Type} (d : α) (m : SMap α) (k : Nat) : m.get d k = (m.get? k).getD d := by
  induction m with
  | nil => rfl
  | cons e r ih =>
    obtain ⟨k', x'⟩ := e
    by_cases h : k = k' <;> simp [SMap.get, SMap.get?, h, ih]

/-- Looking any key up after a write. -/
theorem SMap.get?_set {α : Type} (m : SMap α) (k j : Nat) (x : α) :
    (SMap.set m k x).get? j = if j = k then some x else m.get? j := by
  induction m with
  | nil => simp [SMap.set, SMap.get?]
  | cons e r ih =>
    obtain ⟨k', x'⟩ := e
    unfold SMap.set
    split
    · rename_i hk; subst hk; by_cases h : j = k <;> simp [SMap.get?, h]
    · split
      · simp only [SMap.get?]
      · rename_i hk _
        by_cases h : j = k'
        · subst h; simp [SMap.get?, Ne.symm hk]
        · simp [SMap.get?, ih, h]

/-! ## Memory -/

@[simp] theorem Memory.read_nil (a : Nat) : Memory.read [] a = emptyByte := rfl
@[simp] theorem Memory.wf_nil : Memory.wf [] = true := rfl
@[simp] theorem Memory.commit_nil (m : Memory) : m.commit [] = m := rfl
@[simp] theorem Memory.commit_cons (m : Memory) (a : Nat) (x : Byte) (l : List Host.Cell) :
    m.commit ((a, x) :: l) = (m.commit l).write a x := rfl

/-- The canonical form of a list with a head: the head is no empty byte and lies below all others. -/
theorem Memory.wf_cons (a : Nat) (x : Byte) (r : Memory) :
    Memory.wf ((a, x) :: r) = true ↔ x ≠ emptyByte ∧ (∀ c ∈ r, a < c.1) ∧ Memory.wf r = true := by
  induction r generalizing a x with
  | nil => simp [Memory.wf]
  | cons e r ih =>
    obtain ⟨b, y⟩ := e
    simp only [Memory.wf, Bool.and_eq_true, bne_iff_ne, decide_eq_true_eq]
    constructor
    · rintro ⟨⟨hx, hab⟩, hr⟩
      refine ⟨hx, ?_, hr⟩
      intro c hc
      rcases List.mem_cons.mp hc with rfl | hc
      · exact hab
      · exact Nat.lt_trans hab (((ih b y).mp hr).2.1 c hc)
    · rintro ⟨hx, hall, hr⟩
      exact ⟨⟨hx, hall (b, y) (List.mem_cons_self ..)⟩, hr⟩

/-- An address below every listed one reads as an empty byte. -/
theorem Memory.read_below (m : Memory) (a : Nat) (h : ∀ c ∈ m, a < c.1) : m.read a = emptyByte := by
  induction m with
  | nil => rfl
  | cons e r ih =>
    obtain ⟨b, y⟩ := e
    have hb : a < b := h (b, y) (List.mem_cons_self ..)
    simp [Memory.read, Nat.ne_of_lt hb, ih (fun c hc => h c (List.mem_cons_of_mem _ hc))]

/-- The addresses a write can list. -/
theorem Memory.write_mem (m : Memory) (a : Nat) (x : Byte) (c : Host.Cell) (h : c ∈ m.write a x) : c.1 = a ∨ c ∈ m := by
  induction m with
  | nil => by_cases hx : x = emptyByte <;> simp [Memory.write, hx] at h; simp [h]
  | cons e r ih =>
    obtain ⟨b, y⟩ := e
    unfold Memory.write at h
    split at h
    · split at h
      · exact .inr (List.mem_cons_of_mem _ h)
      · rcases List.mem_cons.mp h with rfl | h
        · exact .inl rfl
        · exact .inr (List.mem_cons_of_mem _ h)
    · split at h
      · split at h
        · exact .inr h
        · rcases List.mem_cons.mp h with rfl | h
          · exact .inl rfl
          · exact .inr h
      · rcases List.mem_cons.mp h with rfl | h
        · exact .inr (List.mem_cons_self ..)
        · exact (ih h).imp id (List.mem_cons_of_mem _)

/-- A write keeps the canonical form. -/
theorem Memory.write_wf (m : Memory) (a : Nat) (x : Byte) (h : m.wf = true) : (m.write a x).wf = true := by
  induction m with
  | nil => by_cases hx : x = emptyByte <;> simp [Memory.write, Memory.wf, hx]
  | cons e r ih =>
    obtain ⟨b, y⟩ := e
    obtain ⟨hy, hall, hr⟩ := (Memory.wf_cons b y r).mp h
    unfold Memory.write
    split
    · rename_i hab; subst hab
      split
      · exact hr
      · rename_i hx; exact (Memory.wf_cons _ _ _).mpr ⟨hx, hall, hr⟩
    · split
      · rename_i hlt
        split
        · exact h
        · rename_i hx
          refine (Memory.wf_cons _ _ _).mpr ⟨hx, ?_, h⟩
          intro c hc
          rcases List.mem_cons.mp hc with rfl | hc
          · exact hlt
          · exact Nat.lt_trans hlt (hall c hc)
      · rename_i hne hle
        refine (Memory.wf_cons _ _ _).mpr ⟨hy, ?_, ih hr⟩
        intro c hc
        rcases Memory.write_mem r a x c hc with h1 | h1
        · omega
        · exact hall c h1

/-- The writes of a step keep the canonical form. -/
theorem Memory.commit_wf (m : Memory) (l : List Host.Cell) (h : m.wf = true) : (m.commit l).wf = true := by
  induction l with
  | nil => exact h
  | cons e r ih => exact Memory.write_wf _ _ _ ih

/-- Reading after one write, in canonical form. -/
theorem Memory.read_write (m : Memory) (a b : Nat) (x : Byte) (h : m.wf = true) :
    (m.write a x).read b = if b = a then x else m.read b := by
  induction m with
  | nil => by_cases hx : x = emptyByte <;> by_cases hb : b = a <;> simp [Memory.write, Memory.read, hx, hb]
  | cons e r ih =>
    obtain ⟨c, y⟩ := e
    obtain ⟨hy, hall, hr⟩ := (Memory.wf_cons c y r).mp h
    unfold Memory.write
    split
    · rename_i hac; subst hac
      by_cases hb : b = a
      · subst hb
        split
        · rename_i hx; simp [hx, Memory.read_below r b hall]
        · simp [Memory.read]
      · split <;> simp [Memory.read, hb]
    · split
      · rename_i hne hlt
        by_cases hb : b = a
        · subst hb
          split
          · rename_i hx
            have hlow : ∀ d ∈ (c, y) :: r, b < d.1 := by
              intro d hd
              rcases List.mem_cons.mp hd with rfl | hd
              · exact hlt
              · exact Nat.lt_trans hlt (hall d hd)
            simp [hx, Memory.read_below _ b hlow]
          · simp [Memory.read]
        · split <;> simp [Memory.read, hb]
      · rename_i hne _
        by_cases hbc : b = c
        · subst hbc; simp [Memory.read, Ne.symm hne]
        · simp [Memory.read, hbc, ih hr]

/-- Reading after the writes of a step: the newest write to the address, or the old byte. -/
theorem Memory.read_commit (m : Memory) (l : List Host.Cell) (b : Nat) (h : m.wf = true) :
    (m.commit l).read b = match SMap.get? l b with | some x => x | none => m.read b := by
  induction l with
  | nil => rfl
  | cons e r ih =>
    obtain ⟨a, x⟩ := e
    rw [Memory.commit_cons, Memory.read_write _ _ _ _ (Memory.commit_wf m r h)]
    by_cases hb : b = a <;> simp [SMap.get?, hb, ih]

/-- Memories in canonical form that read alike are the same list. -/
theorem Memory.ext_of_wf (m n : Memory) (hm : m.wf = true) (hn : n.wf = true) (h : ∀ a, m.read a = n.read a) : m = n := by
  induction m generalizing n with
  | nil =>
    cases n with
    | nil => rfl
    | cons e r =>
      obtain ⟨a, x⟩ := e
      have := ((Memory.wf_cons a x r).mp hn).1
      have h1 := h a
      simp [Memory.read] at h1
      exact absurd h1.symm this
  | cons e r ih =>
    obtain ⟨a, x⟩ := e
    obtain ⟨hx, hall, hr⟩ := (Memory.wf_cons a x r).mp hm
    cases n with
    | nil =>
      have h1 := h a
      simp [Memory.read] at h1
      exact absurd h1 hx
    | cons e' r' =>
      obtain ⟨b, y⟩ := e'
      obtain ⟨hy, hall', hr'⟩ := (Memory.wf_cons b y r').mp hn
      have hab : a = b := by
        rcases Nat.lt_trichotomy a b with hlt | heq | hgt
        · have h1 := h a
          have hlow : ∀ d ∈ (b, y) :: r', a < d.1 := by
            intro d hd
            rcases List.mem_cons.mp hd with rfl | hd
            · exact hlt
            · exact Nat.lt_trans hlt (hall' d hd)
          rw [Memory.read_below _ a hlow] at h1
          simp [Memory.read] at h1
          exact absurd h1 hx
        · exact heq
        · have h1 := h b
          have hlow : ∀ d ∈ (a, x) :: r, b < d.1 := by
            intro d hd
            rcases List.mem_cons.mp hd with rfl | hd
            · exact hgt
            · exact Nat.lt_trans hgt (hall d hd)
          rw [Memory.read_below _ b hlow] at h1
          simp [Memory.read] at h1
          exact absurd h1.symm hy
      subst hab
      have hxy : x = y := by have h1 := h a; simpa [Memory.read] using h1
      subst hxy
      have : r = r' := by
        apply ih _ hr hr'
        intro d
        by_cases hd : d = a
        · subst hd; rw [Memory.read_below r d hall, Memory.read_below r' d hall']
        · have h1 := h d; simpa [Memory.read, hd] using h1
      rw [this]

end Sys2Proof.Machine
end

