-- ==== Sys2Proof/Laws/State.lean ====
section
/-! SUPPORT. Each named update of the state, field by field: what it leaves as it was, and what it writes. -/
namespace Sys2Proof.Machine

/-! ## Updates of the hamlets leave every other field -/

@[simp] theorem Mach.setHam_now (m : Mach) (h : Nat) (x : Hamlet) : (m.setHam h x).now = m.now := rfl
@[simp] theorem Mach.setHam_booted (m : Mach) (h : Nat) (x : Hamlet) : (m.setHam h x).booted = m.booted := rfl
@[simp] theorem Mach.setHam_cur (m : Mach) (h : Nat) (x : Hamlet) : (m.setHam h x).cur = m.cur := rfl
@[simp] theorem Mach.setHam_free (m : Mach) (h : Nat) (x : Hamlet) : (m.setHam h x).free = m.free := rfl
@[simp] theorem Mach.setHam_agenda (m : Mach) (h : Nat) (x : Hamlet) : (m.setHam h x).agenda = m.agenda := rfl
@[simp] theorem Mach.setHam_timers (m : Mach) (h : Nat) (x : Hamlet) : (m.setHam h x).timers = m.timers := rfl
@[simp] theorem Mach.setHam_issued (m : Mach) (h : Nat) (x : Hamlet) : (m.setHam h x).issued = m.issued := rfl
@[simp] theorem Mach.setHam_nextId (m : Mach) (h : Nat) (x : Hamlet) : (m.setHam h x).nextId = m.nextId := rfl
@[simp] theorem Mach.setHam_regs (m : Mach) (h : Nat) (x : Hamlet) : (m.setHam h x).regs = m.regs := rfl
@[simp] theorem Mach.setHam_slices (m : Mach) (h : Nat) (x : Hamlet) : (m.setHam h x).slices = m.slices := rfl
@[simp] theorem Mach.setHam_llc (m : Mach) (h : Nat) (x : Hamlet) : (m.setHam h x).llc = m.llc := rfl
@[simp] theorem Mach.setHam_reqs (m : Mach) (h : Nat) (x : Hamlet) : (m.setHam h x).reqs = m.reqs := rfl
@[simp] theorem Mach.setHam_msgs (m : Mach) (h : Nat) (x : Hamlet) : (m.setHam h x).msgs = m.msgs := rfl
@[simp] theorem Mach.setHam_resv (m : Mach) (h : Nat) (x : Hamlet) : (m.setHam h x).resv = m.resv := rfl
@[simp] theorem Mach.setHam_queues (m : Mach) (h : Nat) (x : Hamlet) : (m.setHam h x).queues = m.queues := rfl
@[simp] theorem Mach.setHam_launches (m : Mach) (h : Nat) (x : Hamlet) : (m.setHam h x).launches = m.launches := rfl
@[simp] theorem Mach.setHam_cards (m : Mach) (h : Nat) (x : Hamlet) : (m.setHam h x).cards = m.cards := rfl
@[simp] theorem Mach.setHam_tasks (m : Mach) (h : Nat) (x : Hamlet) : (m.setHam h x).tasks = m.tasks := rfl
@[simp] theorem Mach.setHam_poison (m : Mach) (h : Nat) (x : Hamlet) : (m.setHam h x).poison = m.poison := rfl
@[simp] theorem Mach.setHam_wr (m : Mach) (h : Nat) (x : Hamlet) : (m.setHam h x).wr = m.wr := rfl
@[simp] theorem Mach.setHam_deeds (m : Mach) (h : Nat) (x : Hamlet) : (m.setHam h x).deeds = m.deeds := rfl
@[simp] theorem Mach.setHam_acks (m : Mach) (h : Nat) (x : Hamlet) : (m.setHam h x).acks = m.acks := rfl
@[simp] theorem Mach.setHam_procs (m : Mach) (h : Nat) (x : Hamlet) : (m.setHam h x).procs = m.procs := rfl
@[simp] theorem Mach.setHam_ops (m : Mach) (h : Nat) (x : Hamlet) : (m.setHam h x).ops = m.ops := rfl
@[simp] theorem Mach.setHam_saves (m : Mach) (h : Nat) (x : Hamlet) : (m.setHam h x).saves = m.saves := rfl
@[simp] theorem Mach.setHam_cpus (m : Mach) (h : Nat) (x : Hamlet) : (m.setHam h x).cpus = m.cpus := rfl
@[simp] theorem Mach.setHam_hotQueue (m : Mach) (h : Nat) (x : Hamlet) : (m.setHam h x).hotQueue = m.hotQueue := rfl
@[simp] theorem Mach.setHam_refresh (m : Mach) (h : Nat) (x : Hamlet) : (m.setHam h x).refresh = m.refresh := rfl
@[simp] theorem Mach.setHam_frozen (m : Mach) (h : Nat) (x : Hamlet) : (m.setHam h x).frozen = m.frozen := rfl
@[simp] theorem Mach.setHam_flips (m : Mach) (h : Nat) (x : Hamlet) : (m.setHam h x).flips = m.flips := rfl
@[simp] theorem Mach.modHam_now (m : Mach) (h : Nat) (f : Hamlet → Hamlet) : (m.modHam h f).now = m.now := rfl
@[simp] theorem Mach.modHam_booted (m : Mach) (h : Nat) (f : Hamlet → Hamlet) : (m.modHam h f).booted = m.booted := rfl
@[simp] theorem Mach.modHam_cur (m : Mach) (h : Nat) (f : Hamlet → Hamlet) : (m.modHam h f).cur = m.cur := rfl
@[simp] theorem Mach.modHam_free (m : Mach) (h : Nat) (f : Hamlet → Hamlet) : (m.modHam h f).free = m.free := rfl
@[simp] theorem Mach.modHam_agenda (m : Mach) (h : Nat) (f : Hamlet → Hamlet) : (m.modHam h f).agenda = m.agenda := rfl
@[simp] theorem Mach.modHam_timers (m : Mach) (h : Nat) (f : Hamlet → Hamlet) : (m.modHam h f).timers = m.timers := rfl
@[simp] theorem Mach.modHam_issued (m : Mach) (h : Nat) (f : Hamlet → Hamlet) : (m.modHam h f).issued = m.issued := rfl
@[simp] theorem Mach.modHam_nextId (m : Mach) (h : Nat) (f : Hamlet → Hamlet) : (m.modHam h f).nextId = m.nextId := rfl
@[simp] theorem Mach.modHam_regs (m : Mach) (h : Nat) (f : Hamlet → Hamlet) : (m.modHam h f).regs = m.regs := rfl
@[simp] theorem Mach.modHam_slices (m : Mach) (h : Nat) (f : Hamlet → Hamlet) : (m.modHam h f).slices = m.slices := rfl
@[simp] theorem Mach.modHam_llc (m : Mach) (h : Nat) (f : Hamlet → Hamlet) : (m.modHam h f).llc = m.llc := rfl
@[simp] theorem Mach.modHam_reqs (m : Mach) (h : Nat) (f : Hamlet → Hamlet) : (m.modHam h f).reqs = m.reqs := rfl
@[simp] theorem Mach.modHam_msgs (m : Mach) (h : Nat) (f : Hamlet → Hamlet) : (m.modHam h f).msgs = m.msgs := rfl
@[simp] theorem Mach.modHam_resv (m : Mach) (h : Nat) (f : Hamlet → Hamlet) : (m.modHam h f).resv = m.resv := rfl
@[simp] theorem Mach.modHam_queues (m : Mach) (h : Nat) (f : Hamlet → Hamlet) : (m.modHam h f).queues = m.queues := rfl
@[simp] theorem Mach.modHam_launches (m : Mach) (h : Nat) (f : Hamlet → Hamlet) : (m.modHam h f).launches = m.launches := rfl
@[simp] theorem Mach.modHam_cards (m : Mach) (h : Nat) (f : Hamlet → Hamlet) : (m.modHam h f).cards = m.cards := rfl
@[simp] theorem Mach.modHam_tasks (m : Mach) (h : Nat) (f : Hamlet → Hamlet) : (m.modHam h f).tasks = m.tasks := rfl
@[simp] theorem Mach.modHam_poison (m : Mach) (h : Nat) (f : Hamlet → Hamlet) : (m.modHam h f).poison = m.poison := rfl
@[simp] theorem Mach.modHam_wr (m : Mach) (h : Nat) (f : Hamlet → Hamlet) : (m.modHam h f).wr = m.wr := rfl
@[simp] theorem Mach.modHam_deeds (m : Mach) (h : Nat) (f : Hamlet → Hamlet) : (m.modHam h f).deeds = m.deeds := rfl
@[simp] theorem Mach.modHam_acks (m : Mach) (h : Nat) (f : Hamlet → Hamlet) : (m.modHam h f).acks = m.acks := rfl
@[simp] theorem Mach.modHam_procs (m : Mach) (h : Nat) (f : Hamlet → Hamlet) : (m.modHam h f).procs = m.procs := rfl
@[simp] theorem Mach.modHam_ops (m : Mach) (h : Nat) (f : Hamlet → Hamlet) : (m.modHam h f).ops = m.ops := rfl
@[simp] theorem Mach.modHam_saves (m : Mach) (h : Nat) (f : Hamlet → Hamlet) : (m.modHam h f).saves = m.saves := rfl
@[simp] theorem Mach.modHam_cpus (m : Mach) (h : Nat) (f : Hamlet → Hamlet) : (m.modHam h f).cpus = m.cpus := rfl
@[simp] theorem Mach.modHam_hotQueue (m : Mach) (h : Nat) (f : Hamlet → Hamlet) : (m.modHam h f).hotQueue = m.hotQueue := rfl
@[simp] theorem Mach.modHam_refresh (m : Mach) (h : Nat) (f : Hamlet → Hamlet) : (m.modHam h f).refresh = m.refresh := rfl
@[simp] theorem Mach.modHam_frozen (m : Mach) (h : Nat) (f : Hamlet → Hamlet) : (m.modHam h f).frozen = m.frozen := rfl
@[simp] theorem Mach.modHam_flips (m : Mach) (h : Nat) (f : Hamlet → Hamlet) : (m.modHam h f).flips = m.flips := rfl
@[simp] theorem Mach.setWarp_now (m : Mach) (h w : Nat) (x : Warp) : (m.setWarp h w x).now = m.now := rfl
@[simp] theorem Mach.setWarp_booted (m : Mach) (h w : Nat) (x : Warp) : (m.setWarp h w x).booted = m.booted := rfl
@[simp] theorem Mach.setWarp_cur (m : Mach) (h w : Nat) (x : Warp) : (m.setWarp h w x).cur = m.cur := rfl
@[simp] theorem Mach.setWarp_free (m : Mach) (h w : Nat) (x : Warp) : (m.setWarp h w x).free = m.free := rfl
@[simp] theorem Mach.setWarp_agenda (m : Mach) (h w : Nat) (x : Warp) : (m.setWarp h w x).agenda = m.agenda := rfl
@[simp] theorem Mach.setWarp_timers (m : Mach) (h w : Nat) (x : Warp) : (m.setWarp h w x).timers = m.timers := rfl
@[simp] theorem Mach.setWarp_issued (m : Mach) (h w : Nat) (x : Warp) : (m.setWarp h w x).issued = m.issued := rfl
@[simp] theorem Mach.setWarp_nextId (m : Mach) (h w : Nat) (x : Warp) : (m.setWarp h w x).nextId = m.nextId := rfl
@[simp] theorem Mach.setWarp_regs (m : Mach) (h w : Nat) (x : Warp) : (m.setWarp h w x).regs = m.regs := rfl
@[simp] theorem Mach.setWarp_slices (m : Mach) (h w : Nat) (x : Warp) : (m.setWarp h w x).slices = m.slices := rfl
@[simp] theorem Mach.setWarp_llc (m : Mach) (h w : Nat) (x : Warp) : (m.setWarp h w x).llc = m.llc := rfl
@[simp] theorem Mach.setWarp_reqs (m : Mach) (h w : Nat) (x : Warp) : (m.setWarp h w x).reqs = m.reqs := rfl
@[simp] theorem Mach.setWarp_msgs (m : Mach) (h w : Nat) (x : Warp) : (m.setWarp h w x).msgs = m.msgs := rfl
@[simp] theorem Mach.setWarp_resv (m : Mach) (h w : Nat) (x : Warp) : (m.setWarp h w x).resv = m.resv := rfl
@[simp] theorem Mach.setWarp_queues (m : Mach) (h w : Nat) (x : Warp) : (m.setWarp h w x).queues = m.queues := rfl
@[simp] theorem Mach.setWarp_launches (m : Mach) (h w : Nat) (x : Warp) : (m.setWarp h w x).launches = m.launches := rfl
@[simp] theorem Mach.setWarp_cards (m : Mach) (h w : Nat) (x : Warp) : (m.setWarp h w x).cards = m.cards := rfl
@[simp] theorem Mach.setWarp_tasks (m : Mach) (h w : Nat) (x : Warp) : (m.setWarp h w x).tasks = m.tasks := rfl
@[simp] theorem Mach.setWarp_poison (m : Mach) (h w : Nat) (x : Warp) : (m.setWarp h w x).poison = m.poison := rfl
@[simp] theorem Mach.setWarp_wr (m : Mach) (h w : Nat) (x : Warp) : (m.setWarp h w x).wr = m.wr := rfl
@[simp] theorem Mach.setWarp_deeds (m : Mach) (h w : Nat) (x : Warp) : (m.setWarp h w x).deeds = m.deeds := rfl
@[simp] theorem Mach.setWarp_acks (m : Mach) (h w : Nat) (x : Warp) : (m.setWarp h w x).acks = m.acks := rfl
@[simp] theorem Mach.setWarp_procs (m : Mach) (h w : Nat) (x : Warp) : (m.setWarp h w x).procs = m.procs := rfl
@[simp] theorem Mach.setWarp_ops (m : Mach) (h w : Nat) (x : Warp) : (m.setWarp h w x).ops = m.ops := rfl
@[simp] theorem Mach.setWarp_saves (m : Mach) (h w : Nat) (x : Warp) : (m.setWarp h w x).saves = m.saves := rfl
@[simp] theorem Mach.setWarp_cpus (m : Mach) (h w : Nat) (x : Warp) : (m.setWarp h w x).cpus = m.cpus := rfl
@[simp] theorem Mach.setWarp_hotQueue (m : Mach) (h w : Nat) (x : Warp) : (m.setWarp h w x).hotQueue = m.hotQueue := rfl
@[simp] theorem Mach.setWarp_refresh (m : Mach) (h w : Nat) (x : Warp) : (m.setWarp h w x).refresh = m.refresh := rfl
@[simp] theorem Mach.setWarp_frozen (m : Mach) (h w : Nat) (x : Warp) : (m.setWarp h w x).frozen = m.frozen := rfl
@[simp] theorem Mach.setWarp_flips (m : Mach) (h w : Nat) (x : Warp) : (m.setWarp h w x).flips = m.flips := rfl
@[simp] theorem Mach.modWarp_now (m : Mach) (h w : Nat) (f : Warp → Warp) : (m.modWarp h w f).now = m.now := rfl
@[simp] theorem Mach.modWarp_booted (m : Mach) (h w : Nat) (f : Warp → Warp) : (m.modWarp h w f).booted = m.booted := rfl
@[simp] theorem Mach.modWarp_cur (m : Mach) (h w : Nat) (f : Warp → Warp) : (m.modWarp h w f).cur = m.cur := rfl
@[simp] theorem Mach.modWarp_free (m : Mach) (h w : Nat) (f : Warp → Warp) : (m.modWarp h w f).free = m.free := rfl
@[simp] theorem Mach.modWarp_agenda (m : Mach) (h w : Nat) (f : Warp → Warp) : (m.modWarp h w f).agenda = m.agenda := rfl
@[simp] theorem Mach.modWarp_timers (m : Mach) (h w : Nat) (f : Warp → Warp) : (m.modWarp h w f).timers = m.timers := rfl
@[simp] theorem Mach.modWarp_issued (m : Mach) (h w : Nat) (f : Warp → Warp) : (m.modWarp h w f).issued = m.issued := rfl
@[simp] theorem Mach.modWarp_nextId (m : Mach) (h w : Nat) (f : Warp → Warp) : (m.modWarp h w f).nextId = m.nextId := rfl
@[simp] theorem Mach.modWarp_regs (m : Mach) (h w : Nat) (f : Warp → Warp) : (m.modWarp h w f).regs = m.regs := rfl
@[simp] theorem Mach.modWarp_slices (m : Mach) (h w : Nat) (f : Warp → Warp) : (m.modWarp h w f).slices = m.slices := rfl
@[simp] theorem Mach.modWarp_llc (m : Mach) (h w : Nat) (f : Warp → Warp) : (m.modWarp h w f).llc = m.llc := rfl
@[simp] theorem Mach.modWarp_reqs (m : Mach) (h w : Nat) (f : Warp → Warp) : (m.modWarp h w f).reqs = m.reqs := rfl
@[simp] theorem Mach.modWarp_msgs (m : Mach) (h w : Nat) (f : Warp → Warp) : (m.modWarp h w f).msgs = m.msgs := rfl
@[simp] theorem Mach.modWarp_resv (m : Mach) (h w : Nat) (f : Warp → Warp) : (m.modWarp h w f).resv = m.resv := rfl
@[simp] theorem Mach.modWarp_queues (m : Mach) (h w : Nat) (f : Warp → Warp) : (m.modWarp h w f).queues = m.queues := rfl
@[simp] theorem Mach.modWarp_launches (m : Mach) (h w : Nat) (f : Warp → Warp) : (m.modWarp h w f).launches = m.launches := rfl
@[simp] theorem Mach.modWarp_cards (m : Mach) (h w : Nat) (f : Warp → Warp) : (m.modWarp h w f).cards = m.cards := rfl
@[simp] theorem Mach.modWarp_tasks (m : Mach) (h w : Nat) (f : Warp → Warp) : (m.modWarp h w f).tasks = m.tasks := rfl
@[simp] theorem Mach.modWarp_poison (m : Mach) (h w : Nat) (f : Warp → Warp) : (m.modWarp h w f).poison = m.poison := rfl
@[simp] theorem Mach.modWarp_wr (m : Mach) (h w : Nat) (f : Warp → Warp) : (m.modWarp h w f).wr = m.wr := rfl
@[simp] theorem Mach.modWarp_deeds (m : Mach) (h w : Nat) (f : Warp → Warp) : (m.modWarp h w f).deeds = m.deeds := rfl
@[simp] theorem Mach.modWarp_acks (m : Mach) (h w : Nat) (f : Warp → Warp) : (m.modWarp h w f).acks = m.acks := rfl
@[simp] theorem Mach.modWarp_procs (m : Mach) (h w : Nat) (f : Warp → Warp) : (m.modWarp h w f).procs = m.procs := rfl
@[simp] theorem Mach.modWarp_ops (m : Mach) (h w : Nat) (f : Warp → Warp) : (m.modWarp h w f).ops = m.ops := rfl
@[simp] theorem Mach.modWarp_saves (m : Mach) (h w : Nat) (f : Warp → Warp) : (m.modWarp h w f).saves = m.saves := rfl
@[simp] theorem Mach.modWarp_cpus (m : Mach) (h w : Nat) (f : Warp → Warp) : (m.modWarp h w f).cpus = m.cpus := rfl
@[simp] theorem Mach.modWarp_hotQueue (m : Mach) (h w : Nat) (f : Warp → Warp) : (m.modWarp h w f).hotQueue = m.hotQueue := rfl
@[simp] theorem Mach.modWarp_refresh (m : Mach) (h w : Nat) (f : Warp → Warp) : (m.modWarp h w f).refresh = m.refresh := rfl
@[simp] theorem Mach.modWarp_frozen (m : Mach) (h w : Nat) (f : Warp → Warp) : (m.modWarp h w f).frozen = m.frozen := rfl
@[simp] theorem Mach.modWarp_flips (m : Mach) (h w : Nat) (f : Warp → Warp) : (m.modWarp h w f).flips = m.flips := rfl
@[simp] theorem Mach.setBlock_now (m : Mach) (h b : Nat) (x : Block) : (m.setBlock h b x).now = m.now := rfl
@[simp] theorem Mach.setBlock_booted (m : Mach) (h b : Nat) (x : Block) : (m.setBlock h b x).booted = m.booted := rfl
@[simp] theorem Mach.setBlock_cur (m : Mach) (h b : Nat) (x : Block) : (m.setBlock h b x).cur = m.cur := rfl
@[simp] theorem Mach.setBlock_free (m : Mach) (h b : Nat) (x : Block) : (m.setBlock h b x).free = m.free := rfl
@[simp] theorem Mach.setBlock_agenda (m : Mach) (h b : Nat) (x : Block) : (m.setBlock h b x).agenda = m.agenda := rfl
@[simp] theorem Mach.setBlock_timers (m : Mach) (h b : Nat) (x : Block) : (m.setBlock h b x).timers = m.timers := rfl
@[simp] theorem Mach.setBlock_issued (m : Mach) (h b : Nat) (x : Block) : (m.setBlock h b x).issued = m.issued := rfl
@[simp] theorem Mach.setBlock_nextId (m : Mach) (h b : Nat) (x : Block) : (m.setBlock h b x).nextId = m.nextId := rfl
@[simp] theorem Mach.setBlock_regs (m : Mach) (h b : Nat) (x : Block) : (m.setBlock h b x).regs = m.regs := rfl
@[simp] theorem Mach.setBlock_slices (m : Mach) (h b : Nat) (x : Block) : (m.setBlock h b x).slices = m.slices := rfl
@[simp] theorem Mach.setBlock_llc (m : Mach) (h b : Nat) (x : Block) : (m.setBlock h b x).llc = m.llc := rfl
@[simp] theorem Mach.setBlock_reqs (m : Mach) (h b : Nat) (x : Block) : (m.setBlock h b x).reqs = m.reqs := rfl
@[simp] theorem Mach.setBlock_msgs (m : Mach) (h b : Nat) (x : Block) : (m.setBlock h b x).msgs = m.msgs := rfl
@[simp] theorem Mach.setBlock_resv (m : Mach) (h b : Nat) (x : Block) : (m.setBlock h b x).resv = m.resv := rfl
@[simp] theorem Mach.setBlock_queues (m : Mach) (h b : Nat) (x : Block) : (m.setBlock h b x).queues = m.queues := rfl
@[simp] theorem Mach.setBlock_launches (m : Mach) (h b : Nat) (x : Block) : (m.setBlock h b x).launches = m.launches := rfl
@[simp] theorem Mach.setBlock_cards (m : Mach) (h b : Nat) (x : Block) : (m.setBlock h b x).cards = m.cards := rfl
@[simp] theorem Mach.setBlock_tasks (m : Mach) (h b : Nat) (x : Block) : (m.setBlock h b x).tasks = m.tasks := rfl
@[simp] theorem Mach.setBlock_poison (m : Mach) (h b : Nat) (x : Block) : (m.setBlock h b x).poison = m.poison := rfl
@[simp] theorem Mach.setBlock_wr (m : Mach) (h b : Nat) (x : Block) : (m.setBlock h b x).wr = m.wr := rfl
@[simp] theorem Mach.setBlock_deeds (m : Mach) (h b : Nat) (x : Block) : (m.setBlock h b x).deeds = m.deeds := rfl
@[simp] theorem Mach.setBlock_acks (m : Mach) (h b : Nat) (x : Block) : (m.setBlock h b x).acks = m.acks := rfl
@[simp] theorem Mach.setBlock_procs (m : Mach) (h b : Nat) (x : Block) : (m.setBlock h b x).procs = m.procs := rfl
@[simp] theorem Mach.setBlock_ops (m : Mach) (h b : Nat) (x : Block) : (m.setBlock h b x).ops = m.ops := rfl
@[simp] theorem Mach.setBlock_saves (m : Mach) (h b : Nat) (x : Block) : (m.setBlock h b x).saves = m.saves := rfl
@[simp] theorem Mach.setBlock_cpus (m : Mach) (h b : Nat) (x : Block) : (m.setBlock h b x).cpus = m.cpus := rfl
@[simp] theorem Mach.setBlock_hotQueue (m : Mach) (h b : Nat) (x : Block) : (m.setBlock h b x).hotQueue = m.hotQueue := rfl
@[simp] theorem Mach.setBlock_refresh (m : Mach) (h b : Nat) (x : Block) : (m.setBlock h b x).refresh = m.refresh := rfl
@[simp] theorem Mach.setBlock_frozen (m : Mach) (h b : Nat) (x : Block) : (m.setBlock h b x).frozen = m.frozen := rfl
@[simp] theorem Mach.setBlock_flips (m : Mach) (h b : Nat) (x : Block) : (m.setBlock h b x).flips = m.flips := rfl
@[simp] theorem Mach.modBlock_now (m : Mach) (h b : Nat) (f : Block → Block) : (m.modBlock h b f).now = m.now := rfl
@[simp] theorem Mach.modBlock_booted (m : Mach) (h b : Nat) (f : Block → Block) : (m.modBlock h b f).booted = m.booted := rfl
@[simp] theorem Mach.modBlock_cur (m : Mach) (h b : Nat) (f : Block → Block) : (m.modBlock h b f).cur = m.cur := rfl
@[simp] theorem Mach.modBlock_free (m : Mach) (h b : Nat) (f : Block → Block) : (m.modBlock h b f).free = m.free := rfl
@[simp] theorem Mach.modBlock_agenda (m : Mach) (h b : Nat) (f : Block → Block) : (m.modBlock h b f).agenda = m.agenda := rfl
@[simp] theorem Mach.modBlock_timers (m : Mach) (h b : Nat) (f : Block → Block) : (m.modBlock h b f).timers = m.timers := rfl
@[simp] theorem Mach.modBlock_issued (m : Mach) (h b : Nat) (f : Block → Block) : (m.modBlock h b f).issued = m.issued := rfl
@[simp] theorem Mach.modBlock_nextId (m : Mach) (h b : Nat) (f : Block → Block) : (m.modBlock h b f).nextId = m.nextId := rfl
@[simp] theorem Mach.modBlock_regs (m : Mach) (h b : Nat) (f : Block → Block) : (m.modBlock h b f).regs = m.regs := rfl
@[simp] theorem Mach.modBlock_slices (m : Mach) (h b : Nat) (f : Block → Block) : (m.modBlock h b f).slices = m.slices := rfl
@[simp] theorem Mach.modBlock_llc (m : Mach) (h b : Nat) (f : Block → Block) : (m.modBlock h b f).llc = m.llc := rfl
@[simp] theorem Mach.modBlock_reqs (m : Mach) (h b : Nat) (f : Block → Block) : (m.modBlock h b f).reqs = m.reqs := rfl
@[simp] theorem Mach.modBlock_msgs (m : Mach) (h b : Nat) (f : Block → Block) : (m.modBlock h b f).msgs = m.msgs := rfl
@[simp] theorem Mach.modBlock_resv (m : Mach) (h b : Nat) (f : Block → Block) : (m.modBlock h b f).resv = m.resv := rfl
@[simp] theorem Mach.modBlock_queues (m : Mach) (h b : Nat) (f : Block → Block) : (m.modBlock h b f).queues = m.queues := rfl
@[simp] theorem Mach.modBlock_launches (m : Mach) (h b : Nat) (f : Block → Block) : (m.modBlock h b f).launches = m.launches := rfl
@[simp] theorem Mach.modBlock_cards (m : Mach) (h b : Nat) (f : Block → Block) : (m.modBlock h b f).cards = m.cards := rfl
@[simp] theorem Mach.modBlock_tasks (m : Mach) (h b : Nat) (f : Block → Block) : (m.modBlock h b f).tasks = m.tasks := rfl
@[simp] theorem Mach.modBlock_poison (m : Mach) (h b : Nat) (f : Block → Block) : (m.modBlock h b f).poison = m.poison := rfl
@[simp] theorem Mach.modBlock_wr (m : Mach) (h b : Nat) (f : Block → Block) : (m.modBlock h b f).wr = m.wr := rfl
@[simp] theorem Mach.modBlock_deeds (m : Mach) (h b : Nat) (f : Block → Block) : (m.modBlock h b f).deeds = m.deeds := rfl
@[simp] theorem Mach.modBlock_acks (m : Mach) (h b : Nat) (f : Block → Block) : (m.modBlock h b f).acks = m.acks := rfl
@[simp] theorem Mach.modBlock_procs (m : Mach) (h b : Nat) (f : Block → Block) : (m.modBlock h b f).procs = m.procs := rfl
@[simp] theorem Mach.modBlock_ops (m : Mach) (h b : Nat) (f : Block → Block) : (m.modBlock h b f).ops = m.ops := rfl
@[simp] theorem Mach.modBlock_saves (m : Mach) (h b : Nat) (f : Block → Block) : (m.modBlock h b f).saves = m.saves := rfl
@[simp] theorem Mach.modBlock_cpus (m : Mach) (h b : Nat) (f : Block → Block) : (m.modBlock h b f).cpus = m.cpus := rfl
@[simp] theorem Mach.modBlock_hotQueue (m : Mach) (h b : Nat) (f : Block → Block) : (m.modBlock h b f).hotQueue = m.hotQueue := rfl
@[simp] theorem Mach.modBlock_refresh (m : Mach) (h b : Nat) (f : Block → Block) : (m.modBlock h b f).refresh = m.refresh := rfl
@[simp] theorem Mach.modBlock_frozen (m : Mach) (h b : Nat) (f : Block → Block) : (m.modBlock h b f).frozen = m.frozen := rfl
@[simp] theorem Mach.modBlock_flips (m : Mach) (h b : Nat) (f : Block → Block) : (m.modBlock h b f).flips = m.flips := rfl
@[simp] theorem Mach.modCw_now (m : Mach) (f : Warp → Warp) : (m.modCw f).now = m.now := rfl
@[simp] theorem Mach.modCw_booted (m : Mach) (f : Warp → Warp) : (m.modCw f).booted = m.booted := rfl
@[simp] theorem Mach.modCw_cur (m : Mach) (f : Warp → Warp) : (m.modCw f).cur = m.cur := rfl
@[simp] theorem Mach.modCw_free (m : Mach) (f : Warp → Warp) : (m.modCw f).free = m.free := rfl
@[simp] theorem Mach.modCw_agenda (m : Mach) (f : Warp → Warp) : (m.modCw f).agenda = m.agenda := rfl
@[simp] theorem Mach.modCw_timers (m : Mach) (f : Warp → Warp) : (m.modCw f).timers = m.timers := rfl
@[simp] theorem Mach.modCw_issued (m : Mach) (f : Warp → Warp) : (m.modCw f).issued = m.issued := rfl
@[simp] theorem Mach.modCw_nextId (m : Mach) (f : Warp → Warp) : (m.modCw f).nextId = m.nextId := rfl
@[simp] theorem Mach.modCw_regs (m : Mach) (f : Warp → Warp) : (m.modCw f).regs = m.regs := rfl
@[simp] theorem Mach.modCw_slices (m : Mach) (f : Warp → Warp) : (m.modCw f).slices = m.slices := rfl
@[simp] theorem Mach.modCw_llc (m : Mach) (f : Warp → Warp) : (m.modCw f).llc = m.llc := rfl
@[simp] theorem Mach.modCw_reqs (m : Mach) (f : Warp → Warp) : (m.modCw f).reqs = m.reqs := rfl
@[simp] theorem Mach.modCw_msgs (m : Mach) (f : Warp → Warp) : (m.modCw f).msgs = m.msgs := rfl
@[simp] theorem Mach.modCw_resv (m : Mach) (f : Warp → Warp) : (m.modCw f).resv = m.resv := rfl
@[simp] theorem Mach.modCw_queues (m : Mach) (f : Warp → Warp) : (m.modCw f).queues = m.queues := rfl
@[simp] theorem Mach.modCw_launches (m : Mach) (f : Warp → Warp) : (m.modCw f).launches = m.launches := rfl
@[simp] theorem Mach.modCw_cards (m : Mach) (f : Warp → Warp) : (m.modCw f).cards = m.cards := rfl
@[simp] theorem Mach.modCw_tasks (m : Mach) (f : Warp → Warp) : (m.modCw f).tasks = m.tasks := rfl
@[simp] theorem Mach.modCw_poison (m : Mach) (f : Warp → Warp) : (m.modCw f).poison = m.poison := rfl
@[simp] theorem Mach.modCw_wr (m : Mach) (f : Warp → Warp) : (m.modCw f).wr = m.wr := rfl
@[simp] theorem Mach.modCw_deeds (m : Mach) (f : Warp → Warp) : (m.modCw f).deeds = m.deeds := rfl
@[simp] theorem Mach.modCw_acks (m : Mach) (f : Warp → Warp) : (m.modCw f).acks = m.acks := rfl
@[simp] theorem Mach.modCw_procs (m : Mach) (f : Warp → Warp) : (m.modCw f).procs = m.procs := rfl
@[simp] theorem Mach.modCw_ops (m : Mach) (f : Warp → Warp) : (m.modCw f).ops = m.ops := rfl
@[simp] theorem Mach.modCw_saves (m : Mach) (f : Warp → Warp) : (m.modCw f).saves = m.saves := rfl
@[simp] theorem Mach.modCw_cpus (m : Mach) (f : Warp → Warp) : (m.modCw f).cpus = m.cpus := rfl
@[simp] theorem Mach.modCw_hotQueue (m : Mach) (f : Warp → Warp) : (m.modCw f).hotQueue = m.hotQueue := rfl
@[simp] theorem Mach.modCw_refresh (m : Mach) (f : Warp → Warp) : (m.modCw f).refresh = m.refresh := rfl
@[simp] theorem Mach.modCw_frozen (m : Mach) (f : Warp → Warp) : (m.modCw f).frozen = m.frozen := rfl
@[simp] theorem Mach.modCw_flips (m : Mach) (f : Warp → Warp) : (m.modCw f).flips = m.flips := rfl
@[simp] theorem Mach.addPend_now (m : Mach) (h w : Nat) (p : Pend) : (m.addPend h w p).now = m.now := rfl
@[simp] theorem Mach.addPend_booted (m : Mach) (h w : Nat) (p : Pend) : (m.addPend h w p).booted = m.booted := rfl
@[simp] theorem Mach.addPend_cur (m : Mach) (h w : Nat) (p : Pend) : (m.addPend h w p).cur = m.cur := rfl
@[simp] theorem Mach.addPend_free (m : Mach) (h w : Nat) (p : Pend) : (m.addPend h w p).free = m.free := rfl
@[simp] theorem Mach.addPend_agenda (m : Mach) (h w : Nat) (p : Pend) : (m.addPend h w p).agenda = m.agenda := rfl
@[simp] theorem Mach.addPend_timers (m : Mach) (h w : Nat) (p : Pend) : (m.addPend h w p).timers = m.timers := rfl
@[simp] theorem Mach.addPend_issued (m : Mach) (h w : Nat) (p : Pend) : (m.addPend h w p).issued = m.issued := rfl
@[simp] theorem Mach.addPend_nextId (m : Mach) (h w : Nat) (p : Pend) : (m.addPend h w p).nextId = m.nextId := rfl
@[simp] theorem Mach.addPend_regs (m : Mach) (h w : Nat) (p : Pend) : (m.addPend h w p).regs = m.regs := rfl
@[simp] theorem Mach.addPend_slices (m : Mach) (h w : Nat) (p : Pend) : (m.addPend h w p).slices = m.slices := rfl
@[simp] theorem Mach.addPend_llc (m : Mach) (h w : Nat) (p : Pend) : (m.addPend h w p).llc = m.llc := rfl
@[simp] theorem Mach.addPend_reqs (m : Mach) (h w : Nat) (p : Pend) : (m.addPend h w p).reqs = m.reqs := rfl
@[simp] theorem Mach.addPend_msgs (m : Mach) (h w : Nat) (p : Pend) : (m.addPend h w p).msgs = m.msgs := rfl
@[simp] theorem Mach.addPend_resv (m : Mach) (h w : Nat) (p : Pend) : (m.addPend h w p).resv = m.resv := rfl
@[simp] theorem Mach.addPend_queues (m : Mach) (h w : Nat) (p : Pend) : (m.addPend h w p).queues = m.queues := rfl
@[simp] theorem Mach.addPend_launches (m : Mach) (h w : Nat) (p : Pend) : (m.addPend h w p).launches = m.launches := rfl
@[simp] theorem Mach.addPend_cards (m : Mach) (h w : Nat) (p : Pend) : (m.addPend h w p).cards = m.cards := rfl
@[simp] theorem Mach.addPend_tasks (m : Mach) (h w : Nat) (p : Pend) : (m.addPend h w p).tasks = m.tasks := rfl
@[simp] theorem Mach.addPend_poison (m : Mach) (h w : Nat) (p : Pend) : (m.addPend h w p).poison = m.poison := rfl
@[simp] theorem Mach.addPend_wr (m : Mach) (h w : Nat) (p : Pend) : (m.addPend h w p).wr = m.wr := rfl
@[simp] theorem Mach.addPend_deeds (m : Mach) (h w : Nat) (p : Pend) : (m.addPend h w p).deeds = m.deeds := rfl
@[simp] theorem Mach.addPend_acks (m : Mach) (h w : Nat) (p : Pend) : (m.addPend h w p).acks = m.acks := rfl
@[simp] theorem Mach.addPend_procs (m : Mach) (h w : Nat) (p : Pend) : (m.addPend h w p).procs = m.procs := rfl
@[simp] theorem Mach.addPend_ops (m : Mach) (h w : Nat) (p : Pend) : (m.addPend h w p).ops = m.ops := rfl
@[simp] theorem Mach.addPend_saves (m : Mach) (h w : Nat) (p : Pend) : (m.addPend h w p).saves = m.saves := rfl
@[simp] theorem Mach.addPend_cpus (m : Mach) (h w : Nat) (p : Pend) : (m.addPend h w p).cpus = m.cpus := rfl
@[simp] theorem Mach.addPend_hotQueue (m : Mach) (h w : Nat) (p : Pend) : (m.addPend h w p).hotQueue = m.hotQueue := rfl
@[simp] theorem Mach.addPend_refresh (m : Mach) (h w : Nat) (p : Pend) : (m.addPend h w p).refresh = m.refresh := rfl
@[simp] theorem Mach.addPend_frozen (m : Mach) (h w : Nat) (p : Pend) : (m.addPend h w p).frozen = m.frozen := rfl
@[simp] theorem Mach.addPend_flips (m : Mach) (h w : Nat) (p : Pend) : (m.addPend h w p).flips = m.flips := rfl

/-! ## Registers, timers and counters leave every other field -/

@[simp] theorem Mach.clear_now (m : Mach)  : (m.clear ).now = m.now := rfl
@[simp] theorem Mach.clear_booted (m : Mach)  : (m.clear ).booted = m.booted := rfl
@[simp] theorem Mach.clear_cur (m : Mach)  : (m.clear ).cur = m.cur := rfl
@[simp] theorem Mach.clear_free (m : Mach)  : (m.clear ).free = m.free := rfl
@[simp] theorem Mach.clear_agenda (m : Mach)  : (m.clear ).agenda = m.agenda := rfl
@[simp] theorem Mach.clear_timers (m : Mach)  : (m.clear ).timers = m.timers := rfl
@[simp] theorem Mach.clear_issued (m : Mach)  : (m.clear ).issued = m.issued := rfl
@[simp] theorem Mach.clear_nextId (m : Mach)  : (m.clear ).nextId = m.nextId := rfl
@[simp] theorem Mach.clear_regs (m : Mach)  : (m.clear ).regs = m.regs := rfl
@[simp] theorem Mach.clear_slices (m : Mach)  : (m.clear ).slices = m.slices := rfl
@[simp] theorem Mach.clear_llc (m : Mach)  : (m.clear ).llc = m.llc := rfl
@[simp] theorem Mach.clear_reqs (m : Mach)  : (m.clear ).reqs = m.reqs := rfl
@[simp] theorem Mach.clear_msgs (m : Mach)  : (m.clear ).msgs = m.msgs := rfl
@[simp] theorem Mach.clear_resv (m : Mach)  : (m.clear ).resv = m.resv := rfl
@[simp] theorem Mach.clear_queues (m : Mach)  : (m.clear ).queues = m.queues := rfl
@[simp] theorem Mach.clear_launches (m : Mach)  : (m.clear ).launches = m.launches := rfl
@[simp] theorem Mach.clear_cards (m : Mach)  : (m.clear ).cards = m.cards := rfl
@[simp] theorem Mach.clear_tasks (m : Mach)  : (m.clear ).tasks = m.tasks := rfl
@[simp] theorem Mach.clear_poison (m : Mach)  : (m.clear ).poison = m.poison := rfl
@[simp] theorem Mach.clear_deeds (m : Mach)  : (m.clear ).deeds = m.deeds := rfl
@[simp] theorem Mach.clear_acks (m : Mach)  : (m.clear ).acks = m.acks := rfl
@[simp] theorem Mach.clear_procs (m : Mach)  : (m.clear ).procs = m.procs := rfl
@[simp] theorem Mach.clear_ops (m : Mach)  : (m.clear ).ops = m.ops := rfl
@[simp] theorem Mach.clear_saves (m : Mach)  : (m.clear ).saves = m.saves := rfl
@[simp] theorem Mach.clear_cpus (m : Mach)  : (m.clear ).cpus = m.cpus := rfl
@[simp] theorem Mach.clear_hotQueue (m : Mach)  : (m.clear ).hotQueue = m.hotQueue := rfl
@[simp] theorem Mach.clear_refresh (m : Mach)  : (m.clear ).refresh = m.refresh := rfl
@[simp] theorem Mach.clear_frozen (m : Mach)  : (m.clear ).frozen = m.frozen := rfl
@[simp] theorem Mach.clear_flips (m : Mach)  : (m.clear ).flips = m.flips := rfl
@[simp] theorem Mach.clear_hams (m : Mach)  : (m.clear ).hams = m.hams := rfl
@[simp] theorem Mach.clear_wr (m : Mach) : m.clear.wr = [] := rfl
@[simp] theorem Mach.clear_clear (m : Mach) : m.clear.clear = m.clear := rfl
@[simp] theorem Mach.clear_cw (m : Mach) : m.clear.cw = m.cw := rfl
@[simp] theorem Mach.clear_cb (m : Mach) : m.clear.cb = m.cb := rfl
@[simp] theorem Mach.clear_ham (m : Mach) (h : Nat) : m.clear.ham h = m.ham h := rfl
@[simp] theorem Mach.clear_warp (m : Mach) (h w : Nat) : m.clear.warp h w = m.warp h w := rfl
@[simp] theorem Mach.clear_block (m : Mach) (h b : Nat) : m.clear.block h b = m.block h b := rfl
@[simp] theorem Mach.clear_ctx (m : Mach) (h c : Nat) : m.clear.ctx h c = m.ctx h c := rfl
@[simp] theorem Mach.clear_v (m : Mach) (r l : Nat) : m.clear.v r l = m.v r l := rfl
@[simp] theorem Mach.clear_v2 (m : Mach) (r l : Nat) : m.clear.v2 r l = m.v2 r l := rfl
@[simp] theorem Mach.clear_s (m : Mach) (r : Nat) : m.clear.s r = m.s r := rfl
@[simp] theorem Mach.clear_k (m : Mach) (r : Nat) : m.clear.k r = m.k r := rfl
@[simp] theorem Mach.clear_fxv (m : Mach) (l : Nat) : m.clear.fxv l = m.fxv l := rfl
@[simp] theorem Mach.clear_active (m : Mach) (g : Nat) : m.clear.active g = m.active g := rfl
@[simp] theorem Mach.clear_activeAll (m : Mach) (g : Nat) : m.clear.activeAll g = m.activeAll g := rfl
@[simp] theorem Mach.clear_reg (m : Mach) (a : Nat) : m.clear.reg a = m.reg a := rfl
@[simp] theorem Mach.clear_regField (m : Mach) (a lo n : Nat) : m.clear.regField a lo n = m.regField a lo n := rfl
@[simp] theorem Mach.clear_warpCtx (m : Mach) (h w : Nat) : m.clear.warpCtx h w = m.warpCtx h w := rfl
@[simp] theorem Mach.clear_packetAddr (m : Mach) : m.clear.packetAddr = m.packetAddr := rfl
@[simp] theorem Mach.clear_partHam (m : Mach) (h : Nat) : m.clear.partHam h = m.partHam h := rfl
@[simp] theorem Mach.clear_bad (m : Mach) (a n : Nat) : m.clear.bad a n = m.bad a n := rfl
@[simp] theorem Mach.clear_queue (m : Mach) (q : Nat) : m.clear.queue q = m.queue q := rfl
@[simp] theorem Mach.clear_req (m : Mach) (i : Nat) : m.clear.req i = m.req i := rfl
@[simp] theorem Mach.setReg_now (m : Mach) (a : Nat) (v : Word) : (m.setReg a v).now = m.now := rfl
@[simp] theorem Mach.setReg_booted (m : Mach) (a : Nat) (v : Word) : (m.setReg a v).booted = m.booted := rfl
@[simp] theorem Mach.setReg_cur (m : Mach) (a : Nat) (v : Word) : (m.setReg a v).cur = m.cur := rfl
@[simp] theorem Mach.setReg_free (m : Mach) (a : Nat) (v : Word) : (m.setReg a v).free = m.free := rfl
@[simp] theorem Mach.setReg_agenda (m : Mach) (a : Nat) (v : Word) : (m.setReg a v).agenda = m.agenda := rfl
@[simp] theorem Mach.setReg_timers (m : Mach) (a : Nat) (v : Word) : (m.setReg a v).timers = m.timers := rfl
@[simp] theorem Mach.setReg_issued (m : Mach) (a : Nat) (v : Word) : (m.setReg a v).issued = m.issued := rfl
@[simp] theorem Mach.setReg_nextId (m : Mach) (a : Nat) (v : Word) : (m.setReg a v).nextId = m.nextId := rfl
@[simp] theorem Mach.setReg_slices (m : Mach) (a : Nat) (v : Word) : (m.setReg a v).slices = m.slices := rfl
@[simp] theorem Mach.setReg_llc (m : Mach) (a : Nat) (v : Word) : (m.setReg a v).llc = m.llc := rfl
@[simp] theorem Mach.setReg_reqs (m : Mach) (a : Nat) (v : Word) : (m.setReg a v).reqs = m.reqs := rfl
@[simp] theorem Mach.setReg_msgs (m : Mach) (a : Nat) (v : Word) : (m.setReg a v).msgs = m.msgs := rfl
@[simp] theorem Mach.setReg_resv (m : Mach) (a : Nat) (v : Word) : (m.setReg a v).resv = m.resv := rfl
@[simp] theorem Mach.setReg_queues (m : Mach) (a : Nat) (v : Word) : (m.setReg a v).queues = m.queues := rfl
@[simp] theorem Mach.setReg_launches (m : Mach) (a : Nat) (v : Word) : (m.setReg a v).launches = m.launches := rfl
@[simp] theorem Mach.setReg_cards (m : Mach) (a : Nat) (v : Word) : (m.setReg a v).cards = m.cards := rfl
@[simp] theorem Mach.setReg_tasks (m : Mach) (a : Nat) (v : Word) : (m.setReg a v).tasks = m.tasks := rfl
@[simp] theorem Mach.setReg_poison (m : Mach) (a : Nat) (v : Word) : (m.setReg a v).poison = m.poison := rfl
@[simp] theorem Mach.setReg_wr (m : Mach) (a : Nat) (v : Word) : (m.setReg a v).wr = m.wr := rfl
@[simp] theorem Mach.setReg_deeds (m : Mach) (a : Nat) (v : Word) : (m.setReg a v).deeds = m.deeds := rfl
@[simp] theorem Mach.setReg_acks (m : Mach) (a : Nat) (v : Word) : (m.setReg a v).acks = m.acks := rfl
@[simp] theorem Mach.setReg_procs (m : Mach) (a : Nat) (v : Word) : (m.setReg a v).procs = m.procs := rfl
@[simp] theorem Mach.setReg_ops (m : Mach) (a : Nat) (v : Word) : (m.setReg a v).ops = m.ops := rfl
@[simp] theorem Mach.setReg_saves (m : Mach) (a : Nat) (v : Word) : (m.setReg a v).saves = m.saves := rfl
@[simp] theorem Mach.setReg_cpus (m : Mach) (a : Nat) (v : Word) : (m.setReg a v).cpus = m.cpus := rfl
@[simp] theorem Mach.setReg_hotQueue (m : Mach) (a : Nat) (v : Word) : (m.setReg a v).hotQueue = m.hotQueue := rfl
@[simp] theorem Mach.setReg_refresh (m : Mach) (a : Nat) (v : Word) : (m.setReg a v).refresh = m.refresh := rfl
@[simp] theorem Mach.setReg_frozen (m : Mach) (a : Nat) (v : Word) : (m.setReg a v).frozen = m.frozen := rfl
@[simp] theorem Mach.setReg_flips (m : Mach) (a : Nat) (v : Word) : (m.setReg a v).flips = m.flips := rfl
@[simp] theorem Mach.setReg_hams (m : Mach) (a : Nat) (v : Word) : (m.setReg a v).hams = m.hams := rfl
@[simp] theorem Mach.setField_now (m : Mach) (a lo n x : Nat) : (m.setField a lo n x).now = m.now := rfl
@[simp] theorem Mach.setField_booted (m : Mach) (a lo n x : Nat) : (m.setField a lo n x).booted = m.booted := rfl
@[simp] theorem Mach.setField_cur (m : Mach) (a lo n x : Nat) : (m.setField a lo n x).cur = m.cur := rfl
@[simp] theorem Mach.setField_free (m : Mach) (a lo n x : Nat) : (m.setField a lo n x).free = m.free := rfl
@[simp] theorem Mach.setField_agenda (m : Mach) (a lo n x : Nat) : (m.setField a lo n x).agenda = m.agenda := rfl
@[simp] theorem Mach.setField_timers (m : Mach) (a lo n x : Nat) : (m.setField a lo n x).timers = m.timers := rfl
@[simp] theorem Mach.setField_issued (m : Mach) (a lo n x : Nat) : (m.setField a lo n x).issued = m.issued := rfl
@[simp] theorem Mach.setField_nextId (m : Mach) (a lo n x : Nat) : (m.setField a lo n x).nextId = m.nextId := rfl
@[simp] theorem Mach.setField_slices (m : Mach) (a lo n x : Nat) : (m.setField a lo n x).slices = m.slices := rfl
@[simp] theorem Mach.setField_llc (m : Mach) (a lo n x : Nat) : (m.setField a lo n x).llc = m.llc := rfl
@[simp] theorem Mach.setField_reqs (m : Mach) (a lo n x : Nat) : (m.setField a lo n x).reqs = m.reqs := rfl
@[simp] theorem Mach.setField_msgs (m : Mach) (a lo n x : Nat) : (m.setField a lo n x).msgs = m.msgs := rfl
@[simp] theorem Mach.setField_resv (m : Mach) (a lo n x : Nat) : (m.setField a lo n x).resv = m.resv := rfl
@[simp] theorem Mach.setField_queues (m : Mach) (a lo n x : Nat) : (m.setField a lo n x).queues = m.queues := rfl
@[simp] theorem Mach.setField_launches (m : Mach) (a lo n x : Nat) : (m.setField a lo n x).launches = m.launches := rfl
@[simp] theorem Mach.setField_cards (m : Mach) (a lo n x : Nat) : (m.setField a lo n x).cards = m.cards := rfl
@[simp] theorem Mach.setField_tasks (m : Mach) (a lo n x : Nat) : (m.setField a lo n x).tasks = m.tasks := rfl
@[simp] theorem Mach.setField_poison (m : Mach) (a lo n x : Nat) : (m.setField a lo n x).poison = m.poison := rfl
@[simp] theorem Mach.setField_wr (m : Mach) (a lo n x : Nat) : (m.setField a lo n x).wr = m.wr := rfl
@[simp] theorem Mach.setField_deeds (m : Mach) (a lo n x : Nat) : (m.setField a lo n x).deeds = m.deeds := rfl
@[simp] theorem Mach.setField_acks (m : Mach) (a lo n x : Nat) : (m.setField a lo n x).acks = m.acks := rfl
@[simp] theorem Mach.setField_procs (m : Mach) (a lo n x : Nat) : (m.setField a lo n x).procs = m.procs := rfl
@[simp] theorem Mach.setField_ops (m : Mach) (a lo n x : Nat) : (m.setField a lo n x).ops = m.ops := rfl
@[simp] theorem Mach.setField_saves (m : Mach) (a lo n x : Nat) : (m.setField a lo n x).saves = m.saves := rfl
@[simp] theorem Mach.setField_cpus (m : Mach) (a lo n x : Nat) : (m.setField a lo n x).cpus = m.cpus := rfl
@[simp] theorem Mach.setField_hotQueue (m : Mach) (a lo n x : Nat) : (m.setField a lo n x).hotQueue = m.hotQueue := rfl
@[simp] theorem Mach.setField_refresh (m : Mach) (a lo n x : Nat) : (m.setField a lo n x).refresh = m.refresh := rfl
@[simp] theorem Mach.setField_frozen (m : Mach) (a lo n x : Nat) : (m.setField a lo n x).frozen = m.frozen := rfl
@[simp] theorem Mach.setField_flips (m : Mach) (a lo n x : Nat) : (m.setField a lo n x).flips = m.flips := rfl
@[simp] theorem Mach.setField_hams (m : Mach) (a lo n x : Nat) : (m.setField a lo n x).hams = m.hams := rfl
@[simp] theorem Mach.schedule_now (m : Mach) (t : Nat) (e : Event) : (m.schedule t e).now = m.now := rfl
@[simp] theorem Mach.schedule_booted (m : Mach) (t : Nat) (e : Event) : (m.schedule t e).booted = m.booted := rfl
@[simp] theorem Mach.schedule_cur (m : Mach) (t : Nat) (e : Event) : (m.schedule t e).cur = m.cur := rfl
@[simp] theorem Mach.schedule_free (m : Mach) (t : Nat) (e : Event) : (m.schedule t e).free = m.free := rfl
@[simp] theorem Mach.schedule_agenda (m : Mach) (t : Nat) (e : Event) : (m.schedule t e).agenda = m.agenda := rfl
@[simp] theorem Mach.schedule_issued (m : Mach) (t : Nat) (e : Event) : (m.schedule t e).issued = m.issued := rfl
@[simp] theorem Mach.schedule_nextId (m : Mach) (t : Nat) (e : Event) : (m.schedule t e).nextId = m.nextId := rfl
@[simp] theorem Mach.schedule_regs (m : Mach) (t : Nat) (e : Event) : (m.schedule t e).regs = m.regs := rfl
@[simp] theorem Mach.schedule_slices (m : Mach) (t : Nat) (e : Event) : (m.schedule t e).slices = m.slices := rfl
@[simp] theorem Mach.schedule_llc (m : Mach) (t : Nat) (e : Event) : (m.schedule t e).llc = m.llc := rfl
@[simp] theorem Mach.schedule_reqs (m : Mach) (t : Nat) (e : Event) : (m.schedule t e).reqs = m.reqs := rfl
@[simp] theorem Mach.schedule_msgs (m : Mach) (t : Nat) (e : Event) : (m.schedule t e).msgs = m.msgs := rfl
@[simp] theorem Mach.schedule_resv (m : Mach) (t : Nat) (e : Event) : (m.schedule t e).resv = m.resv := rfl
@[simp] theorem Mach.schedule_queues (m : Mach) (t : Nat) (e : Event) : (m.schedule t e).queues = m.queues := rfl
@[simp] theorem Mach.schedule_launches (m : Mach) (t : Nat) (e : Event) : (m.schedule t e).launches = m.launches := rfl
@[simp] theorem Mach.schedule_cards (m : Mach) (t : Nat) (e : Event) : (m.schedule t e).cards = m.cards := rfl
@[simp] theorem Mach.schedule_tasks (m : Mach) (t : Nat) (e : Event) : (m.schedule t e).tasks = m.tasks := rfl
@[simp] theorem Mach.schedule_poison (m : Mach) (t : Nat) (e : Event) : (m.schedule t e).poison = m.poison := rfl
@[simp] theorem Mach.schedule_wr (m : Mach) (t : Nat) (e : Event) : (m.schedule t e).wr = m.wr := rfl
@[simp] theorem Mach.schedule_deeds (m : Mach) (t : Nat) (e : Event) : (m.schedule t e).deeds = m.deeds := rfl
@[simp] theorem Mach.schedule_acks (m : Mach) (t : Nat) (e : Event) : (m.schedule t e).acks = m.acks := rfl
@[simp] theorem Mach.schedule_procs (m : Mach) (t : Nat) (e : Event) : (m.schedule t e).procs = m.procs := rfl
@[simp] theorem Mach.schedule_ops (m : Mach) (t : Nat) (e : Event) : (m.schedule t e).ops = m.ops := rfl
@[simp] theorem Mach.schedule_saves (m : Mach) (t : Nat) (e : Event) : (m.schedule t e).saves = m.saves := rfl
@[simp] theorem Mach.schedule_cpus (m : Mach) (t : Nat) (e : Event) : (m.schedule t e).cpus = m.cpus := rfl
@[simp] theorem Mach.schedule_hotQueue (m : Mach) (t : Nat) (e : Event) : (m.schedule t e).hotQueue = m.hotQueue := rfl
@[simp] theorem Mach.schedule_refresh (m : Mach) (t : Nat) (e : Event) : (m.schedule t e).refresh = m.refresh := rfl
@[simp] theorem Mach.schedule_frozen (m : Mach) (t : Nat) (e : Event) : (m.schedule t e).frozen = m.frozen := rfl
@[simp] theorem Mach.schedule_flips (m : Mach) (t : Nat) (e : Event) : (m.schedule t e).flips = m.flips := rfl
@[simp] theorem Mach.schedule_hams (m : Mach) (t : Nat) (e : Event) : (m.schedule t e).hams = m.hams := rfl
@[simp] theorem Mach.st_now (m : Mach) (a : Nat) (b : Byte) : (m.st a b).now = m.now := rfl
@[simp] theorem Mach.st_booted (m : Mach) (a : Nat) (b : Byte) : (m.st a b).booted = m.booted := rfl
@[simp] theorem Mach.st_cur (m : Mach) (a : Nat) (b : Byte) : (m.st a b).cur = m.cur := rfl
@[simp] theorem Mach.st_free (m : Mach) (a : Nat) (b : Byte) : (m.st a b).free = m.free := rfl
@[simp] theorem Mach.st_agenda (m : Mach) (a : Nat) (b : Byte) : (m.st a b).agenda = m.agenda := rfl
@[simp] theorem Mach.st_timers (m : Mach) (a : Nat) (b : Byte) : (m.st a b).timers = m.timers := rfl
@[simp] theorem Mach.st_issued (m : Mach) (a : Nat) (b : Byte) : (m.st a b).issued = m.issued := rfl
@[simp] theorem Mach.st_nextId (m : Mach) (a : Nat) (b : Byte) : (m.st a b).nextId = m.nextId := rfl
@[simp] theorem Mach.st_regs (m : Mach) (a : Nat) (b : Byte) : (m.st a b).regs = m.regs := rfl
@[simp] theorem Mach.st_slices (m : Mach) (a : Nat) (b : Byte) : (m.st a b).slices = m.slices := rfl
@[simp] theorem Mach.st_llc (m : Mach) (a : Nat) (b : Byte) : (m.st a b).llc = m.llc := rfl
@[simp] theorem Mach.st_reqs (m : Mach) (a : Nat) (b : Byte) : (m.st a b).reqs = m.reqs := rfl
@[simp] theorem Mach.st_msgs (m : Mach) (a : Nat) (b : Byte) : (m.st a b).msgs = m.msgs := rfl
@[simp] theorem Mach.st_resv (m : Mach) (a : Nat) (b : Byte) : (m.st a b).resv = m.resv := rfl
@[simp] theorem Mach.st_queues (m : Mach) (a : Nat) (b : Byte) : (m.st a b).queues = m.queues := rfl
@[simp] theorem Mach.st_launches (m : Mach) (a : Nat) (b : Byte) : (m.st a b).launches = m.launches := rfl
@[simp] theorem Mach.st_cards (m : Mach) (a : Nat) (b : Byte) : (m.st a b).cards = m.cards := rfl
@[simp] theorem Mach.st_tasks (m : Mach) (a : Nat) (b : Byte) : (m.st a b).tasks = m.tasks := rfl
@[simp] theorem Mach.st_poison (m : Mach) (a : Nat) (b : Byte) : (m.st a b).poison = m.poison := rfl
@[simp] theorem Mach.st_deeds (m : Mach) (a : Nat) (b : Byte) : (m.st a b).deeds = m.deeds := rfl
@[simp] theorem Mach.st_acks (m : Mach) (a : Nat) (b : Byte) : (m.st a b).acks = m.acks := rfl
@[simp] theorem Mach.st_procs (m : Mach) (a : Nat) (b : Byte) : (m.st a b).procs = m.procs := rfl
@[simp] theorem Mach.st_ops (m : Mach) (a : Nat) (b : Byte) : (m.st a b).ops = m.ops := rfl
@[simp] theorem Mach.st_saves (m : Mach) (a : Nat) (b : Byte) : (m.st a b).saves = m.saves := rfl
@[simp] theorem Mach.st_cpus (m : Mach) (a : Nat) (b : Byte) : (m.st a b).cpus = m.cpus := rfl
@[simp] theorem Mach.st_hotQueue (m : Mach) (a : Nat) (b : Byte) : (m.st a b).hotQueue = m.hotQueue := rfl
@[simp] theorem Mach.st_refresh (m : Mach) (a : Nat) (b : Byte) : (m.st a b).refresh = m.refresh := rfl
@[simp] theorem Mach.st_frozen (m : Mach) (a : Nat) (b : Byte) : (m.st a b).frozen = m.frozen := rfl
@[simp] theorem Mach.st_flips (m : Mach) (a : Nat) (b : Byte) : (m.st a b).flips = m.flips := rfl
@[simp] theorem Mach.st_hams (m : Mach) (a : Nat) (b : Byte) : (m.st a b).hams = m.hams := rfl
@[simp] theorem Mach.endReq_now (m : Mach) (i : Nat) : (m.endReq i).now = m.now := rfl
@[simp] theorem Mach.endReq_booted (m : Mach) (i : Nat) : (m.endReq i).booted = m.booted := rfl
@[simp] theorem Mach.endReq_cur (m : Mach) (i : Nat) : (m.endReq i).cur = m.cur := rfl
@[simp] theorem Mach.endReq_free (m : Mach) (i : Nat) : (m.endReq i).free = m.free := rfl
@[simp] theorem Mach.endReq_agenda (m : Mach) (i : Nat) : (m.endReq i).agenda = m.agenda := rfl
@[simp] theorem Mach.endReq_timers (m : Mach) (i : Nat) : (m.endReq i).timers = m.timers := rfl
@[simp] theorem Mach.endReq_issued (m : Mach) (i : Nat) : (m.endReq i).issued = m.issued := rfl
@[simp] theorem Mach.endReq_nextId (m : Mach) (i : Nat) : (m.endReq i).nextId = m.nextId := rfl
@[simp] theorem Mach.endReq_regs (m : Mach) (i : Nat) : (m.endReq i).regs = m.regs := rfl
@[simp] theorem Mach.endReq_slices (m : Mach) (i : Nat) : (m.endReq i).slices = m.slices := rfl
@[simp] theorem Mach.endReq_llc (m : Mach) (i : Nat) : (m.endReq i).llc = m.llc := rfl
@[simp] theorem Mach.endReq_msgs (m : Mach) (i : Nat) : (m.endReq i).msgs = m.msgs := rfl
@[simp] theorem Mach.endReq_resv (m : Mach) (i : Nat) : (m.endReq i).resv = m.resv := rfl
@[simp] theorem Mach.endReq_queues (m : Mach) (i : Nat) : (m.endReq i).queues = m.queues := rfl
@[simp] theorem Mach.endReq_launches (m : Mach) (i : Nat) : (m.endReq i).launches = m.launches := rfl
@[simp] theorem Mach.endReq_cards (m : Mach) (i : Nat) : (m.endReq i).cards = m.cards := rfl
@[simp] theorem Mach.endReq_tasks (m : Mach) (i : Nat) : (m.endReq i).tasks = m.tasks := rfl
@[simp] theorem Mach.endReq_poison (m : Mach) (i : Nat) : (m.endReq i).poison = m.poison := rfl
@[simp] theorem Mach.endReq_wr (m : Mach) (i : Nat) : (m.endReq i).wr = m.wr := rfl
@[simp] theorem Mach.endReq_deeds (m : Mach) (i : Nat) : (m.endReq i).deeds = m.deeds := rfl
@[simp] theorem Mach.endReq_acks (m : Mach) (i : Nat) : (m.endReq i).acks = m.acks := rfl
@[simp] theorem Mach.endReq_procs (m : Mach) (i : Nat) : (m.endReq i).procs = m.procs := rfl
@[simp] theorem Mach.endReq_ops (m : Mach) (i : Nat) : (m.endReq i).ops = m.ops := rfl
@[simp] theorem Mach.endReq_saves (m : Mach) (i : Nat) : (m.endReq i).saves = m.saves := rfl
@[simp] theorem Mach.endReq_cpus (m : Mach) (i : Nat) : (m.endReq i).cpus = m.cpus := rfl
@[simp] theorem Mach.endReq_hotQueue (m : Mach) (i : Nat) : (m.endReq i).hotQueue = m.hotQueue := rfl
@[simp] theorem Mach.endReq_refresh (m : Mach) (i : Nat) : (m.endReq i).refresh = m.refresh := rfl
@[simp] theorem Mach.endReq_frozen (m : Mach) (i : Nat) : (m.endReq i).frozen = m.frozen := rfl
@[simp] theorem Mach.endReq_flips (m : Mach) (i : Nat) : (m.endReq i).flips = m.flips := rfl
@[simp] theorem Mach.endReq_hams (m : Mach) (i : Nat) : (m.endReq i).hams = m.hams := rfl
@[simp] theorem Mach.fresh_now (m : Mach) : (m.fresh).2.now = m.now := rfl
@[simp] theorem Mach.fresh_booted (m : Mach) : (m.fresh).2.booted = m.booted := rfl
@[simp] theorem Mach.fresh_cur (m : Mach) : (m.fresh).2.cur = m.cur := rfl
@[simp] theorem Mach.fresh_free (m : Mach) : (m.fresh).2.free = m.free := rfl
@[simp] theorem Mach.fresh_agenda (m : Mach) : (m.fresh).2.agenda = m.agenda := rfl
@[simp] theorem Mach.fresh_timers (m : Mach) : (m.fresh).2.timers = m.timers := rfl
@[simp] theorem Mach.fresh_issued (m : Mach) : (m.fresh).2.issued = m.issued := rfl
@[simp] theorem Mach.fresh_regs (m : Mach) : (m.fresh).2.regs = m.regs := rfl
@[simp] theorem Mach.fresh_slices (m : Mach) : (m.fresh).2.slices = m.slices := rfl
@[simp] theorem Mach.fresh_llc (m : Mach) : (m.fresh).2.llc = m.llc := rfl
@[simp] theorem Mach.fresh_reqs (m : Mach) : (m.fresh).2.reqs = m.reqs := rfl
@[simp] theorem Mach.fresh_msgs (m : Mach) : (m.fresh).2.msgs = m.msgs := rfl
@[simp] theorem Mach.fresh_resv (m : Mach) : (m.fresh).2.resv = m.resv := rfl
@[simp] theorem Mach.fresh_queues (m : Mach) : (m.fresh).2.queues = m.queues := rfl
@[simp] theorem Mach.fresh_launches (m : Mach) : (m.fresh).2.launches = m.launches := rfl
@[simp] theorem Mach.fresh_cards (m : Mach) : (m.fresh).2.cards = m.cards := rfl
@[simp] theorem Mach.fresh_tasks (m : Mach) : (m.fresh).2.tasks = m.tasks := rfl
@[simp] theorem Mach.fresh_poison (m : Mach) : (m.fresh).2.poison = m.poison := rfl
@[simp] theorem Mach.fresh_wr (m : Mach) : (m.fresh).2.wr = m.wr := rfl
@[simp] theorem Mach.fresh_deeds (m : Mach) : (m.fresh).2.deeds = m.deeds := rfl
@[simp] theorem Mach.fresh_acks (m : Mach) : (m.fresh).2.acks = m.acks := rfl
@[simp] theorem Mach.fresh_procs (m : Mach) : (m.fresh).2.procs = m.procs := rfl
@[simp] theorem Mach.fresh_ops (m : Mach) : (m.fresh).2.ops = m.ops := rfl
@[simp] theorem Mach.fresh_saves (m : Mach) : (m.fresh).2.saves = m.saves := rfl
@[simp] theorem Mach.fresh_cpus (m : Mach) : (m.fresh).2.cpus = m.cpus := rfl
@[simp] theorem Mach.fresh_hotQueue (m : Mach) : (m.fresh).2.hotQueue = m.hotQueue := rfl
@[simp] theorem Mach.fresh_refresh (m : Mach) : (m.fresh).2.refresh = m.refresh := rfl
@[simp] theorem Mach.fresh_frozen (m : Mach) : (m.fresh).2.frozen = m.frozen := rfl
@[simp] theorem Mach.fresh_flips (m : Mach) : (m.fresh).2.flips = m.flips := rfl
@[simp] theorem Mach.fresh_hams (m : Mach) : (m.fresh).2.hams = m.hams := rfl
@[simp] theorem Mach.freeWord_now (m : Mach) : (m.freeWord).2.now = m.now := rfl
@[simp] theorem Mach.freeWord_booted (m : Mach) : (m.freeWord).2.booted = m.booted := rfl
@[simp] theorem Mach.freeWord_cur (m : Mach) : (m.freeWord).2.cur = m.cur := rfl
@[simp] theorem Mach.freeWord_agenda (m : Mach) : (m.freeWord).2.agenda = m.agenda := rfl
@[simp] theorem Mach.freeWord_timers (m : Mach) : (m.freeWord).2.timers = m.timers := rfl
@[simp] theorem Mach.freeWord_issued (m : Mach) : (m.freeWord).2.issued = m.issued := rfl
@[simp] theorem Mach.freeWord_nextId (m : Mach) : (m.freeWord).2.nextId = m.nextId := rfl
@[simp] theorem Mach.freeWord_regs (m : Mach) : (m.freeWord).2.regs = m.regs := rfl
@[simp] theorem Mach.freeWord_slices (m : Mach) : (m.freeWord).2.slices = m.slices := rfl
@[simp] theorem Mach.freeWord_llc (m : Mach) : (m.freeWord).2.llc = m.llc := rfl
@[simp] theorem Mach.freeWord_reqs (m : Mach) : (m.freeWord).2.reqs = m.reqs := rfl
@[simp] theorem Mach.freeWord_msgs (m : Mach) : (m.freeWord).2.msgs = m.msgs := rfl
@[simp] theorem Mach.freeWord_resv (m : Mach) : (m.freeWord).2.resv = m.resv := rfl
@[simp] theorem Mach.freeWord_queues (m : Mach) : (m.freeWord).2.queues = m.queues := rfl
@[simp] theorem Mach.freeWord_launches (m : Mach) : (m.freeWord).2.launches = m.launches := rfl
@[simp] theorem Mach.freeWord_cards (m : Mach) : (m.freeWord).2.cards = m.cards := rfl
@[simp] theorem Mach.freeWord_tasks (m : Mach) : (m.freeWord).2.tasks = m.tasks := rfl
@[simp] theorem Mach.freeWord_poison (m : Mach) : (m.freeWord).2.poison = m.poison := rfl
@[simp] theorem Mach.freeWord_wr (m : Mach) : (m.freeWord).2.wr = m.wr := rfl
@[simp] theorem Mach.freeWord_deeds (m : Mach) : (m.freeWord).2.deeds = m.deeds := rfl
@[simp] theorem Mach.freeWord_acks (m : Mach) : (m.freeWord).2.acks = m.acks := rfl
@[simp] theorem Mach.freeWord_procs (m : Mach) : (m.freeWord).2.procs = m.procs := rfl
@[simp] theorem Mach.freeWord_ops (m : Mach) : (m.freeWord).2.ops = m.ops := rfl
@[simp] theorem Mach.freeWord_saves (m : Mach) : (m.freeWord).2.saves = m.saves := rfl
@[simp] theorem Mach.freeWord_cpus (m : Mach) : (m.freeWord).2.cpus = m.cpus := rfl
@[simp] theorem Mach.freeWord_hotQueue (m : Mach) : (m.freeWord).2.hotQueue = m.hotQueue := rfl
@[simp] theorem Mach.freeWord_refresh (m : Mach) : (m.freeWord).2.refresh = m.refresh := rfl
@[simp] theorem Mach.freeWord_frozen (m : Mach) : (m.freeWord).2.frozen = m.frozen := rfl
@[simp] theorem Mach.freeWord_flips (m : Mach) : (m.freeWord).2.flips = m.flips := rfl
@[simp] theorem Mach.freeWord_hams (m : Mach) : (m.freeWord).2.hams = m.hams := rfl
@[simp] theorem Mach.someTime_now (m : Mach) (t : Nat) : (m.someTime t).2.now = m.now := rfl
@[simp] theorem Mach.someTime_booted (m : Mach) (t : Nat) : (m.someTime t).2.booted = m.booted := rfl
@[simp] theorem Mach.someTime_cur (m : Mach) (t : Nat) : (m.someTime t).2.cur = m.cur := rfl
@[simp] theorem Mach.someTime_agenda (m : Mach) (t : Nat) : (m.someTime t).2.agenda = m.agenda := rfl
@[simp] theorem Mach.someTime_timers (m : Mach) (t : Nat) : (m.someTime t).2.timers = m.timers := rfl
@[simp] theorem Mach.someTime_issued (m : Mach) (t : Nat) : (m.someTime t).2.issued = m.issued := rfl
@[simp] theorem Mach.someTime_nextId (m : Mach) (t : Nat) : (m.someTime t).2.nextId = m.nextId := rfl
@[simp] theorem Mach.someTime_regs (m : Mach) (t : Nat) : (m.someTime t).2.regs = m.regs := rfl
@[simp] theorem Mach.someTime_slices (m : Mach) (t : Nat) : (m.someTime t).2.slices = m.slices := rfl
@[simp] theorem Mach.someTime_llc (m : Mach) (t : Nat) : (m.someTime t).2.llc = m.llc := rfl
@[simp] theorem Mach.someTime_reqs (m : Mach) (t : Nat) : (m.someTime t).2.reqs = m.reqs := rfl
@[simp] theorem Mach.someTime_msgs (m : Mach) (t : Nat) : (m.someTime t).2.msgs = m.msgs := rfl
@[simp] theorem Mach.someTime_resv (m : Mach) (t : Nat) : (m.someTime t).2.resv = m.resv := rfl
@[simp] theorem Mach.someTime_queues (m : Mach) (t : Nat) : (m.someTime t).2.queues = m.queues := rfl
@[simp] theorem Mach.someTime_launches (m : Mach) (t : Nat) : (m.someTime t).2.launches = m.launches := rfl
@[simp] theorem Mach.someTime_cards (m : Mach) (t : Nat) : (m.someTime t).2.cards = m.cards := rfl
@[simp] theorem Mach.someTime_tasks (m : Mach) (t : Nat) : (m.someTime t).2.tasks = m.tasks := rfl
@[simp] theorem Mach.someTime_poison (m : Mach) (t : Nat) : (m.someTime t).2.poison = m.poison := rfl
@[simp] theorem Mach.someTime_wr (m : Mach) (t : Nat) : (m.someTime t).2.wr = m.wr := rfl
@[simp] theorem Mach.someTime_deeds (m : Mach) (t : Nat) : (m.someTime t).2.deeds = m.deeds := rfl
@[simp] theorem Mach.someTime_acks (m : Mach) (t : Nat) : (m.someTime t).2.acks = m.acks := rfl
@[simp] theorem Mach.someTime_procs (m : Mach) (t : Nat) : (m.someTime t).2.procs = m.procs := rfl
@[simp] theorem Mach.someTime_ops (m : Mach) (t : Nat) : (m.someTime t).2.ops = m.ops := rfl
@[simp] theorem Mach.someTime_saves (m : Mach) (t : Nat) : (m.someTime t).2.saves = m.saves := rfl
@[simp] theorem Mach.someTime_cpus (m : Mach) (t : Nat) : (m.someTime t).2.cpus = m.cpus := rfl
@[simp] theorem Mach.someTime_hotQueue (m : Mach) (t : Nat) : (m.someTime t).2.hotQueue = m.hotQueue := rfl
@[simp] theorem Mach.someTime_refresh (m : Mach) (t : Nat) : (m.someTime t).2.refresh = m.refresh := rfl
@[simp] theorem Mach.someTime_frozen (m : Mach) (t : Nat) : (m.someTime t).2.frozen = m.frozen := rfl
@[simp] theorem Mach.someTime_flips (m : Mach) (t : Nat) : (m.someTime t).2.flips = m.flips := rfl
@[simp] theorem Mach.someTime_hams (m : Mach) (t : Nat) : (m.someTime t).2.hams = m.hams := rfl
@[simp] theorem Mach.fresh_fst (m : Mach) : m.fresh.1 = m.nextId := rfl
@[simp] theorem Mach.fresh_nextId (m : Mach) : m.fresh.2.nextId = m.nextId + 1 := rfl
@[simp] theorem Mach.freeWord_free (m : Mach) : m.freeWord.2.free = m.free + 1 := rfl
@[simp] theorem Mach.someTime_free (m : Mach) (t : Nat) : (m.someTime t).2.free = m.free + 1 := rfl
theorem Mach.someTime_le (m : Mach) (t : Nat) : t ≤ (m.someTime t).1 := Nat.le_add_right _ _
@[simp] theorem Mach.st_wr (m : Mach) (a : Nat) (b : Byte) : (m.st a b).wr = (a, b) :: m.wr := rfl

/-! ## What the updates of hamlets, warps and blocks write -/

@[simp] theorem Mach.ham_setHam (m : Mach) (h : Nat) (x : Hamlet) : (m.setHam h x).ham h = x := SMap.get_set_same ..
theorem Mach.ham_setHam_other (m : Mach) (h j : Nat) (x : Hamlet) (n : j ≠ h) : (m.setHam h x).ham j = m.ham j :=
  SMap.get_set_other _ _ _ _ _ n
@[simp] theorem Mach.ham_modHam (m : Mach) (h : Nat) (f : Hamlet → Hamlet) : (m.modHam h f).ham h = f (m.ham h) := by
  simp [Mach.modHam]
theorem Mach.ham_modHam_other (m : Mach) (h j : Nat) (f : Hamlet → Hamlet) (n : j ≠ h) : (m.modHam h f).ham j = m.ham j :=
  Mach.ham_setHam_other _ _ _ _ n
@[simp] theorem Mach.warp_setWarp (m : Mach) (h w : Nat) (x : Warp) : (m.setWarp h w x).warp h w = x := by
  simp [Mach.setWarp, Mach.warp]
theorem Mach.warp_setWarp_slot (m : Mach) (h w j : Nat) (x : Warp) (n : j ≠ w) : (m.setWarp h w x).warp h j = m.warp h j := by
  simp [Mach.setWarp, Mach.warp, SMap.get_set_other _ _ _ _ _ n]
theorem Mach.warp_setWarp_ham (m : Mach) (h w g j : Nat) (x : Warp) (n : g ≠ h) : (m.setWarp h w x).warp g j = m.warp g j := by
  simp [Mach.setWarp, Mach.warp, Mach.ham_modHam_other _ _ _ _ n]
@[simp] theorem Mach.warp_modWarp (m : Mach) (h w : Nat) (f : Warp → Warp) : (m.modWarp h w f).warp h w = f (m.warp h w) := by
  simp [Mach.modWarp]
@[simp] theorem Mach.cw_modCw (m : Mach) (f : Warp → Warp) : (m.modCw f).cw = f m.cw := by
  simp [Mach.modCw, Mach.cw]
/-- An update of a hamlet that keeps its warps keeps the current warp. -/
theorem Mach.cw_modHam (m : Mach) (h : Nat) (f : Hamlet → Hamlet) (k : ∀ x, (f x).warps = x.warps) : (m.modHam h f).cw = m.cw := by
  unfold Mach.cw Mach.warp
  by_cases e : m.cur.ham = h
  · subst e; simp [k]
  · simp [Mach.ham_modHam_other _ _ _ _ e]
@[simp] theorem Mach.block_setBlock (m : Mach) (h b : Nat) (x : Block) : (m.setBlock h b x).block h b = x := by
  simp [Mach.setBlock, Mach.block]
@[simp] theorem Mach.block_modBlock (m : Mach) (h b : Nat) (f : Block → Block) : (m.modBlock h b f).block h b = f (m.block h b) := by
  simp [Mach.modBlock]
@[simp] theorem Mach.block_setWarp (m : Mach) (h w g b : Nat) (x : Warp) : (m.setWarp h w x).block g b = m.block g b := by
  unfold Mach.block Mach.setWarp
  by_cases e : g = h
  · subst e; simp
  · simp [Mach.ham_modHam_other _ _ _ _ e]
@[simp] theorem Mach.addPend_pends (m : Mach) (h w : Nat) (p : Pend) : ((m.addPend h w p).warp h w).pends = (m.warp h w).pends ++ [p] := by
  simp [Mach.addPend]

/-! ## Updates of lanes leave the registers of their warp -/

@[simp] theorem Warp.modLane_v (x : Warp) (l : Nat) (f : Lane → Lane) : (x.modLane l f).v = x.v := rfl
@[simp] theorem Warp.modLane_s (x : Warp) (l : Nat) (f : Lane → Lane) : (x.modLane l f).s = x.s := rfl
@[simp] theorem Warp.modLane_k (x : Warp) (l : Nat) (f : Lane → Lane) : (x.modLane l f).k = x.k := rfl
@[simp] theorem Warp.modLane_arr (x : Warp) (l : Nat) (f : Lane → Lane) : (x.modLane l f).arr = x.arr := rfl
@[simp] theorem Warp.modLane_fx (x : Warp) (l : Nat) (f : Lane → Lane) : (x.modLane l f).fx = x.fx := rfl
@[simp] theorem Warp.modLane_fpmode (x : Warp) (l : Nat) (f : Lane → Lane) : (x.modLane l f).fpmode = x.fpmode := rfl
@[simp] theorem Warp.modLane_trapcause (x : Warp) (l : Nat) (f : Lane → Lane) : (x.modLane l f).trapcause = x.trapcause := rfl
@[simp] theorem Warp.modLane_trapd0 (x : Warp) (l : Nat) (f : Lane → Lane) : (x.modLane l f).trapd0 = x.trapd0 := rfl
@[simp] theorem Warp.modLane_trapd1 (x : Warp) (l : Nat) (f : Lane → Lane) : (x.modLane l f).trapd1 = x.trapd1 := rfl
@[simp] theorem Warp.modLane_trapd2 (x : Warp) (l : Nat) (f : Lane → Lane) : (x.modLane l f).trapd2 = x.trapd2 := rfl
@[simp] theorem Warp.modLane_trappc (x : Warp) (l : Nat) (f : Lane → Lane) : (x.modLane l f).trappc = x.trappc := rfl
@[simp] theorem Warp.modLane_trapmask (x : Warp) (l : Nat) (f : Lane → Lane) : (x.modLane l f).trapmask = x.trapmask := rfl
@[simp] theorem Warp.modLane_tvec (x : Warp) (l : Nat) (f : Lane → Lane) : (x.modLane l f).tvec = x.tvec := rfl
@[simp] theorem Warp.modLane_hmode (x : Warp) (l : Nat) (f : Lane → Lane) : (x.modLane l f).hmode = x.hmode := rfl
@[simp] theorem Warp.modLane_saved (x : Warp) (l : Nat) (f : Lane → Lane) : (x.modLane l f).saved = x.saved := rfl
@[simp] theorem Warp.modLane_resumes (x : Warp) (l : Nat) (f : Lane → Lane) : (x.modLane l f).resumes = x.resumes := rfl
@[simp] theorem Warp.modLane_pends (x : Warp) (l : Nat) (f : Lane → Lane) : (x.modLane l f).pends = x.pends := rfl
@[simp] theorem Warp.modLane_log (x : Warp) (l : Nat) (f : Lane → Lane) : (x.modLane l f).log = x.log := rfl
@[simp] theorem Warp.modLane_fences (x : Warp) (l : Nat) (f : Lane → Lane) : (x.modLane l f).fences = x.fences := rfl
@[simp] theorem Warp.modLane_withheld (x : Warp) (l : Nat) (f : Lane → Lane) : (x.modLane l f).withheld = x.withheld := rfl
@[simp] theorem Warp.modLane_parkAt (x : Warp) (l : Nat) (f : Lane → Lane) : (x.modLane l f).parkAt = x.parkAt := rfl
@[simp] theorem Warp.modLane_ended (x : Warp) (l : Nat) (f : Lane → Lane) : (x.modLane l f).ended = x.ended := rfl
@[simp] theorem Warp.modLane_active (x : Warp) (l : Nat) (f : Lane → Lane) : (x.modLane l f).active = x.active := rfl
@[simp] theorem Warp.modLane_block (x : Warp) (l : Nat) (f : Lane → Lane) : (x.modLane l f).block = x.block := rfl
@[simp] theorem Warp.modLane_idx (x : Warp) (l : Nat) (f : Lane → Lane) : (x.modLane l f).idx = x.idx := rfl

/-- A fold of lane updates keeps whatever each of them keeps. -/
theorem Warp.foldl_keeps {α β : Type} (p : Warp → β) (g : Warp → α → Warp) (k : ∀ x a, p (g x a) = p x) :
    ∀ (l : List α) (x : Warp), p (l.foldl g x) = p x := by
  intro l
  induction l with
  | nil => intro x; rfl
  | cons a r ih => intro x; simp [ih, k]

@[simp] theorem Warp.modLanes_v (x : Warp) (k : Word) (f : Lane → Lane) : (x.modLanes k f).v = x.v :=
  Warp.foldl_keeps (·.v) (fun x l => x.modLane l f) (fun _ _ => rfl) _ _
@[simp] theorem Warp.modLanes_s (x : Warp) (k : Word) (f : Lane → Lane) : (x.modLanes k f).s = x.s :=
  Warp.foldl_keeps (·.s) (fun x l => x.modLane l f) (fun _ _ => rfl) _ _
@[simp] theorem Warp.modLanes_k (x : Warp) (k : Word) (f : Lane → Lane) : (x.modLanes k f).k = x.k :=
  Warp.foldl_keeps (·.k) (fun x l => x.modLane l f) (fun _ _ => rfl) _ _
@[simp] theorem Warp.modLanes_arr (x : Warp) (k : Word) (f : Lane → Lane) : (x.modLanes k f).arr = x.arr :=
  Warp.foldl_keeps (·.arr) (fun x l => x.modLane l f) (fun _ _ => rfl) _ _
@[simp] theorem Warp.modLanes_fx (x : Warp) (k : Word) (f : Lane → Lane) : (x.modLanes k f).fx = x.fx :=
  Warp.foldl_keeps (·.fx) (fun x l => x.modLane l f) (fun _ _ => rfl) _ _
@[simp] theorem Warp.modLanes_fpmode (x : Warp) (k : Word) (f : Lane → Lane) : (x.modLanes k f).fpmode = x.fpmode :=
  Warp.foldl_keeps (·.fpmode) (fun x l => x.modLane l f) (fun _ _ => rfl) _ _
@[simp] theorem Warp.modLanes_trapcause (x : Warp) (k : Word) (f : Lane → Lane) : (x.modLanes k f).trapcause = x.trapcause :=
  Warp.foldl_keeps (·.trapcause) (fun x l => x.modLane l f) (fun _ _ => rfl) _ _
@[simp] theorem Warp.modLanes_trapd0 (x : Warp) (k : Word) (f : Lane → Lane) : (x.modLanes k f).trapd0 = x.trapd0 :=
  Warp.foldl_keeps (·.trapd0) (fun x l => x.modLane l f) (fun _ _ => rfl) _ _
@[simp] theorem Warp.modLanes_trapd1 (x : Warp) (k : Word) (f : Lane → Lane) : (x.modLanes k f).trapd1 = x.trapd1 :=
  Warp.foldl_keeps (·.trapd1) (fun x l => x.modLane l f) (fun _ _ => rfl) _ _
@[simp] theorem Warp.modLanes_trapd2 (x : Warp) (k : Word) (f : Lane → Lane) : (x.modLanes k f).trapd2 = x.trapd2 :=
  Warp.foldl_keeps (·.trapd2) (fun x l => x.modLane l f) (fun _ _ => rfl) _ _
@[simp] theorem Warp.modLanes_trappc (x : Warp) (k : Word) (f : Lane → Lane) : (x.modLanes k f).trappc = x.trappc :=
  Warp.foldl_keeps (·.trappc) (fun x l => x.modLane l f) (fun _ _ => rfl) _ _
@[simp] theorem Warp.modLanes_trapmask (x : Warp) (k : Word) (f : Lane → Lane) : (x.modLanes k f).trapmask = x.trapmask :=
  Warp.foldl_keeps (·.trapmask) (fun x l => x.modLane l f) (fun _ _ => rfl) _ _
@[simp] theorem Warp.modLanes_tvec (x : Warp) (k : Word) (f : Lane → Lane) : (x.modLanes k f).tvec = x.tvec :=
  Warp.foldl_keeps (·.tvec) (fun x l => x.modLane l f) (fun _ _ => rfl) _ _
@[simp] theorem Warp.modLanes_hmode (x : Warp) (k : Word) (f : Lane → Lane) : (x.modLanes k f).hmode = x.hmode :=
  Warp.foldl_keeps (·.hmode) (fun x l => x.modLane l f) (fun _ _ => rfl) _ _
@[simp] theorem Warp.modLanes_saved (x : Warp) (k : Word) (f : Lane → Lane) : (x.modLanes k f).saved = x.saved :=
  Warp.foldl_keeps (·.saved) (fun x l => x.modLane l f) (fun _ _ => rfl) _ _
@[simp] theorem Warp.modLanes_resumes (x : Warp) (k : Word) (f : Lane → Lane) : (x.modLanes k f).resumes = x.resumes :=
  Warp.foldl_keeps (·.resumes) (fun x l => x.modLane l f) (fun _ _ => rfl) _ _
@[simp] theorem Warp.modLanes_pends (x : Warp) (k : Word) (f : Lane → Lane) : (x.modLanes k f).pends = x.pends :=
  Warp.foldl_keeps (·.pends) (fun x l => x.modLane l f) (fun _ _ => rfl) _ _
@[simp] theorem Warp.modLanes_log (x : Warp) (k : Word) (f : Lane → Lane) : (x.modLanes k f).log = x.log :=
  Warp.foldl_keeps (·.log) (fun x l => x.modLane l f) (fun _ _ => rfl) _ _
@[simp] theorem Warp.modLanes_fences (x : Warp) (k : Word) (f : Lane → Lane) : (x.modLanes k f).fences = x.fences :=
  Warp.foldl_keeps (·.fences) (fun x l => x.modLane l f) (fun _ _ => rfl) _ _
@[simp] theorem Warp.modLanes_withheld (x : Warp) (k : Word) (f : Lane → Lane) : (x.modLanes k f).withheld = x.withheld :=
  Warp.foldl_keeps (·.withheld) (fun x l => x.modLane l f) (fun _ _ => rfl) _ _
@[simp] theorem Warp.modLanes_parkAt (x : Warp) (k : Word) (f : Lane → Lane) : (x.modLanes k f).parkAt = x.parkAt :=
  Warp.foldl_keeps (·.parkAt) (fun x l => x.modLane l f) (fun _ _ => rfl) _ _
@[simp] theorem Warp.modLanes_ended (x : Warp) (k : Word) (f : Lane → Lane) : (x.modLanes k f).ended = x.ended :=
  Warp.foldl_keeps (·.ended) (fun x l => x.modLane l f) (fun _ _ => rfl) _ _
@[simp] theorem Warp.modLanes_active (x : Warp) (k : Word) (f : Lane → Lane) : (x.modLanes k f).active = x.active :=
  Warp.foldl_keeps (·.active) (fun x l => x.modLane l f) (fun _ _ => rfl) _ _
@[simp] theorem Warp.modLanes_block (x : Warp) (k : Word) (f : Lane → Lane) : (x.modLanes k f).block = x.block :=
  Warp.foldl_keeps (·.block) (fun x l => x.modLane l f) (fun _ _ => rfl) _ _
@[simp] theorem Warp.modLanes_idx (x : Warp) (k : Word) (f : Lane → Lane) : (x.modLanes k f).idx = x.idx :=
  Warp.foldl_keeps (·.idx) (fun x l => x.modLane l f) (fun _ _ => rfl) _ _
@[simp] theorem Warp.hold_v (x : Warp) (k : Word) (y : Hold) (pc : Word) (a : Nat) (v : Word) :
    (x.hold k y pc a v).v = x.v := Warp.modLanes_v ..
@[simp] theorem Warp.holdHere_v (x : Warp) (k : Word) (y : Hold) : (x.holdHere k y).v = x.v := Warp.modLanes_v ..
@[simp] theorem Warp.park_v (x : Warp) (k : Word) (y : Park) : (x.park k y).v = x.v := Warp.modLanes_v ..
@[simp] theorem Warp.hold_s (x : Warp) (k : Word) (y : Hold) (pc : Word) (a : Nat) (v : Word) :
    (x.hold k y pc a v).s = x.s := Warp.modLanes_s ..
@[simp] theorem Warp.holdHere_s (x : Warp) (k : Word) (y : Hold) : (x.holdHere k y).s = x.s := Warp.modLanes_s ..
@[simp] theorem Warp.park_s (x : Warp) (k : Word) (y : Park) : (x.park k y).s = x.s := Warp.modLanes_s ..
@[simp] theorem Warp.hold_k (x : Warp) (k : Word) (y : Hold) (pc : Word) (a : Nat) (v : Word) :
    (x.hold k y pc a v).k = x.k := Warp.modLanes_k ..
@[simp] theorem Warp.holdHere_k (x : Warp) (k : Word) (y : Hold) : (x.holdHere k y).k = x.k := Warp.modLanes_k ..
@[simp] theorem Warp.park_k (x : Warp) (k : Word) (y : Park) : (x.park k y).k = x.k := Warp.modLanes_k ..
@[simp] theorem Warp.hold_arr (x : Warp) (k : Word) (y : Hold) (pc : Word) (a : Nat) (v : Word) :
    (x.hold k y pc a v).arr = x.arr := Warp.modLanes_arr ..
@[simp] theorem Warp.holdHere_arr (x : Warp) (k : Word) (y : Hold) : (x.holdHere k y).arr = x.arr := Warp.modLanes_arr ..
@[simp] theorem Warp.park_arr (x : Warp) (k : Word) (y : Park) : (x.park k y).arr = x.arr := Warp.modLanes_arr ..
@[simp] theorem Warp.hold_fx (x : Warp) (k : Word) (y : Hold) (pc : Word) (a : Nat) (v : Word) :
    (x.hold k y pc a v).fx = x.fx := Warp.modLanes_fx ..
@[simp] theorem Warp.holdHere_fx (x : Warp) (k : Word) (y : Hold) : (x.holdHere k y).fx = x.fx := Warp.modLanes_fx ..
@[simp] theorem Warp.park_fx (x : Warp) (k : Word) (y : Park) : (x.park k y).fx = x.fx := Warp.modLanes_fx ..
@[simp] theorem Warp.hold_fpmode (x : Warp) (k : Word) (y : Hold) (pc : Word) (a : Nat) (v : Word) :
    (x.hold k y pc a v).fpmode = x.fpmode := Warp.modLanes_fpmode ..
@[simp] theorem Warp.holdHere_fpmode (x : Warp) (k : Word) (y : Hold) : (x.holdHere k y).fpmode = x.fpmode := Warp.modLanes_fpmode ..
@[simp] theorem Warp.park_fpmode (x : Warp) (k : Word) (y : Park) : (x.park k y).fpmode = x.fpmode := Warp.modLanes_fpmode ..
@[simp] theorem Warp.hold_trapcause (x : Warp) (k : Word) (y : Hold) (pc : Word) (a : Nat) (v : Word) :
    (x.hold k y pc a v).trapcause = x.trapcause := Warp.modLanes_trapcause ..
@[simp] theorem Warp.holdHere_trapcause (x : Warp) (k : Word) (y : Hold) : (x.holdHere k y).trapcause = x.trapcause := Warp.modLanes_trapcause ..
@[simp] theorem Warp.park_trapcause (x : Warp) (k : Word) (y : Park) : (x.park k y).trapcause = x.trapcause := Warp.modLanes_trapcause ..
@[simp] theorem Warp.hold_trapd0 (x : Warp) (k : Word) (y : Hold) (pc : Word) (a : Nat) (v : Word) :
    (x.hold k y pc a v).trapd0 = x.trapd0 := Warp.modLanes_trapd0 ..
@[simp] theorem Warp.holdHere_trapd0 (x : Warp) (k : Word) (y : Hold) : (x.holdHere k y).trapd0 = x.trapd0 := Warp.modLanes_trapd0 ..
@[simp] theorem Warp.park_trapd0 (x : Warp) (k : Word) (y : Park) : (x.park k y).trapd0 = x.trapd0 := Warp.modLanes_trapd0 ..
@[simp] theorem Warp.hold_trapd1 (x : Warp) (k : Word) (y : Hold) (pc : Word) (a : Nat) (v : Word) :
    (x.hold k y pc a v).trapd1 = x.trapd1 := Warp.modLanes_trapd1 ..
@[simp] theorem Warp.holdHere_trapd1 (x : Warp) (k : Word) (y : Hold) : (x.holdHere k y).trapd1 = x.trapd1 := Warp.modLanes_trapd1 ..
@[simp] theorem Warp.park_trapd1 (x : Warp) (k : Word) (y : Park) : (x.park k y).trapd1 = x.trapd1 := Warp.modLanes_trapd1 ..
@[simp] theorem Warp.hold_trapd2 (x : Warp) (k : Word) (y : Hold) (pc : Word) (a : Nat) (v : Word) :
    (x.hold k y pc a v).trapd2 = x.trapd2 := Warp.modLanes_trapd2 ..
@[simp] theorem Warp.holdHere_trapd2 (x : Warp) (k : Word) (y : Hold) : (x.holdHere k y).trapd2 = x.trapd2 := Warp.modLanes_trapd2 ..
@[simp] theorem Warp.park_trapd2 (x : Warp) (k : Word) (y : Park) : (x.park k y).trapd2 = x.trapd2 := Warp.modLanes_trapd2 ..
@[simp] theorem Warp.hold_trappc (x : Warp) (k : Word) (y : Hold) (pc : Word) (a : Nat) (v : Word) :
    (x.hold k y pc a v).trappc = x.trappc := Warp.modLanes_trappc ..
@[simp] theorem Warp.holdHere_trappc (x : Warp) (k : Word) (y : Hold) : (x.holdHere k y).trappc = x.trappc := Warp.modLanes_trappc ..
@[simp] theorem Warp.park_trappc (x : Warp) (k : Word) (y : Park) : (x.park k y).trappc = x.trappc := Warp.modLanes_trappc ..
@[simp] theorem Warp.hold_trapmask (x : Warp) (k : Word) (y : Hold) (pc : Word) (a : Nat) (v : Word) :
    (x.hold k y pc a v).trapmask = x.trapmask := Warp.modLanes_trapmask ..
@[simp] theorem Warp.holdHere_trapmask (x : Warp) (k : Word) (y : Hold) : (x.holdHere k y).trapmask = x.trapmask := Warp.modLanes_trapmask ..
@[simp] theorem Warp.park_trapmask (x : Warp) (k : Word) (y : Park) : (x.park k y).trapmask = x.trapmask := Warp.modLanes_trapmask ..
@[simp] theorem Warp.hold_tvec (x : Warp) (k : Word) (y : Hold) (pc : Word) (a : Nat) (v : Word) :
    (x.hold k y pc a v).tvec = x.tvec := Warp.modLanes_tvec ..
@[simp] theorem Warp.holdHere_tvec (x : Warp) (k : Word) (y : Hold) : (x.holdHere k y).tvec = x.tvec := Warp.modLanes_tvec ..
@[simp] theorem Warp.park_tvec (x : Warp) (k : Word) (y : Park) : (x.park k y).tvec = x.tvec := Warp.modLanes_tvec ..
@[simp] theorem Warp.hold_hmode (x : Warp) (k : Word) (y : Hold) (pc : Word) (a : Nat) (v : Word) :
    (x.hold k y pc a v).hmode = x.hmode := Warp.modLanes_hmode ..
@[simp] theorem Warp.holdHere_hmode (x : Warp) (k : Word) (y : Hold) : (x.holdHere k y).hmode = x.hmode := Warp.modLanes_hmode ..
@[simp] theorem Warp.park_hmode (x : Warp) (k : Word) (y : Park) : (x.park k y).hmode = x.hmode := Warp.modLanes_hmode ..
@[simp] theorem Warp.hold_saved (x : Warp) (k : Word) (y : Hold) (pc : Word) (a : Nat) (v : Word) :
    (x.hold k y pc a v).saved = x.saved := Warp.modLanes_saved ..
@[simp] theorem Warp.holdHere_saved (x : Warp) (k : Word) (y : Hold) : (x.holdHere k y).saved = x.saved := Warp.modLanes_saved ..
@[simp] theorem Warp.park_saved (x : Warp) (k : Word) (y : Park) : (x.park k y).saved = x.saved := Warp.modLanes_saved ..
@[simp] theorem Warp.hold_resumes (x : Warp) (k : Word) (y : Hold) (pc : Word) (a : Nat) (v : Word) :
    (x.hold k y pc a v).resumes = x.resumes := Warp.modLanes_resumes ..
@[simp] theorem Warp.holdHere_resumes (x : Warp) (k : Word) (y : Hold) : (x.holdHere k y).resumes = x.resumes := Warp.modLanes_resumes ..
@[simp] theorem Warp.park_resumes (x : Warp) (k : Word) (y : Park) : (x.park k y).resumes = x.resumes := Warp.modLanes_resumes ..
@[simp] theorem Warp.hold_pends (x : Warp) (k : Word) (y : Hold) (pc : Word) (a : Nat) (v : Word) :
    (x.hold k y pc a v).pends = x.pends := Warp.modLanes_pends ..
@[simp] theorem Warp.holdHere_pends (x : Warp) (k : Word) (y : Hold) : (x.holdHere k y).pends = x.pends := Warp.modLanes_pends ..
@[simp] theorem Warp.park_pends (x : Warp) (k : Word) (y : Park) : (x.park k y).pends = x.pends := Warp.modLanes_pends ..
@[simp] theorem Warp.hold_log (x : Warp) (k : Word) (y : Hold) (pc : Word) (a : Nat) (v : Word) :
    (x.hold k y pc a v).log = x.log := Warp.modLanes_log ..
@[simp] theorem Warp.holdHere_log (x : Warp) (k : Word) (y : Hold) : (x.holdHere k y).log = x.log := Warp.modLanes_log ..
@[simp] theorem Warp.park_log (x : Warp) (k : Word) (y : Park) : (x.park k y).log = x.log := Warp.modLanes_log ..
@[simp] theorem Warp.hold_fences (x : Warp) (k : Word) (y : Hold) (pc : Word) (a : Nat) (v : Word) :
    (x.hold k y pc a v).fences = x.fences := Warp.modLanes_fences ..
@[simp] theorem Warp.holdHere_fences (x : Warp) (k : Word) (y : Hold) : (x.holdHere k y).fences = x.fences := Warp.modLanes_fences ..
@[simp] theorem Warp.park_fences (x : Warp) (k : Word) (y : Park) : (x.park k y).fences = x.fences := Warp.modLanes_fences ..
@[simp] theorem Warp.hold_withheld (x : Warp) (k : Word) (y : Hold) (pc : Word) (a : Nat) (v : Word) :
    (x.hold k y pc a v).withheld = x.withheld := Warp.modLanes_withheld ..
@[simp] theorem Warp.holdHere_withheld (x : Warp) (k : Word) (y : Hold) : (x.holdHere k y).withheld = x.withheld := Warp.modLanes_withheld ..
@[simp] theorem Warp.park_withheld (x : Warp) (k : Word) (y : Park) : (x.park k y).withheld = x.withheld := Warp.modLanes_withheld ..
@[simp] theorem Warp.hold_parkAt (x : Warp) (k : Word) (y : Hold) (pc : Word) (a : Nat) (v : Word) :
    (x.hold k y pc a v).parkAt = x.parkAt := Warp.modLanes_parkAt ..
@[simp] theorem Warp.holdHere_parkAt (x : Warp) (k : Word) (y : Hold) : (x.holdHere k y).parkAt = x.parkAt := Warp.modLanes_parkAt ..
@[simp] theorem Warp.park_parkAt (x : Warp) (k : Word) (y : Park) : (x.park k y).parkAt = x.parkAt := Warp.modLanes_parkAt ..
@[simp] theorem Warp.hold_ended (x : Warp) (k : Word) (y : Hold) (pc : Word) (a : Nat) (v : Word) :
    (x.hold k y pc a v).ended = x.ended := Warp.modLanes_ended ..
@[simp] theorem Warp.holdHere_ended (x : Warp) (k : Word) (y : Hold) : (x.holdHere k y).ended = x.ended := Warp.modLanes_ended ..
@[simp] theorem Warp.park_ended (x : Warp) (k : Word) (y : Park) : (x.park k y).ended = x.ended := Warp.modLanes_ended ..
@[simp] theorem Warp.hold_active (x : Warp) (k : Word) (y : Hold) (pc : Word) (a : Nat) (v : Word) :
    (x.hold k y pc a v).active = x.active := Warp.modLanes_active ..
@[simp] theorem Warp.holdHere_active (x : Warp) (k : Word) (y : Hold) : (x.holdHere k y).active = x.active := Warp.modLanes_active ..
@[simp] theorem Warp.park_active (x : Warp) (k : Word) (y : Park) : (x.park k y).active = x.active := Warp.modLanes_active ..
@[simp] theorem Warp.hold_block (x : Warp) (k : Word) (y : Hold) (pc : Word) (a : Nat) (v : Word) :
    (x.hold k y pc a v).block = x.block := Warp.modLanes_block ..
@[simp] theorem Warp.holdHere_block (x : Warp) (k : Word) (y : Hold) : (x.holdHere k y).block = x.block := Warp.modLanes_block ..
@[simp] theorem Warp.park_block (x : Warp) (k : Word) (y : Park) : (x.park k y).block = x.block := Warp.modLanes_block ..
@[simp] theorem Warp.hold_idx (x : Warp) (k : Word) (y : Hold) (pc : Word) (a : Nat) (v : Word) :
    (x.hold k y pc a v).idx = x.idx := Warp.modLanes_idx ..
@[simp] theorem Warp.holdHere_idx (x : Warp) (k : Word) (y : Hold) : (x.holdHere k y).idx = x.idx := Warp.modLanes_idx ..
@[simp] theorem Warp.park_idx (x : Warp) (k : Word) (y : Park) : (x.park k y).idx = x.idx := Warp.modLanes_idx ..
@[simp] theorem Warp.release_v (x : Warp) (k : Word) (t : Nat) : (x.release k t).v = x.v :=
  (Warp.foldl_keeps (·.v) (Warp.releaseLane t) (fun _ _ => rfl) _ _).trans (Warp.modLanes_v ..)
@[simp] theorem Warp.release_s (x : Warp) (k : Word) (t : Nat) : (x.release k t).s = x.s :=
  (Warp.foldl_keeps (·.s) (Warp.releaseLane t) (fun _ _ => rfl) _ _).trans (Warp.modLanes_s ..)
@[simp] theorem Warp.release_k (x : Warp) (k : Word) (t : Nat) : (x.release k t).k = x.k :=
  (Warp.foldl_keeps (·.k) (Warp.releaseLane t) (fun _ _ => rfl) _ _).trans (Warp.modLanes_k ..)
@[simp] theorem Warp.release_arr (x : Warp) (k : Word) (t : Nat) : (x.release k t).arr = x.arr :=
  (Warp.foldl_keeps (·.arr) (Warp.releaseLane t) (fun _ _ => rfl) _ _).trans (Warp.modLanes_arr ..)
@[simp] theorem Warp.release_fx (x : Warp) (k : Word) (t : Nat) : (x.release k t).fx = x.fx :=
  (Warp.foldl_keeps (·.fx) (Warp.releaseLane t) (fun _ _ => rfl) _ _).trans (Warp.modLanes_fx ..)
@[simp] theorem Warp.release_fpmode (x : Warp) (k : Word) (t : Nat) : (x.release k t).fpmode = x.fpmode :=
  (Warp.foldl_keeps (·.fpmode) (Warp.releaseLane t) (fun _ _ => rfl) _ _).trans (Warp.modLanes_fpmode ..)
@[simp] theorem Warp.release_trapcause (x : Warp) (k : Word) (t : Nat) : (x.release k t).trapcause = x.trapcause :=
  (Warp.foldl_keeps (·.trapcause) (Warp.releaseLane t) (fun _ _ => rfl) _ _).trans (Warp.modLanes_trapcause ..)
@[simp] theorem Warp.release_trapd0 (x : Warp) (k : Word) (t : Nat) : (x.release k t).trapd0 = x.trapd0 :=
  (Warp.foldl_keeps (·.trapd0) (Warp.releaseLane t) (fun _ _ => rfl) _ _).trans (Warp.modLanes_trapd0 ..)
@[simp] theorem Warp.release_trapd1 (x : Warp) (k : Word) (t : Nat) : (x.release k t).trapd1 = x.trapd1 :=
  (Warp.foldl_keeps (·.trapd1) (Warp.releaseLane t) (fun _ _ => rfl) _ _).trans (Warp.modLanes_trapd1 ..)
@[simp] theorem Warp.release_trapd2 (x : Warp) (k : Word) (t : Nat) : (x.release k t).trapd2 = x.trapd2 :=
  (Warp.foldl_keeps (·.trapd2) (Warp.releaseLane t) (fun _ _ => rfl) _ _).trans (Warp.modLanes_trapd2 ..)
@[simp] theorem Warp.release_trappc (x : Warp) (k : Word) (t : Nat) : (x.release k t).trappc = x.trappc :=
  (Warp.foldl_keeps (·.trappc) (Warp.releaseLane t) (fun _ _ => rfl) _ _).trans (Warp.modLanes_trappc ..)
@[simp] theorem Warp.release_trapmask (x : Warp) (k : Word) (t : Nat) : (x.release k t).trapmask = x.trapmask :=
  (Warp.foldl_keeps (·.trapmask) (Warp.releaseLane t) (fun _ _ => rfl) _ _).trans (Warp.modLanes_trapmask ..)
@[simp] theorem Warp.release_tvec (x : Warp) (k : Word) (t : Nat) : (x.release k t).tvec = x.tvec :=
  (Warp.foldl_keeps (·.tvec) (Warp.releaseLane t) (fun _ _ => rfl) _ _).trans (Warp.modLanes_tvec ..)
@[simp] theorem Warp.release_hmode (x : Warp) (k : Word) (t : Nat) : (x.release k t).hmode = x.hmode :=
  (Warp.foldl_keeps (·.hmode) (Warp.releaseLane t) (fun _ _ => rfl) _ _).trans (Warp.modLanes_hmode ..)
@[simp] theorem Warp.release_saved (x : Warp) (k : Word) (t : Nat) : (x.release k t).saved = x.saved :=
  (Warp.foldl_keeps (·.saved) (Warp.releaseLane t) (fun _ _ => rfl) _ _).trans (Warp.modLanes_saved ..)
@[simp] theorem Warp.release_resumes (x : Warp) (k : Word) (t : Nat) : (x.release k t).resumes = x.resumes :=
  (Warp.foldl_keeps (·.resumes) (Warp.releaseLane t) (fun _ _ => rfl) _ _).trans (Warp.modLanes_resumes ..)
@[simp] theorem Warp.release_pends (x : Warp) (k : Word) (t : Nat) : (x.release k t).pends = x.pends :=
  (Warp.foldl_keeps (·.pends) (Warp.releaseLane t) (fun _ _ => rfl) _ _).trans (Warp.modLanes_pends ..)
@[simp] theorem Warp.release_log (x : Warp) (k : Word) (t : Nat) : (x.release k t).log = x.log :=
  (Warp.foldl_keeps (·.log) (Warp.releaseLane t) (fun _ _ => rfl) _ _).trans (Warp.modLanes_log ..)
@[simp] theorem Warp.release_fences (x : Warp) (k : Word) (t : Nat) : (x.release k t).fences = x.fences :=
  (Warp.foldl_keeps (·.fences) (Warp.releaseLane t) (fun _ _ => rfl) _ _).trans (Warp.modLanes_fences ..)
@[simp] theorem Warp.release_withheld (x : Warp) (k : Word) (t : Nat) : (x.release k t).withheld = x.withheld :=
  (Warp.foldl_keeps (·.withheld) (Warp.releaseLane t) (fun _ _ => rfl) _ _).trans (Warp.modLanes_withheld ..)
@[simp] theorem Warp.release_ended (x : Warp) (k : Word) (t : Nat) : (x.release k t).ended = x.ended :=
  (Warp.foldl_keeps (·.ended) (Warp.releaseLane t) (fun _ _ => rfl) _ _).trans (Warp.modLanes_ended ..)
@[simp] theorem Warp.release_active (x : Warp) (k : Word) (t : Nat) : (x.release k t).active = x.active :=
  (Warp.foldl_keeps (·.active) (Warp.releaseLane t) (fun _ _ => rfl) _ _).trans (Warp.modLanes_active ..)
@[simp] theorem Warp.release_block (x : Warp) (k : Word) (t : Nat) : (x.release k t).block = x.block :=
  (Warp.foldl_keeps (·.block) (Warp.releaseLane t) (fun _ _ => rfl) _ _).trans (Warp.modLanes_block ..)
@[simp] theorem Warp.release_idx (x : Warp) (k : Word) (t : Nat) : (x.release k t).idx = x.idx :=
  (Warp.foldl_keeps (·.idx) (Warp.releaseLane t) (fun _ _ => rfl) _ _).trans (Warp.modLanes_idx ..)

/-! ## The lanes that they change -/

theorem Warp.lane_modLane (x : Warp) (l j : Nat) (f : Lane → Lane) :
    (x.modLane l f).lane j = if j = l then f (x.lane l) else x.lane j := by
  unfold Warp.lane Warp.modLane
  by_cases e : j = l
  · subst e; simp [Warp.lane]
  · simp [SMap.get_set_other _ _ _ _ _ e, e]
/-- A fold of one update over distinct lanes changes each of them once. -/
theorem Warp.lane_foldl (f : Lane → Lane) : ∀ (ls : List Nat) (x : Warp) (j : Nat), ls.Nodup →
    (ls.foldl (fun x l => x.modLane l f) x).lane j = if j ∈ ls then f (x.lane j) else x.lane j := by
  intro ls
  induction ls with
  | nil => intro x j _; simp
  | cons a r ih =>
    intro x j nd
    rw [List.nodup_cons] at nd
    simp only [List.foldl_cons, ih _ _ nd.2, Warp.lane_modLane, List.mem_cons]
    by_cases e : j = a
    · subst e; simp [nd.1]
    · simp [e]
theorem mem_lanesOf (k : Word) (l : Nat) : l ∈ lanesOf k ↔ l < 32 ∧ k.getLsbD l = true := by
  simp [lanesOf, wbit]
theorem lanesOf_nodup (k : Word) : (lanesOf k).Nodup := List.nodup_range.filter _
/-- An update of the lanes of a mask changes those lanes and no other. -/
theorem Warp.lane_modLanes (x : Warp) (k : Word) (f : Lane → Lane) (l : Nat) :
    (x.modLanes k f).lane l = if l < 32 ∧ k.getLsbD l = true then f (x.lane l) else x.lane l := by
  unfold Warp.modLanes
  simp only [Warp.lane_foldl f _ _ _ (lanesOf_nodup k), mem_lanesOf]

end Sys2Proof.Machine
end

