-- ==== Sys2Proof/Laws/Ops.lean ====
section
/-! SUPPORT. What the shared operations can do: `lift`, through which every meaning acts; `settle`; bytes written in a step; the fault
queue; traps; results. -/
namespace Sys2Proof.Machine

/-! ## `lift` and `settle` -/

/-- Every meaning goes on: a lifted meaning always answers a next state. -/
theorem lift_eq (f : Act) (s : State) : lift f s = .next (s.settle (f s.mem s.m.clear)) := rfl
@[simp] theorem settle_m (s : State) (m : Mach) : (s.settle m).m = m.clear := rfl
@[simp] theorem settle_mem (s : State) (m : Mach) : (s.settle m).mem = s.mem.commit m.wr := rfl
/-- A state that a lifted meaning answers has an empty buffer. -/
theorem lift_wr {f : Act} {s t : State} (h : lift f s = .next t) : t.m.wr = [] := by
  rw [lift_eq] at h; injection h with h; subst h; rfl
/-- A lifted meaning keeps Memory's canonical form. -/
theorem lift_wf {f : Act} {s t : State} (h : lift f s = .next t) (w : s.mem.wf = true) : t.mem.wf = true := by
  rw [lift_eq] at h; injection h with h; subst h; exact Memory.commit_wf _ _ w
/-- A lifted meaning that leaves the buffer empty leaves Memory as it was. -/
theorem lift_mem {f : Act} {s : State} (h : (f s.mem s.m.clear).wr = []) :
    ∃ t, lift f s = .next t ∧ t.mem = s.mem ∧ t.m = (f s.mem s.m.clear).clear :=
  ⟨_, lift_eq f s, by simp [h], rfl⟩
/-- Each meaning is a lifted one, whatever its operands. -/
theorem exec_is_lift (i : Instr) (s : State) : ∃ f : Act, exec i s = lift f s := by
  cases i <;> (dsimp only [exec]; exact ⟨_, rfl⟩)
theorem settle_wr (s : State) (m : Mach) : (s.settle m).m.wr = [] := rfl
theorem settle_wf (s : State) (m : Mach) (w : s.mem.wf = true) : (s.settle m).mem.wf = true := Memory.commit_wf _ _ w
/-- A move of the machine's own is the meaning of the constructor of the same name. -/
theorem run_is_lift (e : Event) (s : State) : ∃ f : Act, e.run s = lift f s := by
  cases e <;> (dsimp only [Event.run]; exact ⟨_, rfl⟩)

/-! ## Bytes written in a step -/

/-- What a byte reads as within a step is what it reads as in Memory once the step's writes are committed. -/
theorem Mach.rd_eq_commit (mem : Memory) (m : Mach) (a : Nat) (w : mem.wf = true) : m.rd mem a = (mem.commit m.wr).read a := by
  unfold Mach.rd
  rw [Memory.read_commit _ _ _ w]
  first | done | (cases SMap.get? m.wr a <;> rfl)
theorem Mach.rd_st (mem : Memory) (m : Mach) (a b : Nat) (x : Byte) : (m.st a x).rd mem b = if b = a then x else m.rd mem b := by
  unfold Mach.rd Mach.st
  by_cases e : b = a
  · simp [SMap.get?, e]
  · simp [SMap.get?, e]
theorem Mach.rd_stN (mem : Memory) : ∀ (l : List Byte) (m : Mach) (a b : Nat),
    (m.stN a l).rd mem b = if a ≤ b ∧ b < a + l.length then l.getD (b - a) 0 else m.rd mem b := by
  intro l
  induction l with
  | nil => intro m a b; simp only [Mach.stN, List.length_nil]; rw [if_neg (by omega)]
  | cons x r ih =>
    intro m a b
    simp only [Mach.stN, ih, Mach.rd_st, List.length_cons]
    by_cases h1 : b = a
    · subst h1; rw [if_neg (by omega), if_pos rfl, if_pos (by omega)]; simp
    · by_cases h2 : a + 1 ≤ b ∧ b < a + 1 + r.length
      · rw [if_pos h2, if_pos (by omega)]
        have : b - a = (b - (a + 1)) + 1 := by omega
        rw [this, List.getD_cons_succ]
      · rw [if_neg h2, if_neg h1, if_neg (by omega)]
/-- A store writes its bytes and no other. -/
theorem Mach.rd_store (mem : Memory) (m : Mach) (a : Nat) (l : List Byte) (b : Nat) :
    (m.store a l).rd mem b = if a ≤ b ∧ b < a + l.length then l.getD (b - a) 0 else m.rd mem b := by
  rw [← Mach.rd_stN]; rfl
theorem Mach.stN_hams : ∀ (l : List Byte) (m : Mach) (a : Nat), (m.stN a l).hams = m.hams
  | [], _, _ => rfl
  | _ :: r, m, a => by rw [Mach.stN, Mach.stN_hams r]; rfl
theorem Mach.stN_keeps {β : Type} (p : Mach → β) (k : ∀ m a x, p (Mach.st m a x) = p m) :
    ∀ (l : List Byte) (m : Mach) (a : Nat), p (m.stN a l) = p m
  | [], _, _ => rfl
  | _ :: r, m, a => by rw [Mach.stN, Mach.stN_keeps p k r, k]

/-! ## Results -/

/-- A fixed-latency result is one outstanding write of the current warp. -/
theorem Mach.fixed_eq (m : Mach) (file : RFile) (lat : Nat) (regs : List Nat) (mask : Word) (vals : SMap Word) :
    m.fixed file lat regs mask vals = { m with nextId := m.nextId + 1 }.addPend m.cur.ham m.cur.warp
      { id := m.nextId, file, regs, mask, vals, issue := m.now, land := some (m.now + if m.cur.atOnce then 0 else lat), var := false } :=
  rfl
/-- A variable-latency result is one outstanding write of the current warp. -/
theorem Mach.varPend_eq (m : Mach) (file : RFile) (regs : List Nat) (mask : Word) (vals : SMap Word) (land : Option Nat) :
    m.varPend file regs mask vals land = (m.nextId, { m with nextId := m.nextId + 1 }.addPend m.cur.ham m.cur.warp
      { id := m.nextId, file, regs, mask, vals, issue := m.now, land, var := true }) := rfl

/-! ## The fault queue keeps warps, blocks and context slots -/

/-- What a hamlet's fault queue does not touch. -/
def Hamlet.same (x y : Hamlet) : Prop := x.warps = y.warps ∧ x.blocks = y.blocks ∧ x.ctxs = y.ctxs ∧ x.eng = y.eng ∧ x.chans = y.chans
theorem Hamlet.same_refl (x : Hamlet) : x.same x := ⟨rfl, rfl, rfl, rfl, rfl⟩
theorem Hamlet.same_trans {x y z : Hamlet} (a : x.same y) (b : y.same z) : x.same z :=
  ⟨a.1.trans b.1, a.2.1.trans b.2.1, a.2.2.1.trans b.2.2.1, a.2.2.2.1.trans b.2.2.2.1, a.2.2.2.2.trans b.2.2.2.2⟩
/-- An update of one hamlet that keeps these keeps them everywhere. -/
theorem Mach.modHam_same (m : Mach) (h : Nat) (f : Hamlet → Hamlet) (k : ∀ x, (f x).same x) (j : Nat) : ((m.modHam h f).ham j).same (m.ham j) := by
  by_cases e : j = h
  · subst e; simpa using k _
  · rw [Mach.ham_modHam_other _ _ _ _ e]; exact Hamlet.same_refl _
theorem Mach.fqWrite_same (m : Mach) (h : Nat) (r : FqRec) (j : Nat) : ((m.fqWrite h r).ham j).same (m.ham j) := by
  unfold Mach.fqWrite
  refine Hamlet.same_trans (Mach.modHam_same _ _ _ ?_ j) ?_
  · intro x; exact ⟨rfl, rfl, rfl, rfl, rfl⟩
  have e : ∀ (m : Mach) (a : Nat) (l : List Byte), (m.stN a l).ham j = m.ham j :=
    fun m a l => by unfold Mach.ham; rw [Mach.stN_hams]
  have s : ∀ (m : Mach) (a lo n x : Nat), (m.setField a lo n x).ham j = m.ham j := fun _ _ _ _ _ => rfl
  simp only [s, e]; exact Hamlet.same_refl _
theorem Mach.fqFlush_same : ∀ (n : Nat) (m : Mach) (h j : Nat), ((m.fqFlush h n).ham j).same (m.ham j)
  | 0, m, _, j => Hamlet.same_refl _
  | n + 1, m, h, j => by
    unfold Mach.fqFlush
    split
    · split
      · refine Hamlet.same_trans (Mach.fqFlush_same n _ h j)
          (Hamlet.same_trans (Mach.fqWrite_same _ h _ j) (Mach.modHam_same _ _ _ ?_ j))
        intro x; exact ⟨rfl, rfl, rfl, rfl, rfl⟩
      · exact Hamlet.same_refl _
    · exact Hamlet.same_refl _
theorem Mach.fqPush_same (m : Mach) (h t : Nat) (r : FqRec) (j : Nat) : ((m.fqPush h t r).ham j).same (m.ham j) := by
  unfold Mach.fqPush
  refine Hamlet.same_trans (Mach.fqFlush_same _ _ _ _) (Mach.modHam_same _ _ _ ?_ j)
  intro x; exact ⟨rfl, rfl, rfl, rfl, rfl⟩
theorem Mach.warp_fqPush (m : Mach) (h t : Nat) (r : FqRec) (g w : Nat) : (m.fqPush h t r).warp g w = m.warp g w := by
  unfold Mach.warp; rw [(Mach.fqPush_same m h t r g).1]

/-! ## Taking a trap -/

/-- R179: where a trap goes, and the warp after it. -/
theorem Mach.takeTrapAt_warp (m : Mach) (h w t group code : Nat) (d0 d1 d2 pc mask : Word) (hard : Bool) :
    (m.takeTrapAt h w t group code d0 d1 d2 pc mask hard).warp h w =
      if (m.warp h w).hmode then (m.warp h w).doubleTrap pc mask
      else if wbit (m.reg (hamReg h (0x600 + 4 * m.warpCtx h w))) group && (m.warp h w).tvec ≠ 0 && !hard then
        (m.warp h w).toHandler m.now group code d0 d1 d2 pc mask
      else (m.warp h w).toReeve group code d0 d1 d2 pc mask := by
  unfold Mach.takeTrapAt
  by_cases h1 : (m.warp h w).hmode = true
  · simp [h1, Mach.warp_fqPush]
  · by_cases h2 : (wbit (m.reg (hamReg h (0x600 + 4 * m.warpCtx h w))) group && decide ((m.warp h w).tvec ≠ 0) && !hard) = true
    · rw [if_neg h1, if_pos h2, if_neg h1, if_pos h2]; simp
    · rw [if_neg h1, if_neg h2, if_neg h1, if_neg h2]; simp [Mach.warp_fqPush, h1]

end Sys2Proof.Machine
end

