-- ==== Sys2Proof/Laws/PerInstr.lean ====
section
/-! SUPPORT. The statements made of every instruction: `Encoding`, that an instruction word's encoding fits in 32 bits (R248). -/
namespace Sys2Proof.Laws.Encoding

/-- An instruction that has an encoding has one of 32 bits. -/
def Statement (i : Instr) : Prop := match encodeNat i with | some n => n < 2 ^ 32 | none => True

theorem iadd (h : Hdr) (d : BitVec 6) (a : BitVec 6) (b : BitVec 6) (g : BitVec 3) : Statement (.iadd h d a b g) := by change _ < 2 ^ 32; omega
theorem isub (h : Hdr) (d : BitVec 6) (a : BitVec 6) (b : BitVec 6) (g : BitVec 3) : Statement (.isub h d a b g) := by change _ < 2 ^ 32; omega
theorem imul (h : Hdr) (d : BitVec 6) (a : BitVec 6) (b : BitVec 6) (g : BitVec 3) : Statement (.imul h d a b g) := by change _ < 2 ^ 32; omega
theorem imulh (h : Hdr) (d : BitVec 6) (a : BitVec 6) (b : BitVec 6) (g : BitVec 3) : Statement (.imulh h d a b g) := by change _ < 2 ^ 32; omega
theorem imulhu (h : Hdr) (d : BitVec 6) (a : BitVec 6) (b : BitVec 6) (g : BitVec 3) : Statement (.imulhu h d a b g) := by change _ < 2 ^ 32; omega
theorem imad (h : Hdr) (d : BitVec 6) (a : BitVec 6) (b : BitVec 6) (g : BitVec 3) : Statement (.imad h d a b g) := by change _ < 2 ^ 32; omega
theorem imin (h : Hdr) (d : BitVec 6) (a : BitVec 6) (b : BitVec 6) (g : BitVec 3) : Statement (.imin h d a b g) := by change _ < 2 ^ 32; omega
theorem imax (h : Hdr) (d : BitVec 6) (a : BitVec 6) (b : BitVec 6) (g : BitVec 3) : Statement (.imax h d a b g) := by change _ < 2 ^ 32; omega
theorem iminu (h : Hdr) (d : BitVec 6) (a : BitVec 6) (b : BitVec 6) (g : BitVec 3) : Statement (.iminu h d a b g) := by change _ < 2 ^ 32; omega
theorem imaxu (h : Hdr) (d : BitVec 6) (a : BitVec 6) (b : BitVec 6) (g : BitVec 3) : Statement (.imaxu h d a b g) := by change _ < 2 ^ 32; omega
theorem and (h : Hdr) (d : BitVec 6) (a : BitVec 6) (b : BitVec 6) (g : BitVec 3) : Statement (.and h d a b g) := by change _ < 2 ^ 32; omega
theorem or (h : Hdr) (d : BitVec 6) (a : BitVec 6) (b : BitVec 6) (g : BitVec 3) : Statement (.or h d a b g) := by change _ < 2 ^ 32; omega
theorem xor (h : Hdr) (d : BitVec 6) (a : BitVec 6) (b : BitVec 6) (g : BitVec 3) : Statement (.xor h d a b g) := by change _ < 2 ^ 32; omega
theorem andn (h : Hdr) (d : BitVec 6) (a : BitVec 6) (b : BitVec 6) (g : BitVec 3) : Statement (.andn h d a b g) := by change _ < 2 ^ 32; omega
theorem sel (h : Hdr) (d : BitVec 6) (a : BitVec 6) (b : BitVec 6) (g : BitVec 3) : Statement (.sel h d a b g) := by change _ < 2 ^ 32; omega
theorem shl (h : Hdr) (d : BitVec 6) (a : BitVec 6) (b : BitVec 6) (g : BitVec 3) : Statement (.shl h d a b g) := by change _ < 2 ^ 32; omega
theorem shr (h : Hdr) (d : BitVec 6) (a : BitVec 6) (b : BitVec 6) (g : BitVec 3) : Statement (.shr h d a b g) := by change _ < 2 ^ 32; omega
theorem sar (h : Hdr) (d : BitVec 6) (a : BitVec 6) (b : BitVec 6) (g : BitVec 3) : Statement (.sar h d a b g) := by change _ < 2 ^ 32; omega
theorem rot (h : Hdr) (d : BitVec 6) (a : BitVec 6) (b : BitVec 6) (g : BitVec 3) : Statement (.rot h d a b g) := by change _ < 2 ^ 32; omega
theorem iadd64 (h : Hdr) (d : BitVec 6) (a : BitVec 6) (b : BitVec 6) (g : BitVec 3) : Statement (.iadd64 h d a b g) := by change _ < 2 ^ 32; omega
theorem bytp (h : Hdr) (d : BitVec 6) (a : BitVec 6) (b : BitVec 6) (g : BitVec 3) : Statement (.bytp h d a b g) := by change _ < 2 ^ 32; omega
theorem bfe (h : Hdr) (d : BitVec 6) (a : BitVec 6) (b : BitVec 6) (g : BitVec 3) : Statement (.bfe h d a b g) := by change _ < 2 ^ 32; omega
theorem bfi (h : Hdr) (d : BitVec 6) (a : BitVec 6) (b : BitVec 6) (g : BitVec 3) : Statement (.bfi h d a b g) := by change _ < 2 ^ 32; omega
theorem idot4 (h : Hdr) (d : BitVec 6) (a : BitVec 6) (b : BitVec 6) (g : BitVec 3) : Statement (.idot4 h d a b g) := by change _ < 2 ^ 32; omega
theorem idot4u (h : Hdr) (d : BitVec 6) (a : BitVec 6) (b : BitVec 6) (g : BitVec 3) : Statement (.idot4u h d a b g) := by change _ < 2 ^ 32; omega
theorem idot8 (h : Hdr) (d : BitVec 6) (a : BitVec 6) (b : BitVec 6) (g : BitVec 3) : Statement (.idot8 h d a b g) := by change _ < 2 ^ 32; omega
theorem idiv (h : Hdr) (d : BitVec 6) (a : BitVec 6) (b : BitVec 6) (g : BitVec 3) : Statement (.idiv h d a b g) := by change _ < 2 ^ 32; omega
theorem irem (h : Hdr) (d : BitVec 6) (a : BitVec 6) (b : BitVec 6) (g : BitVec 3) : Statement (.irem h d a b g) := by change _ < 2 ^ 32; omega
theorem icmp (h : Hdr) (k : BitVec 4) (f : BitVec 4) (a : BitVec 6) (b : BitVec 6) (n : BitVec 1) : Statement (.icmp h k f a b n) := by change _ < 2 ^ 32; omega
theorem fcmp (h : Hdr) (k : BitVec 4) (f : BitVec 4) (a : BitVec 6) (b : BitVec 6) (n : BitVec 1) : Statement (.fcmp h k f a b n) := by change _ < 2 ^ 32; omega
theorem dcmp (h : Hdr) (k : BitVec 4) (f : BitVec 4) (a : BitVec 6) (b : BitVec 6) (n : BitVec 1) : Statement (.dcmp h k f a b n) := by change _ < 2 ^ 32; omega
theorem iaddi (h : Hdr) (d : BitVec 6) (a : BitVec 6) (i : BitVec 9) : Statement (.iaddi h d a i) := by change _ < 2 ^ 32; omega
theorem andi (h : Hdr) (d : BitVec 6) (a : BitVec 6) (i : BitVec 9) : Statement (.andi h d a i) := by change _ < 2 ^ 32; omega
theorem ori (h : Hdr) (d : BitVec 6) (a : BitVec 6) (i : BitVec 9) : Statement (.ori h d a i) := by change _ < 2 ^ 32; omega
theorem xori (h : Hdr) (d : BitVec 6) (a : BitVec 6) (i : BitVec 9) : Statement (.xori h d a i) := by change _ < 2 ^ 32; omega
theorem shli (h : Hdr) (d : BitVec 6) (a : BitVec 6) (i : BitVec 5) : Statement (.shli h d a i) := by change _ < 2 ^ 32; omega
theorem shri (h : Hdr) (d : BitVec 6) (a : BitVec 6) (i : BitVec 5) : Statement (.shri h d a i) := by change _ < 2 ^ 32; omega
theorem sari (h : Hdr) (d : BitVec 6) (a : BitVec 6) (i : BitVec 5) : Statement (.sari h d a i) := by change _ < 2 ^ 32; omega
theorem imuli (h : Hdr) (d : BitVec 6) (a : BitVec 6) (i : BitVec 9) : Statement (.imuli h d a i) := by change _ < 2 ^ 32; omega
theorem movl (h : Hdr) (d : BitVec 5) (i : BitVec 16) : Statement (.movl h d i) := by change _ < 2 ^ 32; omega
theorem movh (h : Hdr) (d : BitVec 5) (i : BitVec 16) : Statement (.movh h d i) := by change _ < 2 ^ 32; omega
theorem smovl (h : Hdr) (d : BitVec 5) (i : BitVec 16) : Statement (.smovl h d i) := by change _ < 2 ^ 32; omega
theorem smovh (h : Hdr) (d : BitVec 5) (i : BitVec 16) : Statement (.smovh h d i) := by change _ < 2 ^ 32; omega
theorem movs (h : Hdr) (d : BitVec 6) (s : BitVec 8) : Statement (.movs h d s) := by change _ < 2 ^ 32; omega
theorem vtos (h : Hdr) (d : BitVec 6) (a : BitVec 6) (s : BitVec 8) : Statement (.vtos h d a s) := by change _ < 2 ^ 32; omega
theorem iadds (h : Hdr) (d : BitVec 6) (a : BitVec 6) (s : BitVec 8) : Statement (.iadds h d a s) := by change _ < 2 ^ 32; omega
theorem imads (h : Hdr) (d : BitVec 6) (a : BitVec 6) (s : BitVec 8) : Statement (.imads h d a s) := by change _ < 2 ^ 32; omega
theorem sadd (h : Hdr) (d : BitVec 8) (a : BitVec 8) : Statement (.sadd h d a) := by change _ < 2 ^ 32; omega
theorem ssub (h : Hdr) (d : BitVec 8) (a : BitVec 8) : Statement (.ssub h d a) := by change _ < 2 ^ 32; omega
theorem smul (h : Hdr) (d : BitVec 8) (a : BitVec 8) : Statement (.smul h d a) := by change _ < 2 ^ 32; omega
theorem sand (h : Hdr) (d : BitVec 8) (a : BitVec 8) : Statement (.sand h d a) := by change _ < 2 ^ 32; omega
theorem sor (h : Hdr) (d : BitVec 8) (a : BitVec 8) : Statement (.sor h d a) := by change _ < 2 ^ 32; omega
theorem sxor (h : Hdr) (d : BitVec 8) (a : BitVec 8) : Statement (.sxor h d a) := by change _ < 2 ^ 32; omega
theorem sshl (h : Hdr) (d : BitVec 8) (a : BitVec 8) : Statement (.sshl h d a) := by change _ < 2 ^ 32; omega
theorem sshr (h : Hdr) (d : BitVec 8) (a : BitVec 8) : Statement (.sshr h d a) := by change _ < 2 ^ 32; omega
theorem ssar (h : Hdr) (d : BitVec 8) (a : BitVec 8) : Statement (.ssar h d a) := by change _ < 2 ^ 32; omega
theorem smin (h : Hdr) (d : BitVec 8) (a : BitVec 8) : Statement (.smin h d a) := by change _ < 2 ^ 32; omega
theorem smax (h : Hdr) (d : BitVec 8) (a : BitVec 8) : Statement (.smax h d a) := by change _ < 2 ^ 32; omega
theorem sminu (h : Hdr) (d : BitVec 8) (a : BitVec 8) : Statement (.sminu h d a) := by change _ < 2 ^ 32; omega
theorem smaxu (h : Hdr) (d : BitVec 8) (a : BitVec 8) : Statement (.smaxu h d a) := by change _ < 2 ^ 32; omega
theorem smov (h : Hdr) (d : BitVec 8) (a : BitVec 8) : Statement (.smov h d a) := by change _ < 2 ^ 32; omega
theorem snot (h : Hdr) (d : BitVec 8) (a : BitVec 8) : Statement (.snot h d a) := by change _ < 2 ^ 32; omega
theorem sneg (h : Hdr) (d : BitVec 8) (a : BitVec 8) : Statement (.sneg h d a) := by change _ < 2 ^ 32; omega
theorem seq (h : Hdr) (d : BitVec 8) (a : BitVec 8) : Statement (.seq h d a) := by change _ < 2 ^ 32; omega
theorem slt (h : Hdr) (d : BitVec 8) (a : BitVec 8) : Statement (.slt h d a) := by change _ < 2 ^ 32; omega
theorem sltu (h : Hdr) (d : BitVec 8) (a : BitVec 8) : Statement (.sltu h d a) := by change _ < 2 ^ 32; omega
theorem saddi (h : Hdr) (d : BitVec 8) (i : BitVec 13) : Statement (.saddi h d i) := by change _ < 2 ^ 32; omega
theorem fadd (h : Hdr) (d : BitVec 6) (a : BitVec 6) (b : BitVec 6) (q : BitVec 1) (g : BitVec 2) : Statement (.fadd h d a b q g) := by change _ < 2 ^ 32; omega
theorem fsub (h : Hdr) (d : BitVec 6) (a : BitVec 6) (b : BitVec 6) (q : BitVec 1) (g : BitVec 2) : Statement (.fsub h d a b q g) := by change _ < 2 ^ 32; omega
theorem fmul (h : Hdr) (d : BitVec 6) (a : BitVec 6) (b : BitVec 6) (q : BitVec 1) (g : BitVec 2) : Statement (.fmul h d a b q g) := by change _ < 2 ^ 32; omega
theorem ffma (h : Hdr) (d : BitVec 6) (a : BitVec 6) (b : BitVec 6) (q : BitVec 1) (g : BitVec 2) : Statement (.ffma h d a b q g) := by change _ < 2 ^ 32; omega
theorem fmin (h : Hdr) (d : BitVec 6) (a : BitVec 6) (b : BitVec 6) (q : BitVec 1) (g : BitVec 2) : Statement (.fmin h d a b q g) := by change _ < 2 ^ 32; omega
theorem fmax (h : Hdr) (d : BitVec 6) (a : BitVec 6) (b : BitVec 6) (q : BitVec 1) (g : BitVec 2) : Statement (.fmax h d a b q g) := by change _ < 2 ^ 32; omega
theorem dadd (h : Hdr) (d : BitVec 6) (a : BitVec 6) (b : BitVec 6) (q : BitVec 1) (g : BitVec 2) : Statement (.dadd h d a b q g) := by change _ < 2 ^ 32; omega
theorem dmul (h : Hdr) (d : BitVec 6) (a : BitVec 6) (b : BitVec 6) (q : BitVec 1) (g : BitVec 2) : Statement (.dmul h d a b q g) := by change _ < 2 ^ 32; omega
theorem dfma (h : Hdr) (d : BitVec 6) (a : BitVec 6) (b : BitVec 6) (q : BitVec 1) (g : BitVec 2) : Statement (.dfma h d a b q g) := by change _ < 2 ^ 32; omega
theorem hfma2 (h : Hdr) (d : BitVec 6) (a : BitVec 6) (b : BitVec 6) (q : BitVec 1) (g : BitVec 2) : Statement (.hfma2 h d a b q g) := by change _ < 2 ^ 32; omega
theorem bfma2 (h : Hdr) (d : BitVec 6) (a : BitVec 6) (b : BitVec 6) (q : BitVec 1) (g : BitVec 2) : Statement (.bfma2 h d a b q g) := by change _ < 2 ^ 32; omega
theorem fdot4 (h : Hdr) (d : BitVec 6) (a : BitVec 6) (b : BitVec 6) (q : BitVec 1) (g : BitVec 2) : Statement (.fdot4 h d a b q g) := by change _ < 2 ^ 32; omega
theorem fdot8 (h : Hdr) (d : BitVec 6) (a : BitVec 6) (b : BitVec 6) (q : BitVec 1) (g : BitVec 2) : Statement (.fdot8 h d a b q g) := by change _ < 2 ^ 32; omega
theorem fneg (h : Hdr) (d : BitVec 6) (a : BitVec 6) (q : BitVec 1) (g : BitVec 2) : Statement (.fneg h d a q g) := by change _ < 2 ^ 32; omega
theorem fabs (h : Hdr) (d : BitVec 6) (a : BitVec 6) (q : BitVec 1) (g : BitVec 2) : Statement (.fabs h d a q g) := by change _ < 2 ^ 32; omega
theorem frcp (h : Hdr) (d : BitVec 6) (a : BitVec 6) (q : BitVec 1) (g : BitVec 2) : Statement (.frcp h d a q g) := by change _ < 2 ^ 32; omega
theorem frsq (h : Hdr) (d : BitVec 6) (a : BitVec 6) (q : BitVec 1) (g : BitVec 2) : Statement (.frsq h d a q g) := by change _ < 2 ^ 32; omega
theorem fsqrt (h : Hdr) (d : BitVec 6) (a : BitVec 6) (q : BitVec 1) (g : BitVec 2) : Statement (.fsqrt h d a q g) := by change _ < 2 ^ 32; omega
theorem fexp2 (h : Hdr) (d : BitVec 6) (a : BitVec 6) (q : BitVec 1) (g : BitVec 2) : Statement (.fexp2 h d a q g) := by change _ < 2 ^ 32; omega
theorem flog2 (h : Hdr) (d : BitVec 6) (a : BitVec 6) (q : BitVec 1) (g : BitVec 2) : Statement (.flog2 h d a q g) := by change _ < 2 ^ 32; omega
theorem fsin (h : Hdr) (d : BitVec 6) (a : BitVec 6) (q : BitVec 1) (g : BitVec 2) : Statement (.fsin h d a q g) := by change _ < 2 ^ 32; omega
theorem fcos (h : Hdr) (d : BitVec 6) (a : BitVec 6) (q : BitVec 1) (g : BitVec 2) : Statement (.fcos h d a q g) := by change _ < 2 ^ 32; omega
theorem ftanh (h : Hdr) (d : BitVec 6) (a : BitVec 6) (q : BitVec 1) (g : BitVec 2) : Statement (.ftanh h d a q g) := by change _ < 2 ^ 32; omega
theorem ffloor (h : Hdr) (d : BitVec 6) (a : BitVec 6) (q : BitVec 1) (g : BitVec 2) : Statement (.ffloor h d a q g) := by change _ < 2 ^ 32; omega
theorem fceil (h : Hdr) (d : BitVec 6) (a : BitVec 6) (q : BitVec 1) (g : BitVec 2) : Statement (.fceil h d a q g) := by change _ < 2 ^ 32; omega
theorem frnd (h : Hdr) (d : BitVec 6) (a : BitVec 6) (q : BitVec 1) (g : BitVec 2) : Statement (.frnd h d a q g) := by change _ < 2 ^ 32; omega
theorem ftrunc (h : Hdr) (d : BitVec 6) (a : BitVec 6) (q : BitVec 1) (g : BitVec 2) : Statement (.ftrunc h d a q g) := by change _ < 2 ^ 32; omega
theorem drcp (h : Hdr) (d : BitVec 6) (a : BitVec 6) (q : BitVec 1) (g : BitVec 2) : Statement (.drcp h d a q g) := by change _ < 2 ^ 32; omega
theorem dsqrt (h : Hdr) (d : BitVec 6) (a : BitVec 6) (q : BitVec 1) (g : BitVec 2) : Statement (.dsqrt h d a q g) := by change _ < 2 ^ 32; omega
theorem dneg (h : Hdr) (d : BitVec 6) (a : BitVec 6) (q : BitVec 1) (g : BitVec 2) : Statement (.dneg h d a q g) := by change _ < 2 ^ 32; omega
theorem dabs (h : Hdr) (d : BitVec 6) (a : BitVec 6) (q : BitVec 1) (g : BitVec 2) : Statement (.dabs h d a q g) := by change _ < 2 ^ 32; omega
theorem cvt (h : Hdr) (d : BitVec 6) (a : BitVec 6) (f : BitVec 5) (q : BitVec 1) (g : BitVec 2) : Statement (.cvt h d a f q g) := by change _ < 2 ^ 32; omega
theorem cvtMode (h : Hdr) (d : BitVec 6) (a : BitVec 6) (p : BitVec 2) (m : BitVec 3) (q : BitVec 1) (g : BitVec 2) : Statement (.cvtMode h d a p m q g) := by change _ < 2 ^ 32; omega
theorem qswz (h : Hdr) (d : BitVec 6) (a : BitVec 6) (m : BitVec 2) (g : BitVec 2) : Statement (.qswz h d a m g) := by change _ < 2 ^ 32; omega
theorem qbcast (h : Hdr) (d : BitVec 6) (a : BitVec 6) (j : BitVec 2) (g : BitVec 2) : Statement (.qbcast h d a j g) := by change _ < 2 ^ 32; omega
theorem qdiffx (h : Hdr) (d : BitVec 6) (a : BitVec 6) (g : BitVec 2) : Statement (.qdiffx h d a g) := by change _ < 2 ^ 32; omega
theorem qdiffy (h : Hdr) (d : BitVec 6) (a : BitVec 6) (g : BitVec 2) : Statement (.qdiffy h d a g) := by change _ < 2 ^ 32; omega
theorem shfl (h : Hdr) (d : BitVec 6) (a : BitVec 6) (b : BitVec 6) (g : BitVec 3) : Statement (.shfl h d a b g) := by change _ < 2 ^ 32; omega
theorem voteNz (h : Hdr) (k : BitVec 4) (a : BitVec 6) (n : BitVec 1) : Statement (.voteNz h k a n) := by change _ < 2 ^ 32; omega
theorem voteZ (h : Hdr) (k : BitVec 4) (a : BitVec 6) (n : BitVec 1) : Statement (.voteZ h k a n) := by change _ < 2 ^ 32; omega
theorem matchK (h : Hdr) (k : BitVec 4) (a : BitVec 6) : Statement (.matchK h k a) := by change _ < 2 ^ 32; omega
theorem redw (h : Hdr) (d : BitVec 6) (a : BitVec 6) (f : BitVec 6) (g : BitVec 2) : Statement (.redw h d a f g) := by change _ < 2 ^ 32; omega
theorem scanw (h : Hdr) (d : BitVec 6) (a : BitVec 6) (f : BitVec 6) (g : BitVec 2) : Statement (.scanw h d a f g) := by change _ < 2 ^ 32; omega
theorem kand (h : Hdr) (k : BitVec 4) (a : BitVec 6) (b : BitVec 6) : Statement (.kand h k a b) := by change _ < 2 ^ 32; omega
theorem kor (h : Hdr) (k : BitVec 4) (a : BitVec 6) (b : BitVec 6) : Statement (.kor h k a b) := by change _ < 2 ^ 32; omega
theorem kxor (h : Hdr) (k : BitVec 4) (a : BitVec 6) (b : BitVec 6) : Statement (.kxor h k a b) := by change _ < 2 ^ 32; omega
theorem kandn (h : Hdr) (k : BitVec 4) (a : BitVec 6) (b : BitVec 6) : Statement (.kandn h k a b) := by change _ < 2 ^ 32; omega
theorem knot (h : Hdr) (k : BitVec 4) (a : BitVec 6) : Statement (.knot h k a) := by change _ < 2 ^ 32; omega
theorem kmov (h : Hdr) (k : BitVec 4) (a : BitVec 6) : Statement (.kmov h k a) := by change _ < 2 ^ 32; omega
theorem ktos (h : Hdr) (d : BitVec 8) (a : BitVec 8) : Statement (.ktos h d a) := by change _ < 2 ^ 32; omega
theorem stok (h : Hdr) (d : BitVec 8) (a : BitVec 8) : Statement (.stok h d a) := by change _ < 2 ^ 32; omega
theorem kpop (h : Hdr) (d : BitVec 8) (a : BitVec 8) : Statement (.kpop h d a) := by change _ < 2 ^ 32; omega
theorem join (h : Hdr) (k : BitVec 4) (g : BitVec 3) : Statement (.join h k g) := by change _ < 2 ^ 32; omega
theorem leave (h : Hdr) (k : BitVec 4) (g : BitVec 3) : Statement (.leave h k g) := by change _ < 2 ^ 32; omega
theorem waitk (h : Hdr) (k : BitVec 4) (g : BitVec 3) : Statement (.waitk h k g) := by change _ < 2 ^ 32; omega
theorem elect (h : Hdr) (k : BitVec 4) (g : BitVec 3) : Statement (.elect h k g) := by change _ < 2 ^ 32; omega
theorem ksync (h : Hdr) (k : BitVec 4) (a : BitVec 6) (g : BitVec 3) : Statement (.ksync h k a g) := by change _ < 2 ^ 32; omega
theorem popc (h : Hdr) (d : BitVec 6) (a : BitVec 6) (g : BitVec 2) : Statement (.popc h d a g) := by change _ < 2 ^ 32; omega
theorem clz (h : Hdr) (d : BitVec 6) (a : BitVec 6) (g : BitVec 2) : Statement (.clz h d a g) := by change _ < 2 ^ 32; omega
theorem brev (h : Hdr) (d : BitVec 6) (a : BitVec 6) (g : BitVec 2) : Statement (.brev h d a g) := by change _ < 2 ^ 32; omega
theorem not (h : Hdr) (d : BitVec 6) (a : BitVec 6) (g : BitVec 2) : Statement (.not h d a g) := by change _ < 2 ^ 32; omega
theorem ineg (h : Hdr) (d : BitVec 6) (a : BitVec 6) (g : BitVec 2) : Statement (.ineg h d a g) := by change _ < 2 ^ 32; omega
theorem iabs (h : Hdr) (d : BitVec 6) (a : BitVec 6) (g : BitVec 2) : Statement (.iabs h d a g) := by change _ < 2 ^ 32; omega
theorem lid (h : Hdr) (d : BitVec 6) (g : BitVec 2) : Statement (.lid h d g) := by change _ < 2 ^ 32; omega
theorem fxrd (h : Hdr) (d : BitVec 6) (g : BitVec 2) : Statement (.fxrd h d g) := by change _ < 2 ^ 32; omega
theorem fxclr (h : Hdr) (a : BitVec 6) (g : BitVec 2) : Statement (.fxclr h a g) := by change _ < 2 ^ 32; omega
theorem fxset (h : Hdr) (a : BitVec 6) (g : BitVec 2) : Statement (.fxset h a g) := by change _ < 2 ^ 32; omega
theorem vrd (h : Hdr) (d : BitVec 6) (a : BitVec 6) (g : BitVec 3) : Statement (.vrd h d a g) := by change _ < 2 ^ 32; omega
theorem vwr (h : Hdr) (a : BitVec 6) (b : BitVec 6) (g : BitVec 3) : Statement (.vwr h a b g) := by change _ < 2 ^ 32; omega
theorem lds (h : Hdr) (t : BitVec 6) (a : BitVec 6) (o : BitVec 4) (z : BitVec 3) : Statement (.lds h t a o z) := by change _ < 2 ^ 32; omega
theorem sts (h : Hdr) (t : BitVec 6) (a : BitVec 6) (o : BitVec 4) (z : BitVec 3) : Statement (.sts h t a o z) := by change _ < 2 ^ 32; omega
theorem ldc (h : Hdr) (t : BitVec 6) (a : BitVec 6) (o : BitVec 4) (z : BitVec 3) (h1 : BitVec 2) : Statement (.ldc h t a o z h1) := by change _ < 2 ^ 32; omega
theorem stc (h : Hdr) (t : BitVec 6) (a : BitVec 6) (o : BitVec 4) (z : BitVec 3) (h1 : BitVec 2) : Statement (.stc h t a o z h1) := by change _ < 2 ^ 32; omega
theorem ldx (h : Hdr) (t : BitVec 6) (a : BitVec 6) (o : BitVec 4) (z : BitVec 3) (h1 : BitVec 2) : Statement (.ldx h t a o z h1) := by change _ < 2 ^ 32; omega
theorem stx (h : Hdr) (t : BitVec 6) (a : BitVec 6) (o : BitVec 4) (z : BitVec 3) (h1 : BitVec 2) : Statement (.stx h t a o z h1) := by change _ < 2 ^ 32; omega
theorem ldio (h : Hdr) (t : BitVec 6) (a : BitVec 6) (o : BitVec 4) (z : BitVec 3) : Statement (.ldio h t a o z) := by change _ < 2 ^ 32; omega
theorem stio (h : Hdr) (t : BitVec 6) (a : BitVec 6) (o : BitVec 4) (z : BitVec 3) : Statement (.stio h t a o z) := by change _ < 2 ^ 32; omega
theorem spill (h : Hdr) (t : BitVec 6) (a : BitVec 6) (o : BitVec 4) (z : BitVec 3) (h1 : BitVec 2) : Statement (.spill h t a o z h1) := by change _ < 2 ^ 32; omega
theorem fill (h : Hdr) (t : BitVec 6) (a : BitVec 6) (o : BitVec 4) (z : BitVec 3) (h1 : BitVec 2) : Statement (.fill h t a o z h1) := by change _ < 2 ^ 32; omega
theorem atomAdd (h : Hdr) (t : BitVec 6) (a : BitVec 6) (b : BitVec 6) (s : BitVec 3) : Statement (.atomAdd h t a b s) := by change _ < 2 ^ 32; omega
theorem atomFadd (h : Hdr) (t : BitVec 6) (a : BitVec 6) (b : BitVec 6) (s : BitVec 3) : Statement (.atomFadd h t a b s) := by change _ < 2 ^ 32; omega
theorem atomMin (h : Hdr) (t : BitVec 6) (a : BitVec 6) (b : BitVec 6) (s : BitVec 3) : Statement (.atomMin h t a b s) := by change _ < 2 ^ 32; omega
theorem atomMax (h : Hdr) (t : BitVec 6) (a : BitVec 6) (b : BitVec 6) (s : BitVec 3) : Statement (.atomMax h t a b s) := by change _ < 2 ^ 32; omega
theorem atomAnd (h : Hdr) (t : BitVec 6) (a : BitVec 6) (b : BitVec 6) (s : BitVec 3) : Statement (.atomAnd h t a b s) := by change _ < 2 ^ 32; omega
theorem atomOr (h : Hdr) (t : BitVec 6) (a : BitVec 6) (b : BitVec 6) (s : BitVec 3) : Statement (.atomOr h t a b s) := by change _ < 2 ^ 32; omega
theorem atomXor (h : Hdr) (t : BitVec 6) (a : BitVec 6) (b : BitVec 6) (s : BitVec 3) : Statement (.atomXor h t a b s) := by change _ < 2 ^ 32; omega
theorem atomExch (h : Hdr) (t : BitVec 6) (a : BitVec 6) (b : BitVec 6) (s : BitVec 3) : Statement (.atomExch h t a b s) := by change _ < 2 ^ 32; omega
theorem atomCas (h : Hdr) (t : BitVec 6) (a : BitVec 6) (b : BitVec 6) (s : BitVec 3) : Statement (.atomCas h t a b s) := by change _ < 2 ^ 32; omega
theorem atomInc (h : Hdr) (t : BitVec 6) (a : BitVec 6) (b : BitVec 6) (s : BitVec 3) : Statement (.atomInc h t a b s) := by change _ < 2 ^ 32; omega
theorem bra (h : Hdr) (k : BitVec 4) (o : BitVec 17) : Statement (.bra h k o) := by change _ < 2 ^ 32; omega
theorem brasZ (h : Hdr) (s : BitVec 8) (o : BitVec 12) : Statement (.brasZ h s o) := by change _ < 2 ^ 32; omega
theorem brasNz (h : Hdr) (s : BitVec 8) (o : BitVec 12) : Statement (.brasNz h s o) := by change _ < 2 ^ 32; omega
theorem brx (h : Hdr) (a : BitVec 6) (g : BitVec 3) : Statement (.brx h a g) := by change _ < 2 ^ 32; omega
theorem call (h : Hdr) (d : BitVec 6) (o : BitVec 15) : Statement (.call h d o) := by change _ < 2 ^ 32; omega
theorem ret (h : Hdr) (a : BitVec 6) (g : BitVec 3) : Statement (.ret h a g) := by change _ < 2 ^ 32; omega
theorem exit (h : Hdr) (g : BitVec 3) : Statement (.exit h g) := by change _ < 2 ^ 32; omega
theorem syscall (h : Hdr) (n : BitVec 9) (a : BitVec 6) : Statement (.syscall h n a) := by change _ < 2 ^ 32; omega
theorem trap (h : Hdr) (i : BitVec 8) (g : BitVec 3) : Statement (.trap h i g) := by change _ < 2 ^ 32; omega
theorem tret (h : Hdr) : Statement (.tret h) := by change _ < 2 ^ 32; omega
theorem bkpt (h : Hdr) (g : BitVec 3) : Statement (.bkpt h g) := by change _ < 2 ^ 32; omega
theorem srd (h : Hdr) (d : BitVec 8) (a : BitVec 8) : Statement (.srd h d a) := by change _ < 2 ^ 32; omega
theorem swr (h : Hdr) (d : BitVec 8) (a : BitVec 8) : Statement (.swr h d a) := by change _ < 2 ^ 32; omega
theorem fence (h : Hdr) (s : BitVec 3) (k : BitVec 2) (g : BitVec 3) : Statement (.fence h s k g) := by change _ < 2 ^ 32; omega
theorem binit (h : Hdr) (b : BitVec 4) (s : BitVec 8) (g : BitVec 3) : Statement (.binit h b s g) := by change _ < 2 ^ 32; omega
theorem barr (h : Hdr) (b : BitVec 4) (s : BitVec 8) (g : BitVec 3) : Statement (.barr h b s g) := by change _ < 2 ^ 32; omega
theorem barrd (h : Hdr) (b : BitVec 4) (s : BitVec 8) (g : BitVec 3) : Statement (.barrd h b s g) := by change _ < 2 ^ 32; omega
theorem barrj (h : Hdr) (b : BitVec 4) (s : BitVec 8) (g : BitVec 3) : Statement (.barrj h b s g) := by change _ < 2 ^ 32; omega
theorem bwait (h : Hdr) (b : BitVec 4) (s : BitVec 8) (g : BitVec 3) : Statement (.bwait h b s g) := by change _ < 2 ^ 32; omega
theorem bsync (h : Hdr) (b : BitVec 4) (g : BitVec 3) : Statement (.bsync h b g) := by change _ < 2 ^ 32; omega
theorem copy (h : Hdr) (h1 : BitVec 2) (s : BitVec 8) (n : BitVec 4) (p : BitVec 2) (z : BitVec 1) : Statement (.copy h h1 s n p z) := by change _ < 2 ^ 32; omega
theorem copys (h : Hdr) (h1 : BitVec 2) (s : BitVec 8) (n : BitVec 4) (p : BitVec 2) (z : BitVec 1) : Statement (.copys h h1 s n p z) := by change _ < 2 ^ 32; omega
theorem copym (h : Hdr) (h1 : BitVec 2) (s : BitVec 8) (n : BitVec 4) (p : BitVec 2) (z : BitVec 1) : Statement (.copym h h1 s n p z) := by change _ < 2 ^ 32; omega
theorem gath (h : Hdr) (h1 : BitVec 2) (s : BitVec 8) (n : BitVec 4) (p : BitVec 2) (z : BitVec 1) : Statement (.gath h h1 s n p z) := by change _ < 2 ^ 32; omega
theorem pref (h : Hdr) (h1 : BitVec 2) (s : BitVec 8) (n : BitVec 4) (p : BitVec 2) (z : BitVec 1) : Statement (.pref h h1 s n p z) := by change _ < 2 ^ 32; omega
theorem amo (h : Hdr) (h1 : BitVec 2) (s : BitVec 8) (n : BitVec 4) (p : BitVec 2) (z : BitVec 1) : Statement (.amo h h1 s n p z) := by change _ < 2 ^ 32; omega
theorem layset (h : Hdr) (s : BitVec 8) (n : BitVec 4) (z : BitVec 1) : Statement (.layset h s n z) := by change _ < 2 ^ 32; omega
theorem cpwait (h : Hdr) (s : BitVec 8) (p : BitVec 2) (z : BitVec 1) : Statement (.cpwait h s p z) := by change _ < 2 ^ 32; omega
theorem mmop (h : Hdr) (h1 : BitVec 2) (s : BitVec 8) (n : BitVec 4) (z : BitVec 1) : Statement (.mmop h h1 s n z) := by change _ < 2 ^ 32; omega
theorem mmsp (h : Hdr) (h1 : BitVec 2) (s : BitVec 8) (n : BitVec 4) (z : BitVec 1) : Statement (.mmsp h h1 s n z) := by change _ < 2 ^ 32; omega
theorem mmdrain (h : Hdr) (h1 : BitVec 2) (s : BitVec 8) (n : BitVec 4) (z : BitVec 1) : Statement (.mmdrain h h1 s n z) := by change _ < 2 ^ 32; omega
theorem mmwait (h : Hdr) (s : BitVec 8) (z : BitVec 1) : Statement (.mmwait h s z) := by change _ < 2 ^ 32; omega
theorem batonTake (h : Hdr) (z : BitVec 1) : Statement (.batonTake h z) := by change _ < 2 ^ 32; omega
theorem batonPass (h : Hdr) (z : BitVec 1) : Statement (.batonPass h z) := by change _ < 2 ^ 32; omega
theorem qenq (h : Hdr) (s : BitVec 8) (n : BitVec 4) (z : BitVec 1) : Statement (.qenq h s n z) := by change _ < 2 ^ 32; omega
theorem qwait (h : Hdr) (s : BitVec 8) (z : BitVec 1) : Statement (.qwait h s z) := by change _ < 2 ^ 32; omega
theorem taskget (h : Hdr) (s : BitVec 8) (z : BitVec 1) : Statement (.taskget h s z) := by change _ < 2 ^ 32; omega
theorem taskend (h : Hdr) (s : BitVec 8) (z : BitVec 1) : Statement (.taskend h s z) := by change _ < 2 ^ 32; omega
theorem enq (h : Hdr) (s : BitVec 8) (z : BitVec 1) : Statement (.enq h s z) := by change _ < 2 ^ 32; omega
theorem lease (h : Hdr) (i : BitVec 13) : Statement (.lease h i) := by change _ < 2 ^ 32; omega
theorem yield (h : Hdr) : Statement (.yield h) := by change _ < 2 ^ 32; omega
theorem nop (h : Hdr) : Statement (.nop h) := by change _ < 2 ^ 32; omega
theorem packageReset : Statement (.packageReset) := trivial
theorem governorStep (parish : Nat) (depth : Nat) : Statement (.governorStep parish depth) := trivial
theorem powerControlTick (watts : Nat) : Statement (.powerControlTick watts) := trivial
theorem thermalHot (stack : Nat) (temp : Nat) : Statement (.thermalHot stack temp) := trivial
theorem freezeEnd : Statement (.freezeEnd) := trivial
theorem flitEjection (req : Nat) : Statement (.flitEjection req) := trivial
theorem homeAccess (req : Nat) : Statement (.homeAccess req) := trivial
theorem peerForwardRequest (req : Nat) : Statement (.peerForwardRequest req) := trivial
theorem remoteSharedRequest (req : Nat) : Statement (.remoteSharedRequest req) := trivial
theorem loadDataReturn (req : Nat) : Statement (.loadDataReturn req) := trivial
theorem vrdLanding (ham : Nat) (warp : Nat) (pend : Nat) : Statement (.vrdLanding ham warp pend) := trivial
theorem vwrLanding (ham : Nat) (warp : Nat) (pend : Nat) : Statement (.vwrLanding ham warp pend) := trivial
theorem activeSetJoin (ham : Nat) (warp : Nat) : Statement (.activeSetJoin ham warp) := trivial
theorem forcedJoin (ham : Nat) (warp : Nat) : Statement (.forcedJoin ham warp) := trivial
theorem activeSetLeave (ham : Nat) (warp : Nat) : Statement (.activeSetLeave ham warp) := trivial
theorem leaseReestimate (ham : Nat) (warp : Nat) : Statement (.leaseReestimate ham warp) := trivial
theorem passedOverExpiry (ham : Nat) (warp : Nat) : Statement (.passedOverExpiry ham warp) := trivial
theorem streakExpiry (ham : Nat) (warp : Nat) : Statement (.streakExpiry ham warp) := trivial
theorem yieldExpiry (ham : Nat) (warp : Nat) : Statement (.yieldExpiry ham warp) := trivial
theorem clusterPlacement (launch : Nat) : Statement (.clusterPlacement launch) := trivial
theorem blockWarpsEligible (ham : Nat) (block : Nat) : Statement (.blockWarpsEligible ham block) := trivial
theorem blockEnd (ham : Nat) (block : Nat) : Statement (.blockEnd ham block) := trivial
theorem contextLeave (ham : Nat) (slot : Nat) : Statement (.contextLeave ham slot) := trivial
theorem laysetArrival (ham : Nat) (id : Nat) : Statement (.laysetArrival ham id) := trivial
theorem commandStart (ham : Nat) (unit : Nat) : Statement (.commandStart ham unit) := trivial
theorem commandChunk (ham : Nat) (chan : Nat) : Statement (.commandChunk ham chan) := trivial
theorem chunkAcknowledgement (ham : Nat) (chan : Nat) (cmd : Nat) : Statement (.chunkAcknowledgement ham chan cmd) := trivial
theorem amoPerform (ham : Nat) (chan : Nat) : Statement (.amoPerform ham chan) := trivial
theorem fqreplyRetry (ham : Nat) (entry : Nat) : Statement (.fqreplyRetry ham entry) := trivial
theorem fqreplyAbort (ham : Nat) (entry : Nat) : Statement (.fqreplyAbort ham entry) := trivial
theorem clusterBarrierMessage (msg : Nat) : Statement (.clusterBarrierMessage msg) := trivial
theorem clusterFlipMessage (msg : Nat) : Statement (.clusterFlipMessage msg) := trivial
theorem barrierAnswer (msg : Nat) : Statement (.barrierAnswer msg) := trivial
theorem qengComplete (ham : Nat) : Statement (.qengComplete ham) := trivial
theorem shadowLatchLoad (ham : Nat) : Statement (.shadowLatchLoad ham) := trivial
theorem parameterBlockArrival (ham : Nat) (id : Nat) : Statement (.parameterBlockArrival ham id) := trivial
theorem engineContextSwitch (ham : Nat) : Statement (.engineContextSwitch ham) := trivial
theorem engineCommandStart (ham : Nat) : Statement (.engineCommandStart ham) := trivial
theorem mmopTile (ham : Nat) : Statement (.mmopTile ham) := trivial
theorem activationRowEntry (ham : Nat) : Statement (.activationRowEntry ham) := trivial
theorem engineCommandComplete (ham : Nat) : Statement (.engineCommandComplete ham) := trivial
theorem drainStart (ham : Nat) : Statement (.drainStart ham) := trivial
theorem drainReserve (ham : Nat) : Statement (.drainReserve ham) := trivial
theorem drainChunk (ham : Nat) : Statement (.drainChunk ham) := trivial
theorem mmspChunk (ham : Nat) : Statement (.mmspChunk ham) := trivial
theorem fenceRelease (ham : Nat) (warp : Nat) : Statement (.fenceRelease ham warp) := trivial
theorem orderedAtomRelease (ham : Nat) (warp : Nat) : Statement (.orderedAtomRelease ham warp) := trivial
theorem operandLogAccess (ham : Nat) (warp : Nat) (entry : Nat) : Statement (.operandLogAccess ham warp entry) := trivial
theorem pageWalkComplete (ham : Nat) (walk : Nat) : Statement (.pageWalkComplete ham walk) := trivial
theorem fetchFault (ham : Nat) (warp : Nat) (code : Nat) : Statement (.fetchFault ham warp code) := trivial
theorem sfenceVma (ham : Nat) (va : (Option Nat)) (asid : (Option Nat)) : Statement (.sfenceVma ham va asid) := trivial
theorem scstatFree (ham : Nat) (bits : Nat) : Statement (.scstatFree ham bits) := trivial
theorem resumecmd (ham : Nat) (value : Word) : Statement (.resumecmd ham value) := trivial
theorem warpWindowWrite (ham : Nat) (warp : Nat) (off : Nat) (value : Word) : Statement (.warpWindowWrite ham warp off value) := trivial
theorem wctlClrh (ham : Nat) (warp : Nat) : Statement (.wctlClrh ham warp) := trivial
theorem wctlStop (ham : Nat) (warp : Nat) (on : Bool) : Statement (.wctlStop ham warp on) := trivial
theorem wctlStep (ham : Nat) (warp : Nat) (on : Bool) : Statement (.wctlStep ham warp on) := trivial
theorem qdbRing (queue : Nat) : Statement (.qdbRing queue) := trivial
theorem qdbResume (queue : Nat) : Statement (.qdbResume queue) := trivial
theorem wdogKick (core : Nat) : Statement (.wdogKick core) := trivial
theorem watchdogRestart (core : Nat) : Statement (.watchdogRestart core) := trivial
theorem packetStart (queue : Nat) : Statement (.packetStart queue) := trivial
theorem launch (queue : Nat) : Statement (.launch queue) := trivial
theorem batch (queue : Nat) : Statement (.batch queue) := trivial
theorem waitsem (queue : Nat) : Statement (.waitsem queue) := trivial
theorem waitsemPoll (queue : Nat) : Statement (.waitsemPoll queue) := trivial
theorem signal (queue : Nat) : Statement (.signal queue) := trivial
theorem muster (queue : Nat) : Statement (.muster queue) := trivial
theorem musterReserveGrant (queue : Nat) (part : Nat) : Statement (.musterReserveGrant queue part) := trivial
theorem musterStartToken (queue : Nat) (part : Nat) : Statement (.musterStartToken queue part) := trivial
theorem musterRetry (queue : Nat) : Statement (.musterRetry queue) := trivial
theorem copyq (queue : Nat) : Statement (.copyq queue) := trivial
theorem fenceq (queue : Nat) : Statement (.fenceq queue) := trivial
theorem qmark (queue : Nat) : Statement (.qmark queue) := trivial
theorem packetComplete (queue : Nat) : Statement (.packetComplete queue) := trivial
theorem taskDeal (id : Nat) : Statement (.taskDeal id) := trivial
theorem loadToken (seq : Nat) (token : PodToken) : Statement (.loadToken seq token) := trivial
theorem stealAck (card : Nat) : Statement (.stealAck card) := trivial
theorem loadTokenReissue : Statement (.loadTokenReissue) := trivial
theorem enqRequest (id : Nat) : Statement (.enqRequest id) := trivial
theorem prcmdSave (ctx : Nat) : Statement (.prcmdSave ctx) := trivial
theorem prcmdRestore (ctx : Nat) : Statement (.prcmdRestore ctx) := trivial
theorem preemptStage2 : Statement (.preemptStage2) := trivial
theorem preemptReset : Statement (.preemptReset) := trivial
theorem mailboxSend (core : Nat) (dest : Nat) : Statement (.mailboxSend core dest) := trivial
theorem mailboxDeliver (id : Nat) : Statement (.mailboxDeliver id) := trivial
theorem featureNegotiate (func : Nat) : Statement (.featureNegotiate func) := trivial
theorem functionReset (func : Nat) : Statement (.functionReset func) := trivial
theorem hostDoorbell (func : Nat) (value : (BitVec 64)) : Statement (.hostDoorbell func value) := trivial
theorem eventRingWrite (func : Nat) : Statement (.eventRingWrite func) := trivial
theorem partownWrite (parish : Nat) (value : Word) : Statement (.partownWrite parish value) := trivial
theorem ccarveWrite (slice : Nat) (value : Word) : Statement (.ccarveWrite slice value) := trivial
theorem clodorFlitReceive (port : Nat) (flit : (List Byte)) : Statement (.clodorFlitReceive port flit) := trivial
theorem linkPortDown (port : Nat) : Statement (.linkPortDown port) := trivial
theorem ethFrameReceive (port : Nat) (frame : (List Byte)) : Statement (.ethFrameReceive port frame) := trivial
theorem ethFrameTransmit (port : Nat) (ring : Nat) : Statement (.ethFrameTransmit port ring) := trivial
theorem nvmeDoorbell (off : Nat) (value : Word) : Statement (.nvmeDoorbell off value) := trivial
theorem nvmeCommandComplete (qid : Nat) : Statement (.nvmeCommandComplete qid) := trivial
theorem nvmeEnable (value : Word) : Statement (.nvmeEnable value) := trivial
theorem nvmeReady : Statement (.nvmeReady) := trivial
theorem registerWrite (addr : Nat) (value : Word) : Statement (.registerWrite addr value) := trivial
theorem stackBelowRel (stack : Nat) (temp : Nat) : Statement (.stackBelowRel stack temp) := trivial
theorem linkPortUp (port : Nat) : Statement (.linkPortUp port) := trivial
theorem fqctlHeadWrite (ham : Nat) (head : Nat) : Statement (.fqctlHeadWrite ham head) := trivial
theorem handlerModeSaveWaitExpiry (ham : Nat) (warp : Nat) : Statement (.handlerModeSaveWaitExpiry ham warp) := trivial

end Sys2Proof.Laws.Encoding
end

