-- ==== Sys2Proof/Tests/Slice0.lean ====
section
/-! SUPPORT. Tests: ill-formed terms that WellFormed refuses, words that the decoder reads, results of the spec's own examples, and states
that meet the hypotheses of the statements. -/
namespace Sys2Proof.Tests
open Sys2Proof.Machine Sys2Proof.Claim
set_option Elab.async false

/-- A word decodes to an instruction, which is well formed and encodes to the word. -/
def decodesTo (w : Word) (i : Instr) : Bool :=
  (match decode w with | .ok j => j == i | .error _ => false) && i.wf && encode i == some w

/-! ## Small states -/

/-- One warp on hamlet 0, its 32 lanes ready at 0x3000, about to run a word in cycle 500. -/
def base : State :=
  let cur : Issue := { bundle := 0xFFFFFFFF, all := 0xFFFFFFFF, pc := 0x3000, succ := 0x3004, word := 0x12345678, issued := 500 }
  { m := { State.reset.m.ready1 with now := 500, cur }, mem := [] }
/-- Change the machine of a state. -/
def withM (s : State) (f : Mach → Mach) : State := { s with m := f s.m }
/-- Change the warp. -/
def withW (s : State) (f : Warp → Warp) : State := withM s (fun m => m.modWarp 0 0 f)
/-- Change the hamlet. -/
def withH (s : State) (f : Hamlet → Hamlet) : State := withM s (fun m => m.modHam 0 f)
/-- Change the block. -/
def withB (s : State) (f : Block → Block) : State := withM s (fun m => m.modBlock 0 0 f)
/-- The bundle of the word. -/
def withBundle (s : State) (b : Word) : State := withM s (fun m => { m with cur := { m.cur with bundle := b, all := b } })
/-- Every lane in a state, by lane. -/
def withLanes (s : State) (f : Nat → LaneState) : State :=
  withW s (fun x => { x with lanes := (List.range 32).map (fun l => (l, ({ st := f l, pc := 0x3000, arg := 12 } : Lane))) })
/-- Put a number of `n` bytes into Memory. -/
def putN (s : State) (a n x : Nat) : State :=
  { s with mem := ((leBytes n x).zip (List.range n)).foldl (fun m e => m.write (a + e.2) e.1) s.mem }
/-- Put bytes into Memory. -/
def putB (s : State) (a : Nat) (b : List Byte) : State :=
  { s with mem := (b.zip (List.range b.length)).foldl (fun m e => m.write (a + e.2) e.1) s.mem }
/-- The next state satisfies a property. -/
def nextIs (o : Out) (p : State → Bool) : Bool := match o with | .next t => p t | _ => false

/-! ## Well-formedness: each check refuses a term that fails it (the limits are those of R252, R253, R256 and R2) -/

theorem test_wf_refuses_0 : ([
    .icmp ⟨0, 5⟩ 5 10 26 52 1, .fcmp ⟨0, 5⟩ 5 8 26 52 1, .dcmp ⟨0, 5⟩ 5 8 26 52 1, .cvt ⟨0, 5⟩ 38 26 22 1 1,
    .cvtMode ⟨0, 5⟩ 38 26 2 5 1 1, .redw ⟨0, 5⟩ 38 26 11 1, .scanw ⟨0, 5⟩ 38 26 11 1, .scanw ⟨0, 5⟩ 38 26 32 1, .sel ⟨0, 5⟩ 38 26 52 0,
    .iadd64 ⟨0, 5⟩ 27 26 52 5, .iadd64 ⟨0, 5⟩ 38 27 52 5, .iadd64 ⟨0, 5⟩ 38 26 27 5, .icmp ⟨0, 5⟩ 0 7 26 52 1, .icmp ⟨0, 5⟩ 8 7 26 52 1,
    .fcmp ⟨0, 5⟩ 0 4 26 52 1, .fcmp ⟨0, 5⟩ 8 4 26 52 1, .dcmp ⟨0, 5⟩ 0 4 26 52 1, .dcmp ⟨0, 5⟩ 8 4 26 52 1, .dcmp ⟨0, 5⟩ 5 4 27 52 1,
    .dcmp ⟨0, 5⟩ 5 4 26 27 1, .movs ⟨0, 5⟩ 38 160, .vtos ⟨0, 5⟩ 32 26 87, .vtos ⟨0, 5⟩ 19 26 160, .iadds ⟨0, 5⟩ 38 26 160,
    .imads ⟨0, 5⟩ 38 26 160, .sadd ⟨0, 5⟩ 160 26, .sadd ⟨0, 5⟩ 38 160, .ssub ⟨0, 5⟩ 160 26, .ssub ⟨0, 5⟩ 38 160, .smul ⟨0, 5⟩ 160 26,
    .smul ⟨0, 5⟩ 38 160, .sand ⟨0, 5⟩ 160 26, .sand ⟨0, 5⟩ 38 160, .sor ⟨0, 5⟩ 160 26, .sor ⟨0, 5⟩ 38 160, .sxor ⟨0, 5⟩ 160 26,
    .sxor ⟨0, 5⟩ 38 160, .sshl ⟨0, 5⟩ 160 26, .sshl ⟨0, 5⟩ 38 160, .sshr ⟨0, 5⟩ 160 26, .sshr ⟨0, 5⟩ 38 160, .ssar ⟨0, 5⟩ 160 26,
    .ssar ⟨0, 5⟩ 38 160, .smin ⟨0, 5⟩ 160 26, .smin ⟨0, 5⟩ 38 160] :
    List Instr).all (fun i => !i.wf) = true := by decide

theorem test_wf_refuses_1 : ([
    .smax ⟨0, 5⟩ 160 26, .smax ⟨0, 5⟩ 38 160, .sminu ⟨0, 5⟩ 160 26, .sminu ⟨0, 5⟩ 38 160, .smaxu ⟨0, 5⟩ 160 26, .smaxu ⟨0, 5⟩ 38 160,
    .smov ⟨0, 5⟩ 160 26, .smov ⟨0, 5⟩ 38 160, .snot ⟨0, 5⟩ 160 26, .snot ⟨0, 5⟩ 38 160, .sneg ⟨0, 5⟩ 160 26, .sneg ⟨0, 5⟩ 38 160,
    .seq ⟨0, 5⟩ 160 26, .seq ⟨0, 5⟩ 38 160, .slt ⟨0, 5⟩ 160 26, .slt ⟨0, 5⟩ 38 160, .sltu ⟨0, 5⟩ 160 26, .sltu ⟨0, 5⟩ 38 160,
    .saddi ⟨0, 5⟩ 160 5461, .dadd ⟨0, 5⟩ 27 26 52 1 1, .dadd ⟨0, 5⟩ 38 27 52 1 1, .dadd ⟨0, 5⟩ 38 26 27 1 1, .dmul ⟨0, 5⟩ 27 26 52 1 1,
    .dmul ⟨0, 5⟩ 38 27 52 1 1, .dmul ⟨0, 5⟩ 38 26 27 1 1, .dfma ⟨0, 5⟩ 27 26 52 1 1, .dfma ⟨0, 5⟩ 38 27 52 1 1,
    .dfma ⟨0, 5⟩ 38 26 27 1 1, .drcp ⟨0, 5⟩ 27 26 1 1, .drcp ⟨0, 5⟩ 38 27 1 1, .dsqrt ⟨0, 5⟩ 27 26 1 1, .dsqrt ⟨0, 5⟩ 38 27 1 1,
    .dneg ⟨0, 5⟩ 27 26 1 1, .dneg ⟨0, 5⟩ 38 27 1 1, .dabs ⟨0, 5⟩ 27 26 1 1, .dabs ⟨0, 5⟩ 38 27 1 1, .cvt ⟨0, 5⟩ 7 26 1 1 1,
    .cvt ⟨0, 5⟩ 38 7 0 1 1, .cvtMode ⟨0, 5⟩ 38 27 3 3 1 1, .voteNz ⟨0, 5⟩ 0 26 1, .voteNz ⟨0, 5⟩ 8 26 1, .voteZ ⟨0, 5⟩ 0 26 1,
    .voteZ ⟨0, 5⟩ 8 26 1, .matchK ⟨0, 5⟩ 0 26, .matchK ⟨0, 5⟩ 8 26] :
    List Instr).all (fun i => !i.wf) = true := by decide

theorem test_wf_refuses_2 : ([
    .kand ⟨0, 5⟩ 0 9 10, .kand ⟨0, 5⟩ 8 9 10, .kand ⟨0, 5⟩ 5 12 10, .kand ⟨0, 5⟩ 5 9 12, .kor ⟨0, 5⟩ 0 9 10, .kor ⟨0, 5⟩ 8 9 10,
    .kor ⟨0, 5⟩ 5 12 10, .kor ⟨0, 5⟩ 5 9 12, .kxor ⟨0, 5⟩ 0 9 10, .kxor ⟨0, 5⟩ 8 9 10, .kxor ⟨0, 5⟩ 5 12 10, .kxor ⟨0, 5⟩ 5 9 12,
    .kandn ⟨0, 5⟩ 0 9 10, .kandn ⟨0, 5⟩ 8 9 10, .kandn ⟨0, 5⟩ 5 12 10, .kandn ⟨0, 5⟩ 5 9 12, .knot ⟨0, 5⟩ 0 9, .knot ⟨0, 5⟩ 8 9,
    .knot ⟨0, 5⟩ 5 12, .kmov ⟨0, 5⟩ 0 9, .kmov ⟨0, 5⟩ 8 9, .kmov ⟨0, 5⟩ 5 12, .ktos ⟨0, 5⟩ 160 10, .ktos ⟨0, 5⟩ 38 12, .stok ⟨0, 5⟩ 0 26,
    .stok ⟨0, 5⟩ 12 26, .stok ⟨0, 5⟩ 9 160, .kpop ⟨0, 5⟩ 160 10, .kpop ⟨0, 5⟩ 38 12, .join ⟨0, 5⟩ 7 5, .join ⟨0, 5⟩ 12 5,
    .leave ⟨0, 5⟩ 7 5, .leave ⟨0, 5⟩ 12 5, .waitk ⟨0, 5⟩ 7 5, .waitk ⟨0, 5⟩ 12 5, .elect ⟨0, 5⟩ 0 5, .elect ⟨0, 5⟩ 8 5,
    .ksync ⟨0, 5⟩ 7 26 5, .ksync ⟨0, 5⟩ 12 26 5, .lds ⟨0, 5⟩ 44 26 9 5, .lds ⟨0, 5⟩ 41 26 9 3, .lds ⟨0, 5⟩ 42 26 9 4,
    .sts ⟨0, 5⟩ 44 26 9 5, .sts ⟨0, 5⟩ 41 26 9 3, .sts ⟨0, 5⟩ 42 26 9 4] :
    List Instr).all (fun i => !i.wf) = true := by decide

theorem test_wf_refuses_3 : ([
    .ldc ⟨0, 5⟩ 44 26 9 5 3, .ldc ⟨0, 5⟩ 41 26 9 3 3, .ldc ⟨0, 5⟩ 42 26 9 4 3, .stc ⟨0, 5⟩ 44 26 9 5 3, .stc ⟨0, 5⟩ 41 26 9 3 3,
    .stc ⟨0, 5⟩ 42 26 9 4 3, .ldx ⟨0, 5⟩ 44 26 9 5 3, .ldx ⟨0, 5⟩ 41 26 9 3 3, .ldx ⟨0, 5⟩ 42 26 9 4 3, .stx ⟨0, 5⟩ 44 26 9 5 3,
    .stx ⟨0, 5⟩ 41 26 9 3 3, .stx ⟨0, 5⟩ 42 26 9 4 3, .ldio ⟨0, 5⟩ 44 26 9 5, .ldio ⟨0, 5⟩ 41 26 9 3, .ldio ⟨0, 5⟩ 42 26 9 4,
    .ldio ⟨0, 5⟩ 44 27 9 2, .stio ⟨0, 5⟩ 44 26 9 5, .stio ⟨0, 5⟩ 41 26 9 3, .stio ⟨0, 5⟩ 42 26 9 4, .stio ⟨0, 5⟩ 44 27 9 2,
    .spill ⟨0, 5⟩ 44 26 9 1 3, .spill ⟨0, 5⟩ 44 26 9 5 3, .spill ⟨0, 5⟩ 41 26 9 3 3, .spill ⟨0, 5⟩ 42 26 9 4 3, .fill ⟨0, 5⟩ 44 26 9 1 3,
    .fill ⟨0, 5⟩ 44 26 9 5 3, .fill ⟨0, 5⟩ 41 26 9 3 3, .fill ⟨0, 5⟩ 42 26 9 4 3, .atomAdd ⟨0, 5⟩ 44 26 52 6,
    .atomFadd ⟨0, 5⟩ 44 26 52 6, .atomMin ⟨0, 5⟩ 44 26 52 6, .atomMax ⟨0, 5⟩ 44 26 52 6, .atomAnd ⟨0, 5⟩ 44 26 52 6,
    .atomOr ⟨0, 5⟩ 44 26 52 6, .atomXor ⟨0, 5⟩ 44 26 52 6, .atomExch ⟨0, 5⟩ 44 26 52 6, .atomCas ⟨0, 5⟩ 44 26 52 6,
    .atomCas ⟨0, 5⟩ 44 26 63 4, .atomInc ⟨0, 5⟩ 44 26 52 6, .bra ⟨0, 5⟩ 0 87461, .bra ⟨0, 5⟩ 12 87461, .bra ⟨0, 5⟩ 14 87461,
    .brasZ ⟨0, 5⟩ 160 1445, .brasNz ⟨0, 5⟩ 160 1445, .syscall ⟨0, 5⟩ 11 59] :
    List Instr).all (fun i => !i.wf) = true := by decide

theorem test_wf_refuses_4 : ([
    .srd ⟨0, 5⟩ 160 38, .srd ⟨0, 5⟩ 157 10, .swr ⟨0, 5⟩ 36 160, .swr ⟨0, 5⟩ 32 157, .fence ⟨0, 5⟩ 5 1 5, .binit ⟨0, 5⟩ 4 160 5,
    .barr ⟨0, 5⟩ 4 160 5, .barrd ⟨0, 5⟩ 4 160 5, .barrj ⟨0, 5⟩ 4 160 5, .bwait ⟨0, 5⟩ 4 160 5, .copy ⟨0, 5⟩ 3 153 11 2 1,
    .copys ⟨0, 5⟩ 3 153 11 2 1, .copym ⟨0, 5⟩ 3 153 11 2 1, .gath ⟨0, 5⟩ 3 153 11 2 1, .pref ⟨0, 5⟩ 1 153 11 2 1,
    .pref ⟨0, 5⟩ 3 87 11 2 1, .amo ⟨0, 5⟩ 3 153 11 2 1, .layset ⟨0, 5⟩ 160 5 1, .layset ⟨0, 5⟩ 87 8 1, .cpwait ⟨0, 5⟩ 160 2 1,
    .mmop ⟨0, 5⟩ 3 160 11 1, .mmsp ⟨0, 5⟩ 3 160 11 1, .mmdrain ⟨0, 5⟩ 3 160 11 1, .mmwait ⟨0, 5⟩ 160 1, .qenq ⟨0, 5⟩ 153 11 1,
    .qwait ⟨0, 5⟩ 160 1, .taskget ⟨0, 5⟩ 159 1, .taskend ⟨0, 5⟩ 160 1, .enq ⟨0, 5⟩ 158 1, .lease ⟨0, 5⟩ 2497, .governorStep 40 0,
    .thermalHot 16 0, .vrdLanding 640 0 0, .vrdLanding 0 64 0, .vwrLanding 640 0 0, .vwrLanding 0 64 0, .activeSetJoin 640 0,
    .activeSetJoin 0 64, .forcedJoin 640 0, .forcedJoin 0 64, .activeSetLeave 640 0, .activeSetLeave 0 64, .leaseReestimate 640 0,
    .leaseReestimate 0 64, .passedOverExpiry 640 0] :
    List Instr).all (fun i => !i.wf) = true := by decide

theorem test_wf_refuses_5 : ([
    .passedOverExpiry 0 64, .streakExpiry 640 0, .streakExpiry 0 64, .yieldExpiry 640 0, .yieldExpiry 0 64, .blockWarpsEligible 640 0,
    .blockEnd 640 0, .contextLeave 640 0, .contextLeave 0 4, .laysetArrival 640 0, .commandStart 640 0, .commandChunk 640 0,
    .commandChunk 0 4, .chunkAcknowledgement 640 0 0, .chunkAcknowledgement 0 4 0, .amoPerform 640 0, .amoPerform 0 4,
    .fqreplyRetry 640 0, .fqreplyRetry 0 256, .fqreplyAbort 640 0, .fqreplyAbort 0 256, .qengComplete 640, .shadowLatchLoad 640,
    .parameterBlockArrival 640 0, .engineContextSwitch 640, .engineCommandStart 640, .mmopTile 640, .activationRowEntry 640,
    .engineCommandComplete 640, .drainStart 640, .drainReserve 640, .drainChunk 640, .mmspChunk 640, .fenceRelease 640 0,
    .fenceRelease 0 64, .orderedAtomRelease 640 0, .orderedAtomRelease 0 64, .operandLogAccess 640 0 0, .operandLogAccess 0 64 0,
    .pageWalkComplete 640 0, .fetchFault 640 0 0, .fetchFault 0 64 0, .sfenceVma 640 none none, .scstatFree 640 0, .resumecmd 640 0] :
    List Instr).all (fun i => !i.wf) = true := by decide

theorem test_wf_refuses_6 : ([
    .warpWindowWrite 640 0 0 0, .warpWindowWrite 0 64 0 0, .wctlClrh 640 0, .wctlClrh 0 64, .wctlStop 640 0 false, .wctlStop 0 64 false,
    .wctlStep 640 0 false, .wctlStep 0 64 false, .qdbRing 1024, .qdbResume 1024, .wdogKick 16, .watchdogRestart 16, .packetStart 1024,
    .launch 1024, .batch 1024, .waitsem 1024, .waitsemPoll 1024, .signal 1024, .muster 1024, .musterReserveGrant 1024 0,
    .musterStartToken 1024 0, .musterRetry 1024, .copyq 1024, .fenceq 1024, .qmark 1024, .packetComplete 1024, .mailboxSend 657 0,
    .featureNegotiate 257, .functionReset 257, .hostDoorbell 257 0, .eventRingWrite 257, .partownWrite 40 0, .ccarveWrite 320 0,
    .clodorFlitReceive 18 [], .linkPortDown 18, .ethFrameReceive 4 [], .ethFrameTransmit 4 0, .ethFrameTransmit 0 64,
    .nvmeCommandComplete 65, .stackBelowRel 16 0, .linkPortUp 18, .fqctlHeadWrite 640 0, .handlerModeSaveWaitExpiry 640 0,
    .handlerModeSaveWaitExpiry 0 64] :
    List Instr).all (fun i => !i.wf) = true := by decide

/-! ## Decoding: a word of every row, its fields written out at distinct values from the encoding tables (R248 to R256) -/

theorem test_decodes_iadd_to_and : ([
    (0x503335A5, .iadd ⟨0, 5⟩ 38 26 52 5), (0x505335A5, .isub ⟨0, 5⟩ 38 26 52 5), (0x507335A5, .imul ⟨0, 5⟩ 38 26 52 5),
    (0x509335A5, .imulh ⟨0, 5⟩ 38 26 52 5), (0x50B335A5, .imulhu ⟨0, 5⟩ 38 26 52 5), (0x50D335A5, .imad ⟨0, 5⟩ 38 26 52 5),
    (0x50F335A5, .imin ⟨0, 5⟩ 38 26 52 5), (0x511335A5, .imax ⟨0, 5⟩ 38 26 52 5), (0x513335A5, .iminu ⟨0, 5⟩ 38 26 52 5),
    (0x515335A5, .imaxu ⟨0, 5⟩ 38 26 52 5), (0x517335A5, .and ⟨0, 5⟩ 38 26 52 5)] : List (Word × Instr)).all
    (fun e => decodesTo e.1 e.2) = true := by decide

theorem test_decodes_or_to_bfe : ([
    (0x519335A5, .or ⟨0, 5⟩ 38 26 52 5), (0x51B335A5, .xor ⟨0, 5⟩ 38 26 52 5), (0x51D335A5, .andn ⟨0, 5⟩ 38 26 52 5),
    (0x51F335A5, .sel ⟨0, 5⟩ 38 26 52 5), (0x521335A5, .shl ⟨0, 5⟩ 38 26 52 5), (0x523335A5, .shr ⟨0, 5⟩ 38 26 52 5),
    (0x525335A5, .sar ⟨0, 5⟩ 38 26 52 5), (0x527335A5, .rot ⟨0, 5⟩ 38 26 52 5), (0x529335A5, .iadd64 ⟨0, 5⟩ 38 26 52 5),
    (0x52B335A5, .bytp ⟨0, 5⟩ 38 26 52 5), (0x52D335A5, .bfe ⟨0, 5⟩ 38 26 52 5)] : List (Word × Instr)).all
    (fun e => decodesTo e.1 e.2) = true := by decide

theorem test_decodes_bfi_to_andi : ([
    (0x52F335A5, .bfi ⟨0, 5⟩ 38 26 52 5), (0x531335A5, .idot4 ⟨0, 5⟩ 38 26 52 5), (0x533335A5, .idot4u ⟨0, 5⟩ 38 26 52 5),
    (0x535335A5, .idot8 ⟨0, 5⟩ 38 26 52 5), (0x537335A5, .idiv ⟨0, 5⟩ 38 26 52 5), (0x539335A5, .irem ⟨0, 5⟩ 38 26 52 5),
    (0x53AAED69, .icmp ⟨0, 5⟩ 5 7 26 52 1), (0x53CA8D69, .fcmp ⟨0, 5⟩ 5 4 26 52 1), (0x53EA8D69, .dcmp ⟨0, 5⟩ 5 4 26 52 1),
    (0x54133555, .iaddi ⟨0, 5⟩ 38 26 341), (0x54333555, .andi ⟨0, 5⟩ 38 26 341)] : List (Word × Instr)).all
    (fun e => decodesTo e.1 e.2) = true := by decide

theorem test_decodes_ori_to_movs : ([
    (0x54533555, .ori ⟨0, 5⟩ 38 26 341), (0x54733555, .xori ⟨0, 5⟩ 38 26 341), (0x54933415, .shli ⟨0, 5⟩ 38 26 21),
    (0x54B33415, .shri ⟨0, 5⟩ 38 26 21), (0x54D33415, .sari ⟨0, 5⟩ 38 26 21), (0x54F33555, .imuli ⟨0, 5⟩ 38 26 341),
    (0x551ABEA7, .movl ⟨0, 5⟩ 26 48807), (0x553ABEA7, .movh ⟨0, 5⟩ 26 48807), (0x555ABEA7, .smovl ⟨0, 5⟩ 26 48807),
    (0x557ABEA7, .smovh ⟨0, 5⟩ 26 48807), (0x559300AE, .movs ⟨0, 5⟩ 38 87)] : List (Word × Instr)).all
    (fun e => decodesTo e.1 e.2) = true := by decide

theorem test_decodes_vtos_to_sshr : ([
    (0x55A9B4AE, .vtos ⟨0, 5⟩ 19 26 87), (0x55D334AE, .iadds ⟨0, 5⟩ 38 26 87), (0x55F334AE, .imads ⟨0, 5⟩ 38 26 87),
    (0x5604C340, .sadd ⟨0, 5⟩ 38 26), (0x5604C341, .ssub ⟨0, 5⟩ 38 26), (0x5604C342, .smul ⟨0, 5⟩ 38 26),
    (0x5604C343, .sand ⟨0, 5⟩ 38 26), (0x5604C344, .sor ⟨0, 5⟩ 38 26), (0x5604C345, .sxor ⟨0, 5⟩ 38 26),
    (0x5604C346, .sshl ⟨0, 5⟩ 38 26), (0x5604C347, .sshr ⟨0, 5⟩ 38 26)] : List (Word × Instr)).all
    (fun e => decodesTo e.1 e.2) = true := by decide

theorem test_decodes_ssar_to_sltu : ([
    (0x5604C348, .ssar ⟨0, 5⟩ 38 26), (0x5604C349, .smin ⟨0, 5⟩ 38 26), (0x5604C34A, .smax ⟨0, 5⟩ 38 26),
    (0x5604C34B, .sminu ⟨0, 5⟩ 38 26), (0x5604C34C, .smaxu ⟨0, 5⟩ 38 26), (0x5604C34D, .smov ⟨0, 5⟩ 38 26),
    (0x5604C34E, .snot ⟨0, 5⟩ 38 26), (0x5604C34F, .sneg ⟨0, 5⟩ 38 26), (0x5604C350, .seq ⟨0, 5⟩ 38 26), (0x5604C351, .slt ⟨0, 5⟩ 38 26),
    (0x5604C352, .sltu ⟨0, 5⟩ 38 26)] : List (Word × Instr)).all
    (fun e => decodesTo e.1 e.2) = true := by decide

theorem test_decodes_saddi_to_hfma2 : ([
    (0x5624D555, .saddi ⟨0, 5⟩ 38 5461), (0x565335A5, .fadd ⟨0, 5⟩ 38 26 52 1 1), (0x567335A5, .fsub ⟨0, 5⟩ 38 26 52 1 1),
    (0x569335A5, .fmul ⟨0, 5⟩ 38 26 52 1 1), (0x56B335A5, .ffma ⟨0, 5⟩ 38 26 52 1 1), (0x56D335A5, .fmin ⟨0, 5⟩ 38 26 52 1 1),
    (0x56F335A5, .fmax ⟨0, 5⟩ 38 26 52 1 1), (0x571335A5, .dadd ⟨0, 5⟩ 38 26 52 1 1), (0x573335A5, .dmul ⟨0, 5⟩ 38 26 52 1 1),
    (0x575335A5, .dfma ⟨0, 5⟩ 38 26 52 1 1), (0x577335A5, .hfma2 ⟨0, 5⟩ 38 26 52 1 1)] : List (Word × Instr)).all
    (fun e => decodesTo e.1 e.2) = true := by decide

theorem test_decodes_bfma2_to_fsin : ([
    (0x579335A5, .bfma2 ⟨0, 5⟩ 38 26 52 1 1), (0x57B335A5, .fdot4 ⟨0, 5⟩ 38 26 52 1 1), (0x57D335A5, .fdot8 ⟨0, 5⟩ 38 26 52 1 1),
    (0x57F33405, .fneg ⟨0, 5⟩ 38 26 1 1), (0x57F3340D, .fabs ⟨0, 5⟩ 38 26 1 1), (0x57F33415, .frcp ⟨0, 5⟩ 38 26 1 1),
    (0x57F3341D, .frsq ⟨0, 5⟩ 38 26 1 1), (0x57F33425, .fsqrt ⟨0, 5⟩ 38 26 1 1), (0x57F3342D, .fexp2 ⟨0, 5⟩ 38 26 1 1),
    (0x57F33435, .flog2 ⟨0, 5⟩ 38 26 1 1), (0x57F3343D, .fsin ⟨0, 5⟩ 38 26 1 1)] : List (Word × Instr)).all
    (fun e => decodesTo e.1 e.2) = true := by decide

theorem test_decodes_fcos_to_cvt : ([
    (0x57F33445, .fcos ⟨0, 5⟩ 38 26 1 1), (0x57F3344D, .ftanh ⟨0, 5⟩ 38 26 1 1), (0x57F33455, .ffloor ⟨0, 5⟩ 38 26 1 1),
    (0x57F3345D, .fceil ⟨0, 5⟩ 38 26 1 1), (0x57F33465, .frnd ⟨0, 5⟩ 38 26 1 1), (0x57F3346D, .ftrunc ⟨0, 5⟩ 38 26 1 1),
    (0x57F33475, .drcp ⟨0, 5⟩ 38 26 1 1), (0x57F3347D, .dsqrt ⟨0, 5⟩ 38 26 1 1), (0x57F33485, .dneg ⟨0, 5⟩ 38 26 1 1),
    (0x57F3348D, .dabs ⟨0, 5⟩ 38 26 1 1), (0x58133425, .cvt ⟨0, 5⟩ 38 26 4 1 1)] : List (Word × Instr)).all
    (fun e => decodesTo e.1 e.2) = true := by decide

theorem test_decodes_cvtMode_to_scanw : ([
    (0x5813359D, .cvtMode ⟨0, 5⟩ 38 26 2 3 1 1), (0x58333419, .qswz ⟨0, 5⟩ 38 26 3 1), (0x58333439, .qbcast ⟨0, 5⟩ 38 26 3 1),
    (0x58333441, .qdiffx ⟨0, 5⟩ 38 26 1), (0x58333461, .qdiffy ⟨0, 5⟩ 38 26 1), (0x585335A5, .shfl ⟨0, 5⟩ 38 26 52 5),
    (0x586A0D01, .voteNz ⟨0, 5⟩ 5 26 1), (0x586A2D01, .voteZ ⟨0, 5⟩ 5 26 1), (0x588A0D00, .matchK ⟨0, 5⟩ 5 26),
    (0x58B33421, .redw ⟨0, 5⟩ 38 26 4 1), (0x58D33421, .scanw ⟨0, 5⟩ 38 26 4 1)] : List (Word × Instr)).all
    (fun e => decodesTo e.1 e.2) = true := by decide

theorem test_decodes_kand_to_leave : ([
    (0x58EA0494, .kand ⟨0, 5⟩ 5 9 10), (0x58EA2494, .kor ⟨0, 5⟩ 5 9 10), (0x58EA4494, .kxor ⟨0, 5⟩ 5 9 10),
    (0x58EA6494, .kandn ⟨0, 5⟩ 5 9 10), (0x58EA8480, .knot ⟨0, 5⟩ 5 9), (0x58EAA480, .kmov ⟨0, 5⟩ 5 9), (0x5904C140, .ktos ⟨0, 5⟩ 38 10),
    (0x59012341, .stok ⟨0, 5⟩ 9 26), (0x5904C142, .kpop ⟨0, 5⟩ 38 10), (0x59205014, .join ⟨0, 5⟩ 10 5), (0x5920D014, .leave ⟨0, 5⟩ 10 5)] : List (Word × Instr)).all
    (fun e => decodesTo e.1 e.2) = true := by decide

theorem test_decodes_waitk_to_fxrd : ([
    (0x59215014, .waitk ⟨0, 5⟩ 10 5), (0x5921A814, .elect ⟨0, 5⟩ 5 5), (0x59225354, .ksync ⟨0, 5⟩ 10 26 5),
    (0x59533401, .popc ⟨0, 5⟩ 38 26 1), (0x59533409, .clz ⟨0, 5⟩ 38 26 1), (0x59533411, .brev ⟨0, 5⟩ 38 26 1),
    (0x59533419, .not ⟨0, 5⟩ 38 26 1), (0x59533421, .ineg ⟨0, 5⟩ 38 26 1), (0x59533429, .iabs ⟨0, 5⟩ 38 26 1),
    (0x59530031, .lid ⟨0, 5⟩ 38 1), (0x59730001, .fxrd ⟨0, 5⟩ 38 1)] : List (Word × Instr)).all
    (fun e => decodesTo e.1 e.2) = true := by decide

theorem test_decodes_fxclr_to_ldio : ([
    (0x59603409, .fxclr ⟨0, 5⟩ 26 1), (0x59603411, .fxset ⟨0, 5⟩ 26 1), (0x59933405, .vrd ⟨0, 5⟩ 38 26 5),
    (0x59A035A5, .vwr ⟨0, 5⟩ 26 52 5), (0x5A163528, .lds ⟨0, 5⟩ 44 26 9 2), (0x5A363528, .sts ⟨0, 5⟩ 44 26 9 2),
    (0x5A56352B, .ldc ⟨0, 5⟩ 44 26 9 2 3), (0x5A76352B, .stc ⟨0, 5⟩ 44 26 9 2 3), (0x5A96352B, .ldx ⟨0, 5⟩ 44 26 9 2 3),
    (0x5AB6352B, .stx ⟨0, 5⟩ 44 26 9 2 3), (0x5AD63528, .ldio ⟨0, 5⟩ 44 26 9 2)] : List (Word × Instr)).all
    (fun e => decodesTo e.1 e.2) = true := by decide

theorem test_decodes_stio_to_atomExch : ([
    (0x5AF63528, .stio ⟨0, 5⟩ 44 26 9 2), (0x5B16352B, .spill ⟨0, 5⟩ 44 26 9 2 3), (0x5B36352B, .fill ⟨0, 5⟩ 44 26 9 2 3),
    (0x5C1635A4, .atomAdd ⟨0, 5⟩ 44 26 52 4), (0x5C3635A4, .atomFadd ⟨0, 5⟩ 44 26 52 4), (0x5C5635A4, .atomMin ⟨0, 5⟩ 44 26 52 4),
    (0x5C7635A4, .atomMax ⟨0, 5⟩ 44 26 52 4), (0x5C9635A4, .atomAnd ⟨0, 5⟩ 44 26 52 4), (0x5CB635A4, .atomOr ⟨0, 5⟩ 44 26 52 4),
    (0x5CD635A4, .atomXor ⟨0, 5⟩ 44 26 52 4), (0x5CF635A4, .atomExch ⟨0, 5⟩ 44 26 52 4)] : List (Word × Instr)).all
    (fun e => decodesTo e.1 e.2) = true := by decide

theorem test_decodes_atomCas_to_trap : ([
    (0x5D1635A4, .atomCas ⟨0, 5⟩ 44 26 52 4), (0x5D3635A4, .atomInc ⟨0, 5⟩ 44 26 52 4), (0x5D5755A5, .bra ⟨0, 5⟩ 11 87461),
    (0x5D6AF5A5, .brasZ ⟨0, 5⟩ 87 1445), (0x5D6AE5A5, .brasNz ⟨0, 5⟩ 87 1445), (0x5D803405, .brx ⟨0, 5⟩ 26 5),
    (0x5DB355A5, .call ⟨0, 5⟩ 38 21925), (0x5DC03405, .ret ⟨0, 5⟩ 26 5), (0x5DE00005, .exit ⟨0, 5⟩ 5),
    (0x5E00B680, .syscall ⟨0, 5⟩ 11 26), (0x5E202A85, .trap ⟨0, 5⟩ 85 5)] : List (Word × Instr)).all
    (fun e => decodesTo e.1 e.2) = true := by decide

theorem test_decodes_tret_to_bsync : ([
    (0x5E400000, .tret ⟨0, 5⟩), (0x5E600005, .bkpt ⟨0, 5⟩ 5), (0x5E93A4C0, .srd ⟨0, 5⟩ 157 38), (0x5EA493A0, .swr ⟨0, 5⟩ 36 157),
    (0x5EC03405, .fence ⟨0, 5⟩ 3 1 5), (0x5EE022BD, .binit ⟨0, 5⟩ 4 87 5), (0x5EE0A2BD, .barr ⟨0, 5⟩ 4 87 5),
    (0x5EE122BD, .barrd ⟨0, 5⟩ 4 87 5), (0x5EE1A2BD, .barrj ⟨0, 5⟩ 4 87 5), (0x5EE222BD, .bwait ⟨0, 5⟩ 4 87 5),
    (0x5EE2A005, .bsync ⟨0, 5⟩ 4 5)] : List (Word × Instr)).all
    (fun e => decodesTo e.1 e.2) = true := by decide

theorem test_decodes_copy_to_mmdrain : ([
    (0x5F01ABDD, .copy ⟨0, 5⟩ 3 87 11 2 1), (0x5F03ABDD, .copys ⟨0, 5⟩ 3 87 11 2 1), (0x5F05ABDD, .copym ⟨0, 5⟩ 3 87 11 2 1),
    (0x5F07ABDD, .gath ⟨0, 5⟩ 3 87 11 2 1), (0x5F08ABDD, .pref ⟨0, 5⟩ 1 87 11 2 1), (0x5F0BABDD, .amo ⟨0, 5⟩ 3 87 11 2 1),
    (0x5F0C2BA9, .layset ⟨0, 5⟩ 87 5 1), (0x5F0E2B85, .cpwait ⟨0, 5⟩ 87 2 1), (0x5F21ABD9, .mmop ⟨0, 5⟩ 3 87 11 1),
    (0x5F23ABD9, .mmsp ⟨0, 5⟩ 3 87 11 1), (0x5F25ABD9, .mmdrain ⟨0, 5⟩ 3 87 11 1)] : List (Word × Instr)).all
    (fun e => decodesTo e.1 e.2) = true := by decide

theorem test_decodes_mmwait_to_nop : ([
    (0x5F262B81, .mmwait ⟨0, 5⟩ 87 1), (0x5F280001, .batonTake ⟨0, 5⟩ 1), (0x5F2A0001, .batonPass ⟨0, 5⟩ 1),
    (0x5F402BD9, .qenq ⟨0, 5⟩ 87 11 1), (0x5F422B81, .qwait ⟨0, 5⟩ 87 1), (0x5F602B81, .taskget ⟨0, 5⟩ 87 1),
    (0x5F622B81, .taskend ⟨0, 5⟩ 87 1), (0x5F642B81, .enq ⟨0, 5⟩ 87 1), (0x5F8008A5, .lease ⟨0, 5⟩ 2213), (0x5FA00000, .yield ⟨0, 5⟩),
    (0x50000000, .nop ⟨0, 5⟩)] : List (Word × Instr)).all
    (fun e => decodesTo e.1 e.2) = true := by decide

/-! ## Hashes of the boot (FIPS 180-4's example "abc") -/

theorem test_sha256_abc : (sha256 [0x61, 0x62, 0x63]).take 4 = [0xBA, 0x78, 0x16, 0xBF] := by decide +kernel
theorem test_sha384_abc : (sha384 [0x61, 0x62, 0x63]).take 4 = [0xCB, 0x00, 0x75, 0x3F] := by decide +kernel

/-! ## Words that the spec writes out beside their assembly text -/

theorem test_decodes_the_words_of_the_spec_1 : ([
    (0x01620A35, .and ⟨0, 0⟩ 4 5 6 5),
    (0x04220BF0, .andi ⟨0, 0⟩ 4 5 (-16)),
    (0x02820C40, .iadd64 ⟨0, 0⟩ 4 6 8 0),
    (0x0526FF80, .movh ⟨0, 0⟩ 6 0xFF80),
    (0x03A6A20D, .icmp ⟨0, 0⟩ 3 5 4 6 1),
    (0x01E20A32, .sel ⟨0, 0⟩ 4 5 6 2),
    (0x090120E1, .stok ⟨0, 0⟩ 9 7),
    (0x08662281, .voteZ ⟨0, 0⟩ 3 5 1),
    (0x0620BFFF, .saddi ⟨0, 0⟩ 5 (-1)),
    (0x09420A09, .clz ⟨0, 0⟩ 4 5 1),
    (0x06A20A37, .ffma ⟨0, 0⟩ 4 5 6 1 3),
    (0x08020B88, .cvtMode ⟨0, 0⟩ 4 5 2 1 0 0),
    (0x08C20AC0, .scanw ⟨0, 0⟩ 4 5 0x18 0),
    (0x092248E0, .ksync ⟨0, 0⟩ 9 7 0),
    (0x09219808, .elect ⟨0, 0⟩ 3 2)
    ] : List (Word × Instr)).all (fun e => decodesTo e.1 e.2) = true := by decide

theorem test_decodes_the_words_of_the_spec_2 : ([
    (0x0A83086A, .ldx ⟨0, 0⟩ 6 4 3 2 2),
    (0x0B260C51, .fill ⟨0, 0⟩ 12 6 2 4 1),
    (0x0C038835, .atomAdd ⟨0, 0⟩ 7 4 6 5),
    (0x0D60AFFC, .brasNz ⟨0, 0⟩ 5 (-4)),
    (0x3DB9001C, .call ⟨0, 3⟩ 50 28),
    (0x0E1FFE80, .syscall ⟨0, 0⟩ 511 58),
    (0x0E80A600, .srd ⟨0, 0⟩ 5 0x30),
    (0x0EC03400, .fence ⟨0, 0⟩ 3 1 0),
    (0x0EE11848, .barrd ⟨0, 0⟩ 3 9 0),
    (0x0F041425, .copym ⟨0, 0⟩ 0 40 4 2 1),
    (0x0F240428, .mmdrain ⟨0, 0⟩ 0 8 5 0),
    (0x0F641E01, .enq ⟨0, 0⟩ 60 1),
    (0x0F8009C0, .lease ⟨0, 0⟩ 2496),
    (0x70000000, .nop ⟨0, 7⟩)
    ] : List (Word × Instr)).all (fun e => decodesTo e.1 e.2) = true := by decide

/-! ## Results: the spec's sample tables and worked examples, each word as the spec writes it -/

/-- One lane, v5, v6 and the prior v4 as given, k1 to k3 set in it, and a rounding mode in FPMODE. -/
def lane0 (a b d : Word) (fpmode : Word := 0) : State :=
  withM (withBundle (withW base (fun x => { x with v := [(128, d), (160, a), (192, b)], k := [(0, 1), (1, 1), (2, 1), (3, 1)] })) 1)
    (fun m => { m with cur := { m.cur with fpmode } })
/-- The value that a word gives v4 of lane 0. -/
def gives (s : State) (w : Word) (r : Word) : Bool :=
  match decode w with
  | .ok i => nextIs (exec i s) (fun t => match t.m.cw.pends with | p :: _ => p.vals.get? 128 == some r | [] => false)
  | .error _ => false
/-- Flags that a word raises in lane 0 beside its result. -/
def flags (s : State) (w : Word) (n : Nat) : Bool :=
  match decode w with
  | .ok i => nextIs (exec i s) (fun t => t.m.cw.pends.any (fun p => p.file == .fxOr && p.vals.get? 0 == some (BitVec.ofNat 32 n)))
  | .error _ => false

/-- R345. -/
theorem test_integer_samples :
    ([(0x00220A30, 0x00000001), (0x00420A30, 0xFFFFFFFD), (0x00620A30, 0xFFFFFFFE), (0x00820A30, 0xFFFFFFFF), (0x00A20A30, 0x00000001),
      (0x00C20A30, 0x0000000E), (0x00E20A30, 0xFFFFFFFF), (0x01020A30, 0x00000002), (0x01220A30, 0x00000002), (0x01420A30, 0xFFFFFFFF)] :
      List (Word × Word)).all (fun e => gives (lane0 0xFFFFFFFF 2 0x10) e.1 e.2) = true := by decide
/-- R376. -/
theorem test_shift_samples :
    ([(0x02020A30, 0x00000010), (0x02220A30, 0x08000000), (0x02420A30, 0xF8000000), (0x02620A30, 0x00000018)] :
      List (Word × Word)).all (fun e => gives (lane0 0x80000001 4 0) e.1 e.2) = true := by decide
/-- R296. -/
theorem test_and_andn : (gives (lane0 0x0F0FF0F0 0x00FF00FF 0) 0x01620A30 0x000F00F0 &&
    nextIs (exec (.andn ⟨0, 0⟩ 4 5 6 0) (lane0 0x0F0FF0F0 0x00FF00FF 0))
      (fun t => t.m.cw.pends.any (fun p => p.vals.get? 128 == some 0x0F00F000))) = true := by decide
/-- R305, R306, R313. -/
theorem test_fields_and_permutation :
    ([(0xABCD1234, 0x00000C10, 0x00000BCD), (0xABCD1234, 0x00008C10, 0xFFFFFBCD), (0xABCD1234, 0x0000881C, 0x0000000A)] :
      List (Word × Word × Word)).all (fun e => nextIs (exec (.bfe ⟨0, 0⟩ 4 5 6 0) (lane0 e.1 e.2.1 0))
        (fun t => t.m.cw.pends.any (fun p => p.vals.get? 128 == some e.2.2))) = true ∧
    nextIs (exec (.bfi ⟨0, 0⟩ 4 5 6 0) (lane0 5 0x408 0xFFFFFFFF))
      (fun t => t.m.cw.pends.any (fun p => p.vals.get? 128 == some 0xFFFFF5FF)) = true ∧
    nextIs (exec (.bytp ⟨0, 0⟩ 4 5 6 0) (lane0 0x44332211 0x80000103 0))
      (fun t => t.m.cw.pends.any (fun p => p.vals.get? 128 == some 0x00112244)) = true := by decide
/-- R365: from 0x12345678 MOVH keeps the low half; MOVL clears the high half. -/
theorem test_movl_movh :
    (nextIs (exec (.movh ⟨0, 0⟩ 4 0xFF80) (lane0 0 0 0x12345678)) (fun t => t.m.cw.pends.any (fun p => p.vals.get? 128 == some 0xFF805678)) &&
    nextIs (exec (.movl ⟨0, 0⟩ 4 0x1234) (lane0 0 0 0x12345678)) (fun t => t.m.cw.pends.any (fun p => p.vals.get? 128 == some 0x1234))) = true := by
  decide
/-- R315: CLZ of 0x0000F000, 0x80000000 and 0; IABS of 0x80000000. -/
theorem test_unary : (gives (lane0 0x0000F000 0 0) 0x09420A08 16 && gives (lane0 0x80000000 0 0) 0x09420A08 0 &&
    gives (lane0 0 0 0) 0x09420A09 32 && gives (lane0 0x80000000 0 0) 0x09420A28 0x80000000 &&
    gives (lane0 1 0 0) 0x09420A10 0x80000000) = true := by decide +kernel
/-- R377: s5 = 0xFFFFFFF0, s6 = 0x24. -/
theorem test_scalar_samples :
    ([(0x0600A0C0, 0x00000014), (0x0600A0C1, 0xFFFFFFCC), (0x0600A0C2, 0xFFFFFDC0), (0x0600A0C3, 0x00000020), (0x0600A0C4, 0xFFFFFFF4),
      (0x0600A0C5, 0xFFFFFFD4), (0x0600A0C6, 0xFFFFFF00), (0x0600A0C7, 0x0FFFFFFF), (0x0600A0C8, 0xFFFFFFFF), (0x0600A0C9, 0xFFFFFFF0),
      (0x0600A0CA, 0x00000024), (0x0600A0CB, 0x00000024), (0x0600A0CC, 0xFFFFFFF0), (0x0600A0CD, 0x00000024), (0x0600A0CE, 0xFFFFFFDB),
      (0x0600A0CF, 0xFFFFFFDC), (0x0600A0D0, 0), (0x0600A0D1, 1), (0x0600A0D2, 0)] : List (Word × Word)).all (fun e =>
        match decode e.1 with
        | .ok i => nextIs (exec i (withW base (fun x => { x with s := [(5, 0xFFFFFFF0), (6, 0x24)] })))
            (fun t => t.m.cw.pends.any (fun p => p.file == .s && p.vals == [(5, e.2)]))
        | .error _ => false) = true := by decide
/-- R324: CVT.E4M3.F32 under RNE and under RUP, and CVT.S8.F32; the flags are IV 16, OF 4, UF 2, IX 1 (R124). -/
theorem test_conversions :
    ([(0x3F800000, 0x38, 0x38, 0), (0x43960000, 0x79, 0x7A, 1), (0x43FA0000, 0x7E, 0x7E, 5), (0xBA800000, 0x80, 0x80, 3),
      (0x7F800000, 0x7E, 0x7E, 16), (0x7FC00000, 0x7F, 0x7F, 0)] : List (Nat × Nat × Nat × Nat)).all (fun e =>
        cvtFn 6 .rne e.1 == (e.2.1, e.2.2.2) && cvtFn 6 .rup e.1 == (e.2.2.1, e.2.2.2)) = true ∧
    cvtFn 0x14 .rne 0x43480000 = (0x7F, 17) ∧ cvtFn 0x14 .rne 0xBFC00000 = (0xFE, 1) := by decide
/-- R374: the order of combination decides: 2^24 + 1 + 1 taken in ascending order, and 1 + 1 + 2^24. -/
theorem test_reduction_order :
    (let s (a b c : Word) := withBundle (withW base (fun x => { x with v := [(160, a), (161, b), (162, c)], k := [(0, 7), (1, 7)] })) 7
     nextIs (exec (.redw ⟨0, 0⟩ 4 5 8 0) (s 0x4B800000 0x3F800000 0x3F800000))
       (fun t => t.m.cw.pends.any (fun p => p.vals == [(128, 0x4B800000), (129, 0x4B800000), (130, 0x4B800000)])) &&
     nextIs (exec (.scanw ⟨0, 0⟩ 4 5 8 0) (s 0x3F800000 0x3F800000 0x4B800000))
       (fun t => t.m.cw.pends.any (fun p => p.vals == [(128, 0x3F800000), (129, 0x40000000), (130, 0x4B800001)]))) = true := by decide +kernel
/-- R270, R340: 1/2, √4, √−0; FEXP2 of 3 is exact; FLOG2 of 8 is exact; FSIN and FCOS of 0; FTANH of ∞. -/
theorem test_functions :
    F32.rcp .rne 0x40000000 = (0x3F000000, 0) ∧ F32.rcp .rne 0 = (0x7F800000, 8) ∧ F32.sqrt .rne 0x40800000 = (0x40000000, 0) ∧
    F32.sqrt .rne 0x80000000 = (0x80000000, 0) ∧ fexp2Fn 0x40400000 = (0x41000000, 0) ∧ flog2Fn 0x41000000 = (0x40400000, 0) ∧
    fsinFn 0x80000000 = (0x80000000, 0) ∧ fcosFn 0 = (0x3F800000, 0) ∧ ftanhFn 0x7F800000 = (0x3F800000, 0) ∧
    frsqFn 0x40800000 = (0x3F000000, 0) ∧ flog2Fn 0 = (0xFF800000, 8) := by decide +kernel

/-! ## The machine as a whole -/

/-- R228: the first move from reset is the boot. -/
theorem test_reset_boots : nextIs (step State.reset) (fun t => t.m.booted && t.m.regField (bootReg 0) 8 8 == 1) = true := by decide +kernel
/-- A word placed where step fetches runs at the very next step: MOVL v5, #0x1234 (R365). -/
theorem test_a_step_runs_the_word : nextIs (step (State.reset.withFetchWord 32 0x05051234))
    (fun t => (t.m.warp 0 0).pends.any (fun p => p.vals.get? 160 == some 0x1234)) = true := by decide +kernel

/-! ## States that meet the hypotheses of the statements: `meets_<statement>`, one conjunct for each clause

A clause about a read of a queue's context names what that read answers (`yes`). -/

/-- An access of the front-end that goes through, and what holds of its answer. -/
def yes {α : Type} (x : Fe α) (p : α → Mach → Bool := fun _ _ => true) : Bool := match x with | .ok a m => p a m | _ => false
/-- An option that holds a value, and what holds of the value. -/
def has {α : Type} (x : Option α) (p : α → Bool := fun _ => true) : Bool := match x with | some a => p a | none => false
/-- The lanes of a word's mask. -/
def lanes32 (s : State) : List Nat := (List.range 32).filter (fun l => (s.m.cur.bundle &&& s.m.k 0).getLsbD l)
/-- The release of every lane of a mask makes it ready. -/
def freed (x : Warp) (mask : Word) : Bool := (lanesOf mask).all (fun l => (x.lane l).quad.isNone && x.released l == .ready)
/-- No outstanding write bears a number that is still to be given. -/
def numbered (s : State) : Bool := s.m.cw.pends.all (fun p => p.id < s.m.nextId)
/-- `base` with one lane in its bundle, the others ready too. -/
def one : State := withBundle base 1
/-- `base` with the block's carve of shared memory, its pairs and its spill range. -/
def blocky (s : State) : State := withB s (fun b => { b with carve := 32768, pairs := [2, 5], spill := 20 })
/-- v9 of lane l, and v8 zero. -/
def withV9 (s : State) (f : Nat → Word) : State := withW s (fun x => { x with v := (List.range 32).map (fun l => (32 * 9 + l, f l)) })

theorem meets_masks_and_combinations : (9 : BitVec 4).toNat ≤ 9 ∧
    lowestLane ((base.m.cur.all ||| base.m.cur.bundle) &&& base.m.k 0) = some 0 ∧
    lowestLane (((withBundle base 0).m.cur.all ||| (withBundle base 0).m.cur.bundle) &&& base.m.k 0) = none ∧
    (26 : BitVec 6).toNat < 32 ∧ (26 : BitVec 6).toNat % 16 = 10 := by decide
theorem meets_rounding_and_nan : F32 ∈ [F64, F32, F16, BF16, E4M3, E5M2, E2M1] ∧ 0x7F800000 < 2 ^ F32.width ∧ (F32.dec 0x7F800000).isNan = false ∧
    F32 ∈ [F64, F32, F16, BF16] ∧ (F32.dec 0x7F800001).isNan = true ∧ ¬ (2 : Nat) ^ ((1 : Int) - 0).toNat ∣ 3 := by decide
theorem meets_landing :
    let p : Pend := { id := 1, file := .v, regs := [63], mask := 0x80000001, vals := (lanesOf 0x80000001).map (fun l => (32 * 63 + l, 7)), issue := 0, land := some 4, var := false }
    let q : Pend := { id := 1, file := .k, regs := [11], mask := 0x80000001, vals := [(11, 5)], issue := 0, land := some 4, var := false }
    p.file = .v ∧ p.vals = (lanesOf 0x80000001).map (fun l => (32 * 63 + l, 7)) ∧ p.land = some 4 ∧ p.early = [] ∧ p.var = false ∧
    q.regs = [11] ∧ q.mask = 0x80000001 ∧ q.vals = [(11, 5)] ∧ q.file = .k ∧ { q with file := .s }.file = .s := by decide
theorem meets_traps :
    let m := (withW (withM base (fun m => m.setReg (hamReg 0 0x600) 0x80000000)) (fun x => { x with tvec := 0x6000 })).m
    ((m.warp 0 0).hmode = false ∧ (m.warp 0 0).tvec ≠ 0 ∧ (m.reg (hamReg 0 (0x600 + 4 * m.warpCtx 0 0))).getLsbD 31 = true ∧ 31 < 32 ∧ 255 < 256) ∧
    ((base.m.warp 0 0).hmode = false ∧ (base.m.warp 0 0).tvec = 0) ∧
    ((m.warp 0 0).tvec ≠ 0 ∧ (m.reg (hamReg 0 (0x600 + 4 * m.warpCtx 0 0))).getLsbD 0 = false) ∧
    (let x := (withW (withLanes base (fun l => if l < 2 then .ready else if l < 4 then .held .fence else .parked .logged))
       (fun x => { x with hmode := true, k := [(0, 0x3D)] })).m.warp 0 0
     x.hmode = true ∧ x.kr 0 = 0x3D ∧ (x.lane 2).st = .held .fence ∧ (x.lane 5).st = .parked .logged) := by decide +kernel
theorem meets_software_traps_and_tret :
    (base.m.active 0 ≠ 0 ∧ base.m.active 7 = 0) ∧
    (let x := (withW one (fun x => { x with hmode := true, k := [(0, 1)] })).m.cw
     x.hmode = true ∧ x.resumes = [] ∧ x.saveWait = none ∧ freed x one.m.cur.bundle = true ∧ x.kr 0 = one.m.cur.bundle) ∧
    (let x := (withW one (fun x => { x with hmode := true })).m.cw
     x.hmode = true ∧ ((x.kr 0).getLsbD 31 = true ∧ one.m.cur.bundle.getLsbD 31 = false ∧ (x.lane 31).st ≠ .held .tret)) := by decide
theorem meets_branches_and_exit :
    (∀ l < 32, 12 ∣ base.m.fetchVa 0 0 (base.m.v 9 l)) ∧
    (let s := withV9 base (fun l => if l < 3 then 12 else 8)
     (s.m.active 0).getLsbD 3 = true ∧ ¬ 12 ∣ s.m.fetchVa 0 0 (s.m.v 9 3) ∧ ∀ l < 3, 12 ∣ s.m.fetchVa 0 0 (s.m.v 9 l)) ∧
    (one.m.cw.hmode = false ∧ one.m.cw.kr 0 &&& ~~~one.m.active 0 ≠ 0 ∧ one.m.cw.arr = [] ∧ ∀ l < 32, (one.m.cw.lane l).quad = none) ∧
    base.m.cw.kr 0 &&& ~~~base.m.active 0 = 0 := by decide
theorem meets_syscall_and_special_registers :
    (base.m.cur.snap = none ∧ base.m.freeRecord base.m.cur.ham = some 0) ∧
    (let y : Snap := { v := [], s := [], k := [], fx := [], record := some 3, sample := some 7 }
     (some y).bind (fun y => y.record) = some 3 ∧ (some y).bind (fun y => y.sample) = some 7) ∧ (withH base (fun h => { h with scRes := [0, 1, 2, 3, 4] })).m.freeRecord 0 ≠ some 4 ∧
    (withH base (fun h => { h with scRes := List.range 64 })).m.freeRecord 0 = none ∧ specialKnown 0x30 = true ∧ specialKnown 0x43 = true ∧
    ((4 : Word).toNat % 8 < 5 ∧ 5 ≤ (7 : Word).toNat % 8) ∧ (12 ∣ (0xFFFFFFFC : Word).toNat ∧ ¬ 12 ∣ (8 : Word).toNat) ∧
    (base.m.cw.hmode = false) ∧
    (let s := withW base (fun x => { x with hmode := true })
     s.m.cw.hmode = true ∧ s.m.cw.pends = [] ∧ s.m.active 0 ≠ 0) := by decide
theorem meets_quads_and_slots :
    (base.m.cw.liveMask &&& ~~~base.m.cur.bundle = 0 ∧ base.m.cw.quadHeld base.m.cur.pc = 0 ∧ freed base.m.cw base.m.cur.bundle = true ∧ (∀ l < 32, (base.m.cw.lane l).st = .ready) ∧
      ∀ p ∈ base.m.cw.pends, p.id < base.m.nextId) ∧
    (base.m.active 0 ≠ 0 ∧ base.m.active 7 = 0 ∧ base.m.cw.arr.get 0 11 = 0) ∧
    (base.m.active 0 &&& ~~~base.m.cw.membership 8 ≠ 0) ∧
    (let s := withW one (fun x => { x with k := x.k.set 8 3 })
     let x := s.m.cw
     s.m.active 0 &&& ~~~x.membership 8 = 0 ∧ x.membership 8 &&& x.liveMask &&& ~~~(x.arr.get 0 8 ||| s.m.active 0) ≠ 0) ∧
    (let s := withW one (fun x => { x with k := x.k.set 11 3, arr := [(11, 2)] })
     let x := s.m.cw
     s.m.active 0 &&& ~~~x.membership 11 = 0 ∧ s.m.active 0 ≠ 0 ∧ x.membership 11 &&& x.liveMask &&& ~~~(x.arr.get 0 11 ||| s.m.active 0) = 0 ∧
      freed x (x.arr.get 0 11 ||| s.m.active 0) = true) := by decide
theorem meets_ksync_and_fence :
    (let s := withV9 one (fun _ => 1)
     s.m.active 0 ≠ 0 ∧ s.m.cw.arr.get 0 8 = 0 ∧ (∀ l < 32, (s.m.active 0).getLsbD l = true → s.m.v 9 l = 1 ∧ (1 : Word).getLsbD l = true) ∧
      (1 : Word) &&& s.m.cw.liveMask &&& ~~~s.m.active 0 = 0 ∧ freed s.m.cw (s.m.active 0) = true) ∧
    (let s := withV9 one (fun _ => 0x80000001)
     (∀ l < 32, (s.m.active 0).getLsbD l = true → s.m.v 9 l = 0x80000001 ∧ (0x80000001 : Word).getLsbD l = true) ∧
      (0x80000001 : Word) &&& s.m.cw.liveMask &&& ~~~s.m.active 0 ≠ 0) ∧
    (let s := withV9 one (fun _ => 2)
     lowestLane (s.m.active 0) = some 0 ∧ s.m.v 9 0 = 2 ∧ ¬ (∀ l < 32, (s.m.active 0).getLsbD l = true → s.m.v 9 l = 2 ∧ (2 : Word).getLsbD l = true)) ∧
    (one.m.active 0 ≠ 0 ∧ one.m.active 7 = 0) := by decide
/-- Barrier 15 with 33 expected: `one` arrives below it, and the 33rd arrival meets it; EXP at its limits. -/
theorem meets_barriers :
    let bar (s : State) : Bar := (s.m.block s.m.cur.ham s.m.cw.block).bar 15
    let with' (b : Bar) : State := withB base (fun x => { x with bars := x.bars.set 15 b })
    (base.m.active 0 ≠ 0 ∧ (bar base).cl = false) ∧
    (bar (with' { exp := 33 })).cnt + 32 < 33 ∧ (bar (with' { exp := 33, cnt := 1 })).cnt + 32 = 33 ∧ (bar (with' { exp := 33, cnt := 2 })).cnt + 32 > 33 ∧
    (bar base).exp + (bar base).dlt - (31 : Nat) ≥ 1 ∧ (bar base).exp + (bar base).dlt - (32 : Nat) < 1 ∧
    (bar base).exp + (bar base).dlt + (65503 : Nat) ≤ 65535 ∧ (bar base).exp + (bar base).dlt + (65504 : Nat) > 65535 ∧
    ((0x1FFFF : Word).getLsbD 16 = true ∧ (0xFFFF : Word).getLsbD 16 = false ∧ field (0xFFFF : Word) 0 16 ≠ 0 ∧ (bar base).cnt = 0 ∧
      base.m.namesBar 0 base.m.cw.block 15 = false) ∧ (bar (with' { exp := 33, cnt := 1 })).cnt ≠ 0 ∧
    ((1 : Word).getLsbD 0 = !(bar base).ph ∧ (0 : Word).getLsbD 0 = (bar base).ph ∧ (1 : Word).getLsbD 0 ≠ (bar (with' { exp := 0, cl := true })).ph) ∧
    (withB base (fun x => { x with peers := [(3, 1), (0, 0)], rank := 1, bars := x.bars.map (fun e => (e.1, { e.2 with cl := e.1 ≥ 12 })) })).m.cb.hosted 15
      = true := by decide
/-- Barrier 15 hosted by the block itself, with 33 expected: its lanes' writes performed, or one still on its way. -/
theorem meets_own_hosted_barrier :
    let own (e c : Nat) : State := withB base (fun x =>
      { x with peers := [(0, 0), (3, 1)], bars := x.bars.set 15 { exp := 0, cl := true }, hosts := [(15, { exp := e, cnt := c, cl := true })] })
    let r : Req := { id := 1, kind := .store, ham := 0, warp := 0, tag := 0, home := 0, lanes := [(0, 0, [])], due := 600 }
    let late : State := withM (own 33 0) (fun m => { m with reqs := [r, { r with kind := .sstore }], nextId := 9 })
    let x (s : State) : Bar := s.m.cb.barOf true 15
    (own 33 0).m.cb.hostsIt 15 = true ∧ base.m.active 0 = 0xFFFFFFFF ∧ (own 33 0).m.released 15 0xFFFFFFFF = true ∧ late.m.released 15 0xFFFFFFFF = false ∧
    (late.m.cb.bar 14).cl = false ∧ late.m.released 14 0xFFFFFFFF = false ∧ (own 33 0).m.released 14 0xFFFFFFFF = true ∧
    (x (own 33 0)).cnt + 32 < (x (own 33 0)).exp ∧ (x (own 33 2)).cnt + 32 > (x (own 33 2)).exp ∧
    (x (own 33 0)).exp + (x (own 33 0)).dlt - (32 : Nat) ≥ 1 ∧ (x (own 33 0)).exp + (x (own 33 0)).dlt - (33 : Nat) < 1 ∧
    (x (own 33 0)).exp + (x (own 33 0)).dlt + (65502 : Nat) ≤ 65535 ∧ (x (own 33 0)).exp + (x (own 33 0)).dlt + (65503 : Nat) > 65535 := by decide

/-- Offsets of 16 bytes a lane into the block's shared memory, the last lane at the end of the carve. -/
def shared : State := withV9 (blocky base) (fun l => if l = 31 then 0x7FF0 else BitVec.ofNat 32 (16 * l))
theorem meets_shared_accesses :
    ((4 : BitVec 3).toNat ≤ 4 ∧ shared.m.cur.bundle &&& shared.m.k 0 ≠ 0 ∧ shared.m.poison = [] ∧ numbered shared = true ∧ shared.mem.wf = true ∧
      ∀ l ∈ lanes32 shared, shared.m.sharedCheck shared.m.cb (shared.m.v 9 l) 16 = none ∧ sharedRank shared.m.cb (shared.m.v 9 l) = shared.m.cb.rank) ∧
    (let s := withV9 (withB (blocky base) (fun x => { x with peers := [(0, 0), (0, 0)], rank := 0 })) (fun l => if l = 31 then 0x80040000 else 0)
     numbered s = true ∧ (lanes32 s).all (fun l => (s.m.sharedCheck s.m.cb (s.m.v 9 l) 16).isNone) = true ∧ sharedRank s.m.cb (s.m.v 9 31) = 1 ∧
       sharedRank s.m.cb (s.m.v 9 0) = s.m.cb.rank) ∧
    ((∀ l ∈ lanes32 shared, shared.m.sharedCheck shared.m.cb (shared.m.v 9 l) 4 = none) ∧
      (lanes32 shared).map (fun l => sharedKey shared.m.cur.ham shared.m.cb ((shared.m.v 9 l).toNat % 2 ^ 18)) =
        (List.range 31).map (fun l => sharedKey 0 shared.m.cb (16 * l)) ++ [sharedKey 0 shared.m.cb 0x7FF0]) := by decide +kernel
/-- The four conditions of a shared access, each in lane 3 alone. -/
theorem meets_shared_checks :
    let s (x : Word) : State := withV9 (blocky base) (fun l => if l = 3 then x else 0)
    let e (x : Word) : List (Option (Nat × Nat)) := (List.range 5).map (fun l => (s x).m.sharedCheck (s x).m.cb ((s x).m.v 9 l) 4)
    e 0x400000 = [none, none, none, some (0, 4), none] ∧ e 2 = [none, none, none, some (1, 3), none] ∧
    e 0x80040000 = [none, none, none, some (2, 6), none] ∧ e 0x8000 = [none, none, none, some (3, 4), none] := by decide +kernel
/-- Two lanes of an atomic on one word. -/
theorem meets_collision :
    let s := withV9 (blocky base) (fun l => BitVec.ofNat 32 (4 * (l % 31)))
    (∀ l ∈ lanes32 s, s.m.sharedCheck s.m.cb (s.m.v 9 l) 4 = none) ∧ 31 ∈ lanes32 s ∧ 0 ∈ lanes32 s ∧ s.m.v 9 31 = s.m.v 9 0 ∧
    s.m.cur.all ||| s.m.cur.bundle = s.m.cur.bundle := by decide +kernel
/-- Atomics of a group on different words: shared memory, a word of another rank among them, and Commons. -/
theorem meets_atomics :
    let s := withV9 (withB (blocky base) (fun x => { x with peers := [(0, 0), (0, 0)], rank := 0 }))
      (fun l => if l = 31 then 0x80040000 else BitVec.ofNat 32 (4 * l))
    let place (l : Nat) : Nat × Nat := (sharedRank s.m.cb (s.m.v 9 l), (s.m.v 9 l).toNat % 2 ^ 18)
    numbered s = true ∧ (lanes32 s).all (fun l => (s.m.sharedCheck s.m.cb (s.m.v 9 l) 4).isNone) = true ∧ ((lanes32 s).map place).Nodup ∧
    (place 31).1 ≠ s.m.cb.rank ∧
    (List.range 30).all (fun l => sharedKey 0 s.m.cb (4 * l) + 4 ≤ sharedKey 0 s.m.cb (4 * (l + 1))) = true := by decide +kernel

/-- Commons of carve 1 in every slice of die 0, with a context window and its read-only part; two lanes, offsets of 16 bytes in v9. -/
def commons : State :=
  let m := base.m
  let m := { m with regs := (List.range 80).foldl (fun r i => (slcReg i 0x10, (1 : Word)) :: r) m.regs }
  let m := (m.setReg (hamReg 0 0x320) 0x00040001).setReg (hamReg 0 0x324) 0x00010002
  withBundle (withV9 (blocky { base with m }) (fun l => BitVec.ofNat 32 (16 * l))) 0x80000001
/-- The same with the lines in the first level. -/
def commonsL1 : State :=
  withH commons (fun h => { h with l1 := (List.range 4).map (fun i =>
    let x := commons.m.commonsX 0 0 false (BitVec.ofNat 32 (128 * i))
    { kind := commonsKind 0 x.1, die := x.1, tag := x.2 / 128, ctx := 0, gran := 32 + i, filler := 0 }) })
theorem meets_commons_accesses :
    let at' (s : State) (l : Nat) : Nat × Nat := s.m.commonsX s.m.cur.ham s.m.cb.ctx false (s.m.v 9 l)
    (lanes32 commons = [0, 31] ∧ commons.m.poison = [] ∧ commons.mem.wf = true ∧ commons.m.reqs = [] ∧
      ∀ l ∈ lanes32 commons, (at' commons l).1 < 4 ∧ commons.m.commonsCheck 0 commons.m.cb.ctx false (commons.m.v 9 l) 16 true = none ∧
        commons.m.clear.l1Serving commons.mem 0 (at' commons l).1 (at' commons l).2 false 0 = none) ∧
    numbered commons = true ∧
    (let s := withH commonsL1 (fun h => { h with l1 := h.l1.take 1 })
     (lanes32 s).map (fun l => (s.m.clear.l1Serving s.mem 0 (at' s l).1 (at' s l).2 false 0).isSome) = [true, false]) ∧
    (lanes32 commonsL1 = [0, 31] ∧ ∀ l ∈ lanes32 commonsL1,
      (commonsL1.m.clear.l1Serving commonsL1.mem 0 (at' commonsL1 l).1 (at' commonsL1 l).2 false 0).isSome = true ∧
      (commonsL1.m.clear.l1Serving commonsL1.mem 0 (at' commonsL1 l).1 (at' commonsL1 l).2 true 0).isSome = true) := by
  decide +kernel
theorem meets_commons_across_dies_and_collision :
    (numbered commons = true ∧ lanes32 commons = [0, 31] ∧ commons.m.v 9 0 ≠ commons.m.v 9 31 ∧
      ∀ l ∈ lanes32 commons, commons.m.commonsCheck 0 commons.m.cb.ctx false (commons.m.v 9 l) 4 true = none) ∧
    (∀ l ∈ lanes32 commons, commons.m.commonsCheck 0 commons.m.cb.ctx true (commons.m.v 9 l) 16 false = none) ∧
    (let s := withV9 commons (fun _ => 64)
     (∀ l ∈ lanes32 s, s.m.commonsCheck 0 s.m.cb.ctx false (s.m.v 9 l) 4 true = none) ∧ lanes32 s = [0, 31] ∧ s.m.v 9 0 = s.m.v 9 31) := by
  decide +kernel
/-- A Commons address with a reserved bit, one misaligned, one beyond the window, and a store to its read-only part. -/
theorem meets_commons_checks :
    let e (x : Word) (store : Bool) : Bool := (commons.m.commonsCheck 0 commons.m.cb.ctx false x 4 store).isSome
    e 0x20000000 false = true ∧ e 2 true = true ∧ e 0x03FFFFFC false = true ∧ e 0 false = false ∧ e 0 true = false := by decide +kernel

theorem meets_spill_fill_and_device :
    let s := blocky base
    let s2 (x : Word) : State := withW s (fun w => { w with s := [(9, x)] })
    let e0 : LogEntry :=
      { id := 90, store := true, io := false, word := 0, pc := 0, mask := 1, todo := 1, reg := 0, size := 4, addrs := [],
        data := [], num := 0, issue := 0 }
    let full : State := withW s (fun w => { w with log := (List.range 4).map (fun i => ({ e0 with num := i } : LogEntry)) })
    let v := (List.range 32).map (fun l => (32 * 8 + l, BitVec.ofNat 32 (0x10000 + 16 * l))) ++ (List.range 32).map (fun l => (32 * 9 + l, (5 : Word)))
    let io : State := withM (withW base (fun w => { w with v }))
      (fun m => (((m.setReg (hamReg 0 0x400) 0x10000).setReg (hamReg 0 0x404) 5).setReg (hamReg 0 0x408) 2).setReg (hamReg 0 0x40C) 7)
    let va (l : Nat) : Nat := (io.m.v 8 l).toNat + 2 ^ 32 * (io.m.v 9 l).toNat
    (s.m.cur.bundle &&& s.m.k 0 ≠ 0 ∧ s.m.cw.freeLog = some 0 ∧ ((s2 16).m.s 9).toNat + 4 ≤ s.m.cb.spill ∧ s.m.cb.spill < ((s2 17).m.s 9).toNat + 4 ∧
      full.m.cw.freeLog = none ∧ lowestLane (s.m.cur.bundle &&& s.m.k 0) = some 0) ∧
    ((∀ l ∈ lanes32 io, io.m.inWindow 0 io.m.cb.ctx (va l) 16 false = true ∧ io.m.inWindow 0 io.m.cb.ctx (va l) 16 true = true ∧ va l % 16 = 0) ∧
      io.m.cw.freeLog = some 0 ∧ numbered io = true) ∧
    base.m.inWindow 0 base.m.cb.ctx 0 16 false = false := by decide +kernel
/-- Bytes of a view's record: 2-dimensional, 64 by 64 elements of 2^e bytes, rows of 256 bytes, and a box (b0 + 1) by (b1 + 1). -/
def recB (e : Nat) (gidx : Bool) (b0 b1 : Nat) : List Byte :=
  leBytes 8 0x10000 ++ leBytes 4 (e + 2 * 16 + (if gidx then 256 else 0)) ++ leBytes 4 0xABCD ++ leBytes 4 64 ++ leBytes 4 64 ++ leBytes 12 0 ++
  leBytes 4 256 ++ leBytes 12 0 ++ leBytes 1 b0 ++ leBytes 1 b1 ++ leBytes 3 0 ++ leBytes 1 0 ++ leBytes 6 (if gidx then 0x2000 else 0)
/-- The block with three views. -/
def views : State :=
  withB (blocky base) (fun b => { b with slots := [(0, recB 2 false 7 7), (1, recB 1 true 7 7), (2, recB 0 false 31 31)], cwp := [(0, 5)] })
/-- Words from s40 on. -/
def ws40 (s : State) (ws : List Word) : State := withW s (fun x => { x with s := (List.range ws.length).map (fun i => (40 + i, ws.getD i 0)) })
/-- A plan that is made, or the code of the check that fails. -/
def planned (fn : Nat) (ws : List Word) : Option Nat := match views.m.plan 0 views.m.cb fn ws with | .ok _ => none | .error c => some c
theorem meets_channel_words :
    views.m.activeAll 0 ≠ 0 ∧ views.m.activeAll 1 = 0 ∧
    [0, 0, 0, 0, 0, 0, 0, 0].map (fun _ => views.m.cmdStall 0 [0, 0, 0, 0, 0, 0, 0, 0] 3) = List.replicate 8 false ∧
    (withH views (fun h => { h with sb := List.replicate 64 ⟨9, 0, none, none⟩ })).m.cmdStall 0 [0, 0, 0, 0, 0, 0, 0, 0] 0 = true ∧
    [planned 0 [0, 0, 0, 0, 0, 0, 0, 0], planned 1 [0, 0, 0, 0, 0, 0, 0, 0], planned 2 [0, 0, 0, 0, 0, 0, 0, 1], planned 3 [0, 0, 0, 0, 0, 0, 1, 0],
      planned 4 [0, 0, 0, 0, 0, 0, 0, 0], planned 5 [0, 0, 0, 0, 0, 0, 0, 0]] = List.replicate 6 none ∧
    [planned 0 [0x10000000, 0, 0, 0, 0, 0, 0, 0], planned 1 [0, 0, 0, 0, 0, 0, 0, 64], planned 2 [0, 0, 0, 0, 0, 0, 0, 64], planned 3 [0, 0, 0, 0, 0, 0, 0, 0],
      planned 4 [0, 0, 0, 0, 0, 0, 0, 64], planned 5 [0, 0xFFFFFFFF, 0, 0, 0, 0, 0, 0]] = [some 2, some 1, some 2, some 1, some 1, some 6] := by
  decide +kernel
/-- CPWAIT at and one past the pointer 5; MMWAIT and QWAIT at and one below 7 commands; the three states of the baton. -/
theorem meets_waits_and_baton :
    let ec : ECmd := { id := 1, fn := 0, warp := 0, block := 0, ctx := 0, hint := 0, bar := 0, lanes := 0, pc := 0, word := 0, par := [],
                       phase := .queued, entry := true }
    let qc : QCmd := { id := 2, warp := 0, block := 0, ctx := 0, bar := 0, arv := false, words := [], issue := 0 }
    let s := withH views (fun h => { h with eng := { h.eng with q := List.replicate 8 ec }, qeng := List.replicate 8 qc })
    let cp (v : Word) : Word := views.m.cb.cwp.get 0 0 - v
    let bat (b : Option Nat) (q : List Nat) : Engine := ((withH views (fun h => { h with eng := { h.eng with baton := b, bq := q } })).m.ham 0).eng
    (cp 5).toInt ≥ 0 ∧ (cp 6).toInt < 0 ∧ ((s.m.ham 0).eng.q.filter (fun c => c.block = s.m.cw.block)).length = 8 ∧
    ((s.m.ham 0).qeng.filter (fun c => c.block = s.m.cw.block)).length = 8 ∧
    (bat (some 0) []).baton = some s.m.cur.warp ∧ s.m.cur.warp ∈ (bat (some 5) [0]).bq ∧ ((bat none []).baton = none ∧ (bat none []).bq = []) ∧
    ((bat (some 5) [4]).baton = some 5 ∧ 5 ≠ s.m.cur.warp ∧ s.m.cur.warp ∉ (bat (some 5) [4]).bq ∧ (bat (some 5) [4]).baton ≠ some s.m.cur.warp) := by
  decide +kernel
theorem meets_matrix_words_layset_enq :
    let s := ws40 views [0x7FC0, 0x400, 0x800, 0, 0, 0, 0, 0]
    let d := s.m.s 40
    s.m.activeAll 0 ≠ 0 ∧ field d 27 5 = 0 ∧ field d 0 27 % 64 = 0 ∧ field d 0 27 + 64 = s.m.cb.carve ∧ s.m.poison = [] ∧
    ((s.m.ham 0).eng.q.filter (·.entry)).length < 8 ∧ (s.m.ham 0).sb.length ≤ 62 ∧
    s.m.sbWait 0 0 false (gransOf (arrOff s.m.cb (field d 0 27)) 64) = false ∧ s.m.sharedCheck s.m.cb (d &&& 0x07FFFFFF) 64 = none ∧
    s.m.sharedCheck s.m.cb 0x20 64 = some (1, 3) ∧ s.m.sharedCheck s.m.cb (d &&& 0x0003FFFF) 64 = none ∧
    (field (0x20000000 : Word) 28 4 > 1 ∧ field (0x10000000 : Word) 28 4 ≠ 0) ∧
    ((s.m.ham 0).eng.q = [] ∧ (s.m.ham 0).lays = [] ∧ s.m.cur.snap.bind (·.mm) = none) ∧
    (let e : ECmd := { id := 1, fn := 0, warp := 0, block := 0, ctx := 0, hint := 0, bar := 0, lanes := 0, pc := 0, word := 0, par := [],
                       phase := .awaiting, entry := true }
     let snap : Snap := { v := [], s := [], k := [], fx := [], mm := some 1 }
     let p := withM (withH s (fun h => { h with eng := { h.eng with q := [e] } })) (fun m => { m with nextId := 2, cur := { m.cur with snap := some snap } })
     p.m.cur.snap.bind (·.mm) = some 1 ∧ (∀ c ∈ (p.m.ham 0).eng.q, c.id < p.m.nextId)) := by decide +kernel
/-- QENQ: a source and destinations within the carve; and a format that R130 does not permit. -/
theorem meets_qenq :
    let p (ws : List Word) : Option Nat := match views.m.planQenq 0 views.m.cw.block ws with | .ok _ => none | .error c => some c
    views.m.activeAll 0 ≠ 0 ∧ p [0x40, 0x4000, 0x6000, 0x10004, 128, 0, 0, 0] = none ∧ p [0x40, 0x4000, 0x6000, 0x10004, 128, 8, 0, 0] ≠ none ∧ (views.m.ham 0).qeng.length < 16 ∧ (views.m.ham 0).sb.length < 64 := by
  decide +kernel
def card0 : Card :=
  let chunk : Chunk := { ham := 0, block := 0, first := 10, count := 5 }
  { queue := 3, launch := 0, records := 100, recBytes := 64, minchunk := 4, next := 20, stop := 90, chunks := [chunk] }
def withCard (s : State) : State := withM s (fun m => { m with launches := [(0, { wordLaunch with card := some 7 })], cards := [(7, card0)] })
theorem meets_task_words :
    (base.m.activeAll 1 = 0 ∧ base.m.activeAll 0 ≠ 0 ∧ ((base.m.launches.get? base.m.cb.launch).bind (·.card)) = none) ∧
    (let m := (withCard base).m
     ((m.launches.get? m.cb.launch).bind (·.card)) = some 7 ∧ m.cards.get? 7 = some card0) := by decide
/-! ## Moves -/

/-- A pending VRD or VWR of four lanes. -/
def vpend (role : PRole) (f : Nat → Nat) : Pend :=
  let mask : Word := 0x80000003
  { id := 9, file := .v, regs := [5], mask, vals := (lanesOf mask).map (fun l => (32 * f l + l, BitVec.ofNat 32 (7 * l))),
    early := (lanesOf mask).map (fun l => (l, 500)), issue := 3, land := none, var := false, role }
/-- Two warps on hamlet 0. -/
def two (a b : Warp) : State := withH base (fun h => { h with warps := [(0, a), (1, b)] })
theorem meets_active_set_moves :
    let w (f : Warp → Warp) : State := withW base f
    let off : State := w (fun x => { x with active := false, eligAt := 0 })
    let fit : State := two { wordWarp with active := false, waitCnt := 4096 } { wordWarp with idx := 1, activated := 3 }
    let big : State := two { wordWarp with active := false, waitCnt := 4096, lease := 2000 } { wordWarp with idx := 1, activated := 3, lease := 600 }
    (off.m.mayJoin 0 = true ∧ off.m.joinWarp 0 = some 0) ∧
    (fit.m.mayJoin 0 = true ∧ fit.m.forcedWarp 0 = some 0 ∧ fit.m.fitsActive 0 (fit.m.warp 0 0) = true) ∧
    (big.m.mayJoin 0 = true ∧ big.m.forcedWarp 0 = some 0 ∧ big.m.fitsActive 0 (big.m.warp 0 0) = false ∧ (big.m.ham 0).oldest = some 1) ∧
    (let x := (w (fun x => { x with idle := 64, actCycles := 1024, passed := 4096, streak := 64, yieldUntil := some 500 })).m.warp 0 0
     x.active = true ∧ 64 ≤ x.idle ∧ 1024 ≤ x.actCycles ∧ 4096 ≤ x.passed ∧ 64 ≤ x.streak ∧ x.yieldUntil = some 500 ∧ 500 ≤ base.m.now) ∧
    ((w (fun x => { x with ended := true })).m.warp 0 0).ended = true ∧
    ((w (fun x => { x with saveWait := some 3 })).m.warp 0 0).saveWait = some 3 ∧ 3 + 16384 ≤ (withM base (fun m => { m with now := 16387 })).m.now ∧
    (∀ r ∈ [PRole.vrd, .vwr], let p := vpend r (fun l => if l = 31 then 63 else l)
      p.role = r ∧ p.file = .v ∧ p.mask ≠ 0 ∧ 500 ≤ base.m.now ∧ (∀ l < 32, (if l = 31 then 63 else l) < 64) ∧
      p.early = (lanesOf p.mask).map (fun l => (l, 500)) ∧ base.m.cw.fences = [] ∧ base.m.cw.withheld = [] ∧
      p.vals = (lanesOf p.mask).map (fun l => (32 * (if l = 31 then 63 else l) + l, BitVec.ofNat 32 (7 * l)))) := by decide +kernel
def wk : Walk := { id := 5, ctx := 0, asid := 0, vpn := 7, due := 3, waiters := [(.log 0 3 0, .load)] }
/-- A warp whose log holds one SPILL of three lanes, and its line in the first level. -/
def spilling : State :=
  let e : LogEntry :=
    { id := 5, store := true, io := false, word := 0, pc := 0, mask := 0x80000101, todo := 1, reg := 3, size := 4, addrs := [(0, 0x3000)],
      data := (List.range 32).map (fun l => (l, [BitVec.ofNat 8 l, 1, 2, 3])), issue := 400 }
  withH (withW base (fun x => { x with log := [e] })) (fun h => { h with l1 := [{ kind := 0, tag := 0x3000 / 128, ctx := (base.m.ctx 0 0).num, gran := 33, filler := 0, pa := 0x3000 }] })
/-- The last-level cache of main memory holds these lines, so that an access needs no replacement. -/
def cached (s : State) (pas : List Nat) : State :=
  withM s (fun m => { m with llc := pas.foldl (fun a pa =>
    a.set (stackOf pa) ({ set := pa / 128, way := 0, tag := pa / 128, hint := 0, occ := 0 } :: a.get [] (stackOf pa))) m.llc })
/-- A table of four levels for page 7. -/
def walking : State := cached (putN (putN (putN (putN (withH (withM base (fun m => (m.setReg (hamReg 0 0x610) 0x10).setReg (hamReg 0 0x614) 0x90000000))
    (fun h => { h with walks := [wk] })) 0x10000 8 0x8001) 0x20000 8 0xC001) 0x30000 8 0x10001) 0x40038 8 0x154DF) [0x10000, 0x20000, 0x30000, 0x40000]
theorem meets_placement_and_log_moves :
    (let l : Launch := { wordLaunch with placed := 3, gx := 5, clb := 4, carve := 32768 }
     let s := withM base (fun m => { m with launches := [(0, l)] })
     s.m.launches.get? 0 = some l ∧ s.m.placeDue 0 = true) ∧
    (let s := withB base (fun b => { b with eligible := false, eligAt := 500 })
     has ((s.m.ham 0).blocks.get? 0) (fun b => !b.eligible && b.eligAt ≤ s.m.now && !(s.m.launches.get default b.launch).heldStart) = true) ∧
    (let s := withW base (fun x => { x with ended := true })
     s.m.endDue 0 0 = true ∧ has ((s.m.ham 0).blocks.get? 0) (fun b => (s.m.launches.get? b.launch).isSome) = true) ∧
    (let s := withH base (fun h => { h with blocks := [], warps := [] })
     ({ s with m := { s.m with launches := [] } } : State).m.leaveDue s.mem 0 0 = true) ∧
    (((walking.m.ham 0).walks.find? (fun y => y.id = 5)) = some wk ∧ (walking.m.satp 0 wk.ctx).1 = 9 ∧
      (match walking.m.clear.walkFrom walking.mem (walking.m.partHam 0) 7 4 (walking.m.satp 0 0).2.2 with
        | (.leaf flags _ _ ok, _) => leafCheck flags ok .load == none | _ => false) = true) ∧
    (let x := (withW base (fun x => { x with fetchBad := some (0x80000001, 0x7000) })).m.warp 0 0
     x.fetchBad = some (0x80000001, 0x7000) ∧ 0x80000001 &&& x.readyMask ≠ 0) ∧
    (let m := spilling.m
     has ((m.warp 0 0).log.find? (fun e => e.id = 5)) (fun e => (m.warp 0 0).logReady m.now e && e.store && !e.io && e.todo == 1 && e.size == 4 &&
       e.found == [] && (match m.translate 0 (m.warpCtx 0 0) (e.addrs.get 0 0) .store with
         | .hit pa => m.reach (m.partHam 0) pa true == .ok && (m.l1Find 0 0 0 (e.addrs.get 0 0 / 128) (m.ctx 0 (m.warpCtx 0 0)).num (pa / 128 * 128)).isSome
         | _ => false) && (List.range 32).all (fun l => (e.data.get [] l).length == 4)) = true ∧
     m.poison = [] ∧ spilling.mem.wf = true) := by decide +kernel
/-- A request for line 9 of home 3. -/
def req : Req := { id := 4, kind := .load, ham := 0, tag := 0, home := 3, die := 0, line := 9, due := 0, pend := 9 }
theorem meets_request_moves :
    let s (r : Req) : State := withM base (fun m => { m with reqs := [r] })
    let m := (s req).m
    let lin : L1Line := { kind := 1, die := 0, tag := 9, ctx := 0, gran := 33, filler := 0 }
    (m.req 4 = some req ∧ m.partOf req.router.2 = some req.tag ∧ m.poison = []) ∧
    ((s { req with tag := 5 }).m.req 4 = some { req with tag := 5 } ∧ m.partOf ({ req with tag := 5 } : Req).router.2 ≠ some 5) ∧
    ({ req with kind := .store, lanes := [(3, 9 * 128 + 120, [1, 2, 3, 4, 5, 6, 7, 8])] } : Req).lanes = [(3, 9 * 128 + 120, [1, 2, 3, 4, 5, 6, 7, 8])] ∧
    m.clear.l1Serving [] (req.peer.getD req.ham) req.die (128 * req.line) req.ro req.began = none ∧
    ((s { req with peer := some 1 }).m.modHam 1 (fun h => { h with l1 := [lin] })).clear.l1Serving [] 1 0 (128 * 9) req.ro req.began = some lin ∧
    ((base.m.ham 0).blocks.get? 0).isSome = true ∧
    (let p : Pend := { vpend .plain id with vals := [], early := [] }
     let r : Req := { req with kind := .sload, home := 0, stage := 3, vals := [(70, 1234)] }
     let s := withW (s r) (fun x => { x with pends := [p] })
     (s.m.warp r.ham r.warp).pends = [p] ∧ p.id = r.pend ∧ p.file = .v ∧ p.land = none ∧ p.role = .plain ∧ p.least ≤ s.m.now ∧
       (s.m.warp r.ham r.warp).fences = [] ∧ (s.m.warp r.ham r.warp).withheld = [] ∧ (∀ q ∈ s.m.reqs, q.id = 4) ∧
     (let d : Req := { req with lanes := [(3, 9 * 128 + 8, []), (31, 9 * 128 + 120, [])], size := 2 ^ 3, reg := 62, data := List.replicate 128 7 }
      d.kind = .load ∧ d.lay = none ∧ d.onPath = [] ∧ (d.lanes.map (·.1)).Nodup ∧ (∀ e ∈ d.lanes, e.1 < 32) ∧ d.drop = false ∧ { d with drop := true }.drop = true)) := by decide +kernel
def cmd0 : Cmd :=
  { id := 3, fn := 0, warp := 0, block := 0, ctx := 0, lane := 0, chan := 0, hint := 0, bar := 0, arv := false, rcd := recB 2 false 7 7,
    words := [0x40, 0, 0], issue := 0, total := 256 }
/-- The channels of hamlet 0. -/
def chans (n : Nat) (l : List Cmd) : State := withH (blocky base) (fun h => { h with chans := [(n, l)] })
theorem meets_channel_moves :
    let push : Cmd := { cmd0 with fn := 1, start := some 100, words := [0x40, 0x40, 0, 0, 0, 0, 0x20, 0], prog := 128 }
    let q : QCmd := { id := 8, warp := 0, block := 0, ctx := 0, bar := 0, arv := false, words := [0x40, 0x1000, 0x2000, 0x20040, 64, 0, 0, 0], issue := 100 }
    let lay : LayRead := { id := 6, warp := 0, block := 0, slot := some 3, ecmd := none, lanes := 1, pc := 0, word := 0, bytes := some (recB 2 false 7 7), due := 0 }
    ((chans 3 [cmd0]).m.mayStart 0 3 = true ∧ ((chans 3 [cmd0]).m.ham 0).chans.get [] 3 = [cmd0]) ∧
    (push.fifo = 2 ∧ push.drain = none ∧ push.found = none ∧ push.addTo = none ∧ push.zrows = none ∧ push.discard = false ∧
      (push.words.headD 0).toNat < 2 ^ 28 ∧ (chans 1 [push]).m.chunkDue 0 1 = true ∧ ((chans 1 [push]).m.ham 0).eng.dropW = 0 ∧
      ((chans 1 [push]).m.ham 0).eng.dropA = 0 ∧ base.m.poison = []) ∧
    2 ≤ ({ cmd0 with acks := 2 } : Cmd).acks ∧
    (let m := (withH base (fun h => { h with qeng := [q, q] })).m
     (m.ham 0).qeng = [q, q] ∧ m.qengMayStart 0 = true) ∧
    ((withH base (fun h => { h with qeng := [{ q with start := some 200 }, q] })).m.qengDue 0 = true ∧ ∀ i < 3, (q.words.getD i 0).toNat < 2 ^ 27) ∧
    (let m := (withH base (fun h => { h with lays := [lay] })).m
     (m.ham 0).lays.find? (fun y => y.id = 6) = some lay ∧ m.laysetDue 0 lay = true ∧ recOk (lay.bytes.getD []) = true) := by decide +kernel
/-- AMO on a word of mapped main memory that its slice holds. -/
theorem meets_amo :
    let a : Cmd := { cmd0 with fn := 5, start := some 100, words := [0x100, 0x3010, 0, 5, 0, 7, 0x1, 0], rcd := [], total := 0 }
    let s := cached (chans 0 [a]) [0x3000]
    s.m.amoDue 0 0 = true ∧ a.found = none ∧ a.performed = false ∧ (amoOperands a.words).1 = 0x3010 ∧
    (match s.m.translate 0 a.ctx 0x3010 .amo with
      | .hit pa => decide (pa < 2 ^ 46) && pa / 2 ^ 40 == s.m.ownPkg && s.m.reach (s.m.partHam 0) pa true == .ok && !s.m.stackWaits pa &&
          (let p := s.m.clear.amoPlace s.mem 0 a pa
           !s.m.reserved a.id p.1 && !p.2.2.bad p.1 (amoOperands a.words).2.1) && s.mem.wf
      | _ => false) = true := by decide +kernel

/-! ### The matrix engine: a command of one tile, four rows and INT8 operands, its accumulator rows from 8 on -/

def parB (ws : List Nat) : List Byte := (List.range 16).flatMap (fun i => leBytes 4 (ws.getD i 0))
def shapeW (nt acc rows : Nat) : Nat := nt - 1 + acc * 4096 + (rows - 1) * 2 ^ 21
def e0 (fn : Nat) (par : List Byte) (ph : EPhase) : ECmd :=
  { id := 30, fn, warp := 0, block := 0, ctx := 0, hint := 0, bar := 1, lanes := 1, pc := 0, word := 0, par, phase := ph, entry := true }
def weights : List Byte := [0x57, 6] ++ List.replicate 30 0 ++ (List.range 8192).map (fun i => BitVec.ofNat 8 (i * 7))
def activ (rows : Nat) : List Byte := [0x41, 6, BitVec.ofNat 8 (rows - 1)] ++ List.replicate 29 0 ++ (List.range 1000).map (fun i => BitVec.ofNat 8 (i * 11))
def mmop : List Byte := parB [2, 6 + 6 * 256, shapeW 1 8 4]
def drain (code dop : Nat) : List Byte := parB [4, 6 + 6 * 256, shapeW 1 8 4, code * 2 ^ 28 + 0x100, 256, dop, 1, 2]
def eng (e : Engine) : State := withH (blocky base) (fun h => { h with eng := e })
theorem meets_engine_loading :
    let y : LayRead := { id := 6, warp := 0, block := 0, slot := none, ecmd := some 30, lanes := 1, pc := 0, word := 0, bytes := some mmop, due := 0 }
    let par (w a : List Byte) : State :=
      withH (eng { owner := some 0, fifoW := { data := w }, fifoA := { data := a }, q := [e0 0 mmop .awaiting] }) (fun h => { h with lays := [y] })
    let drop (s : State) : Mach := s.m.clear.modHam 0 (fun x => { x with lays := x.lays.filter (fun z => z.id ≠ 6) })
    let ok (s : State) : Bool := match (drop s).mmCheck 0 (e0 0 mmop .awaiting) with | .ok _ => true | .error _ => false
    ((eng { fifoW := { data := weights } }).m.ham 0).eng.shadowDue base.m.now = true ∧ ((eng {}).m.ham 0).eng.stage.data = [] ∧
    (par [] []).m.parDue 0 y = true ∧ has (((par [] []).m.ham 0).lays.find? (fun y => y.id = 6)) (fun z => z == y) = true ∧
    ok (par weights (activ 4)) = true ∧ ok (par [] (activ 4)) = false := by decide +kernel
theorem meets_engine_moves :
    let other : Engine := { owner := some 9, acc := [(5, 7)], q := [e0 0 mmop .queued] }
    let run : Engine := { owner := some 0, fifoA := { data := activ 4 }, shadow := some { bytes := weights, bad := false, ready := 3 }, q := [e0 0 mmop .running] }
    let act : Latch := { fmt := 6, kb := false, data := weights.drop 32 }
    let tile1 : Engine := { owner := some 0, fifoA := { data := activ 4 }, active := some act, q := [{ e0 0 mmop .running with row := 1 }] }
    let rows : Engine := { owner := some 0, fifoA := { data := (activ 4).drop 32 }, tag := [(8, 2)], active := some act, q := [e0 0 mmop .rows] }
    let fin : Engine := { owner := some 0, q := [{ e0 0 mmop .draining with due := 3 }] }
    let p := parOf 0 mmop
    ((eng other).m.switchDue 0 = true ∧ ((eng other).m.ham 0).eng.switching = false) ∧
    (let e := { other with switching := true }
     (eng e).m.switchDue 0 = true ∧ ((eng e).m.ham 0).engSaved.get? ((eng e).m.ctxNum 0 0) = none) ∧
    (eng { other with owner := some 0 }).m.engStartDue 0 = true ∧ (e0 0 mmop .queued).starved = false ∧ (e0 0 mmop .queued).resume = none ∧
    ((eng run).m.tileDue 0 = true ∧ (e0 0 mmop .running).row = 0 ∧ natAt weights 1 1 = p.bfmt + 16 * p.bkb.toNat ∧ p.bfmt < 16) ∧
    ((eng tile1).m.tileDue 0 = true ∧ activOk p ((activ 4).take 32) = true) ∧
    ((eng rows).m.rowDue 0 = true ∧ p.akb = false ∧ rows.fifoA.fails = [] ∧ rows.accFails = []) ∧
    (let f : Flow := { row := 9, words := List.replicate 64 5, cols := 64, done := 0, typ := 2, entry := 300 }
     f.done = 0 ∧ f.cols = 64) ∧
    ((eng fin).m.engDone 0 = true ∧ ({ e0 0 mmop .draining with due := 3 } : ECmd).chanDone ≠ some false ∧
      (e0 0 mmop .draining).fault = none ∧ (e0 0 mmop .draining).short = false) := by decide +kernel
theorem meets_drains :
    let d (code dop : Nat) (c : ECmd → ECmd) : Engine := { owner := some 0, acc := [(520, 3)], q := [c (e0 2 (drain code dop) .draining)] }
    let cm (e : Engine) : State := withH commons (fun h => { h with eng := e })
    let sp : List Byte := parB [1, 6 + 6 * 256, shapeW 1 8 4, 0, 0, 0, 0, 0, 0, 0x40, 0x80, 0xC0, 0x100, 64, 8, 16]
    let ms : State := eng { owner := some 0, acc := [(520, 3)], q := [e0 1 sp .running] }
    (eng (d 0 0 id)).m.drainStartDue 0 = true ∧ (parOf 2 (drain 0 0)).code ≠ 4 ∧ (eng (d 0 1 id)).m.drainStartDue 0 = true ∧
    (let c (c : ECmd) : ECmd := { c with started := true, did := 77 }
     let m := (cm (d 1 1 c)).m
     let x := c (e0 2 (drain 1 1) .draining)
     let p := parOf 2 (drain 1 1)
     m.reserveDue 0 = true ∧ (m.nextGran 0 x p).isSome = true ∧
     (let m := ({ m with resv := (m.drainGrans 0 x p).map (fun g => (77, 0, m.granKey 0 g)) } : Mach)
      m.reserveDue 0 = true ∧ m.nextGran 0 x p = none)) ∧
    ((eng (d 0 0 (fun c => { c with started := true, pos := 128 }))).m.drainChunkDue 0 = true ∧ (parOf 2 (drain 0 0)).dop = 0 ∧
      (parOf 2 (drain 0 0)).code = 0) ∧
    (ms.m.mmspDue 0 = true ∧ ∀ i ≤ (parOf 1 sp).rows,
      wordAt (ms.m.clear.localRead ms.mem 0 (ms.m.block 0 0) 0 (parOf 1 sp).rptr (4 * ((parOf 1 sp).rows + 1))).1 (4 * i) = 0) := by decide +kernel

/-! ### Messages, fences and tasks -/

def msg0 : Msg := { id := 4, src := 0, sblock := 0, dst := 0, dblock := 0, bar := 12, item := .barrd 31, warp := 0, lanes := 0xF, act := 0xF, due := 3 }
theorem meets_barrier_messages :
    let two (b : Block) : Block := { b with hosts := [(12, { exp := 64, cl := true })], bars := b.bars.set 12 { exp := 0, cl := true } }
    let m (g : Msg) : Mach := (withM (withB base two) (fun m => { m with msgs := [g, { g with id := 9 }] })).m.clear
    let b := ((m msg0).block 0 0).barOf true 12
    ((m msg0).msgs.find? (fun y => y.id = 4) = some msg0 ∧ msg0.lanes ≠ 0 ∧ msg0.own = false ∧ (((m msg0).ham 0).blocks.get? 0).isSome = true ∧
      1 ≤ b.exp + b.dlt - (63 : Nat) ∧ b.exp + b.dlt - (64 : Nat) < 1) ∧
    ((m { msg0 with item := .flip true }).msgs.find? (fun y => y.id = 4) = some { msg0 with item := .flip true } ∧
      ((m { msg0 with item := .flip true }).ham 0).warps.get? 0 = some (base.m.warp 0 0) ∧ freed base.m.cw 0xFFFFFFFF = true ∧
      (((m msg0).block 0 0).bar 12).cl = true ∧ base.m.cw.ended = false ∧
      (let x := (withLanes base (fun _ => .held .bwait)).m.cw
       (x.lane 31).st = .held .bwait ∧ (x.lane 31).arg = 12 ∧ freed x 0xFFFFFFFF = true)) ∧
    ((m { msg0 with item := .answer true true false false none }).msgs.find? (fun y => y.id = 4) = some { msg0 with item := .answer true true false false none } ∧
      msg0.pend = 0) := by decide +kernel
def fence0 : FenceHold := { mask := 0x0F, all := 0xFF, kind := 2, scope := 1, issue := 480, before := 1, rest := [], succ := 0x3004, snap := default, fpmode := 0 }
/-- A hold in its warp, the lanes of its mask held. -/
def fenced (f : FenceHold) (h : Hold) : State :=
  withW base (fun x => { x with fences := [f], lanes := (List.range 32).map (fun l => (l, ({ st := if l < 4 then .held h else .ready, pc := 0x3004 } : Lane))) })
theorem meets_releases :
    let at' : AtomJob := { op := 0, so := 3, lanes := [], addrs := [], pc := 0x3000, word := 0, pend := 8, sent := true }
    let s := fenced fence0 .fence
    let sc := fenced { fence0 with kind := 3, scope := 3 } .fence
    let f : FenceHold := { fence0 with atom := some at' }
    (s.m.clear.fenceDue 0 0 = some fence0 ∧ fence0.rest = [] ∧ fence0.enc = none ∧ (s.m.reg (wctlReg 0 0)).getLsbD 0 = false ∧
      fence0.kind ≠ 1 ∧ 1 ≤ s.m.scopeOf 2 1 ∧ freed s.m.cw fence0.mask = true) ∧
    (sc.m.clear.fenceDue 0 0 = some { fence0 with kind := 3, scope := 3 } ∧ sc.m.sequencer = true) ∧
    (fenced f .atom).m.clear.atomDue 0 0 = some (f, at') := by decide +kernel
def task0 : Task := { id := 6, ham := 0, warp := 0, block := 0, pend := 9, enq := none, s := 4, due := 3 }
/-- A block of job card 7 with a TASKGET or ENQ on its way. -/
def tasked (c : Card) (k : Task) (s : State := base) : State :=
  let p : Pend := { id := 9, file := .s, regs := [4, 5], mask := 0, vals := [], issue := 3, land := none, var := true }
  withW (withM (withB s (fun b => { b with dealing := true })) (fun m =>
    { m with launches := [(0, { wordLaunch with card := some 7 })], cards := [(7, c)], tasks := [k] })) (fun x => { x with pends := [p] })
theorem meets_deals_and_tokens :
    let m := (tasked card0 task0).m.clear
    let b := m.block 0 0
    (m.tasks.find? (fun y => y.id = 6 && y.enq.isNone) = some task0 ∧ task0.due ≤ m.now ∧ (m.ham 0).blocks.get? 0 = some b ∧ m.cardOf b = some 7 ∧
      b.dealing = true ∧ ((m.hams.flatMap (fun e => e.2.blocks)).filter (fun x => x.2.launch = b.launch && x.2.dealing && x.2.eligible)).length = 1 ∧
      m.placementStopped (m.ctx 0 b.ctx).num = false ∧ (m.cards.get default 7).next < (m.cards.get default 7).stop ∧
      (m.warp 0 0).pends.map (·.id) = [task0.pend]) ∧
    (let c := (tasked { card0 with next := 90 } task0).m.cards.get default 7
     c.stop ≤ c.next) ∧
    ((5 % 2 ^ 16 + 2 ^ 16 - base.m.podSeq) % 2 ^ 16 < 2 ^ 15 ∧ ([0] : List Nat).find? (· ≠ base.m.ownPkg) = none ∧
      ([0, 4, 6] : List Nat).find? (· ≠ base.m.ownPkg) = some 4 ∧
      (let m := (withM base (fun m => { m with cards := [(6, { card0 with next := 0, stop := 81920 })] })).m.clear
       let mine := m.stealReturn.podLoad
       let l := ([70000, 2, 3] : List Nat).map (· % 2 ^ 16) |>.set m.ownPkg mine
       mine = 80 ∧ (∀ x ∈ l, x ≤ mine) ∧ 2 * l.foldl (· + ·) 0 < mine * l.length ∧ ¬ 2 * mine * l.length < l.foldl (· + ·) 0) ∧
      (let l := ([70000, 9, 3] : List Nat).map (· % 2 ^ 16) |>.set 0 1
       2 * 1 * l.length < l.foldl (· + ·) 0)) ∧
    (let m := (withM base (fun m => { m with now := 10000000 })).m
     m.ownPkg = 0 ∧ m.podLast + feCycles (2 ^ 20) ≤ m.now) ∧
    (withM base (fun m => { m with cards := [(6, { card0 with shipped := some (10, 3) })] })).m.cards.get? 6
      = some { card0 with shipped := some (10, 3) } := by decide +kernel
/-! ### Queues: one that the steward has created, its context identity mapped by one entry of its root table -/

def putAll (s : State) (l : List (Nat × Nat × Nat)) : State := l.foldl (fun s e => putN s e.1 e.2.1 e.2.2) s
/-- The front-end's tables, the queue's own block at 0x5000 and its memory, all lines held by the last-level cache. -/
def fe : State :=
  cached (putAll (withM base (fun m => (((m.setReg (stwReg 0x3100) 0x40000).setReg (hamReg 0 0x610) 0x10).setReg (hamReg 0 0x614) 0x90000000).setReg (pciReg 20) 0x100))
    [(0x10000, 8, 0xDF), (0x40000, 4, 0x10), (0x40004, 4, 0x90000000), (0x4001C, 4, 1),
     (0x5000, 8, 0x9000), (0x5008, 4, 5), (0x500C, 4, 6), (0x5010, 8, 0x6000)])
    [0x10000, 0x40000, 0x5000, 0x6000, 0x8080, 0xA000, 0xC000, 0xC080, 0xE000, 0xE080, 0xD000]
def shadow0 : Shadow := { tenant := 0, weight := 1, occ := 0, partmask := 1, muster := true, ctx := 0 }
def queue0 : Queue := { qcb := 0x5000, steward := shadow0, shadow := shadow0, base := 0x8000, l := 4, widx := 5, qsb := 0x6000, ridx := 2, cidx := 2, seq := 7 }
def withQ (s : State) (q : Queue) : State := withM s (fun m => { m with queues := [(3, q)] })
/-- A packet's 64 bytes: its opcode, and fields at their offsets. -/
def body (op : Nat) (l : List (Nat × Nat × Nat)) : List Byte :=
  l.foldl (fun b e => b.take e.1 ++ leBytes e.2.1 e.2.2 ++ b.drop (e.1 + e.2.1)) (leBytes 64 op)
def pk (op : Nat) (b : List Byte) : Packet := { idx := 1, seq := 7, op, body := b, tenant := 0, weight := 1, occ := 0, partmask := 1, ctx := 0 }
def launchBody : List Byte :=
  body 1 [(8, 8, 0x3000), (0x10, 8, 0xA000), (0x18, 8, 0xB000), (0x20, 2, 1), (0x22, 2, 1), (0x24, 2, 1), (0x26, 1, 1), (0x28, 4, 64), (0x34, 4, 0)]
def batchBody : List Byte := body 2 [(8, 8, 0xC000), (0x10, 8, 0xD000), (0x18, 4, 100), (0x1C, 1, 64), (0x1E, 2, 4)]
def waitBody : List Byte := body 3 [(8, 8, 0xC000), (0x10, 8, 5), (0x18, 1, 2)]
def signalBody : List Byte := body 4 [(8, 8, 0xC000), (0x10, 8, 5), (0x18, 1, 1)]
def copyBody : List Byte := body 6 [(8, 8, 0xC000), (0x10, 8, 0xE010), (0x18, 4, 200)]
def inQ (p : Packet) : Mach := (withQ fe { queue0 with packets := [p] }).m.clear
def markBody : List Byte := body 8 []
/-- The accesses of a doorbell and of a queue's resumption. -/
theorem meets_doorbells :
    let m := (withQ fe queue0).m.clear
    let h : Queue := { queue0 with halt := true, err := 3, packets := [{ pk 3 waitBody with halted := true, begun := true, polls := 4 }] }
    yes ((m.modQueue 3 (fun x => { x with rung := true })).feXlat fe.mem queue0.shadow.ctx queue0.qcb .load) (fun pa m0 => pa == 0x5000 &&
      yes (m0.feRead fe.mem queue0.shadow.ctx queue0.qcb 64 2) (fun b _ =>
        queue0.ridx ≠ queue0.widx && natAt b 8 4 == 5 && natAt b 0 8 == 0x9000)) = true ∧
    (queue0.halt = false ∧ ∀ p ∈ queue0.packets, p.halted = false) ∧
    yes (((withQ fe h).m.clear.modQueue 3 (fun x => { x with halt := false, packets := x.packets.map (fun p => { p with again := p.halted }) })).qsbWrite
      fe.mem 3) = true := by decide +kernel
/-- A packet that starts; one whose body fails its check. -/
theorem meets_packet_start :
    let s (b : List Byte) : State := withQ (putB fe 0x8080 b) queue0
    let m (b : List Byte) : Mach := (s b).m.clear.modQueue 3 (fun x => { x with shadow := x.steward, barred := false })
    let good := body 4 [(4, 4, 8), (8, 8, 0x7000), (0x10, 8, 55)]
    let bad := body 9 [(4, 4, 9), (8, 8, 0x7000), (0x10, 8, 55)]
    let at' := queue0.base + 64 * (queue0.ridx % 2 ^ queue0.l)
    (s good).m.clear.startDue 3 = true ∧ queue0.rung = false ∧ (∀ p ∈ queue0.packets, p.again = false) ∧ queue0.cidx = queue0.ridx ∧ queue0.halt = false ∧
    yes ((m good).feRead (s good).mem 0 at' 64 2) (fun b m1 => yes (m1.packetErr (s good).mem queue0.steward queue0.seq b) (fun e m2 =>
      e == 0 && yes ((m2.modQueue 3 (fun y => { y with ridx := 3 })).qsbWrite (s good).mem 3))) = true ∧
    yes ((m bad).feRead (s bad).mem 0 at' 64 2) (fun b m1 => yes (m1.packetErr (s bad).mem queue0.steward queue0.seq b) (fun e m2 =>
      e ≠ 0 && yes (m2.haltAt (s bad).mem 3 e queue0.ridx (natAt b 4 4)))) = true := by decide +kernel
theorem meets_launch_and_batch :
    let p := pk 1 launchBody
    let q := pk 2 batchBody
    let mem := (putB fe 0xC000 launchBody).mem
    ((inQ p).opening 3 1 = some p ∧ yes ((inQ p).feRead fe.mem 0 (natAt p.body 0x10 8) 128 3) = true) ∧
    ((inQ q).opening 3 2 = some q ∧ yes ((inQ q).feRead mem 0 (natAt q.body 8 8) 64 2) (fun b m1 =>
      yes (({ m1 with nextId := m1.nextId + 1 } : Mach).feRead mem 0 (natAt b 0x10 8) 128 3)) = true) := by decide +kernel
theorem meets_semaphores_and_copies :
    let w := pk 3 waitBody
    let w' : Packet := { w with begun := true, polls := 14 }
    let g := pk 4 signalBody
    let c : Packet := { pk 6 copyBody with next := 72 }
    let mem (v : Nat) : Memory := (putN fe 0xC000 8 v).mem
    ((inQ w).opening 3 3 = some w ∧ (inQ w').pollDue 3 = some w' ∧ natAt w.body 0x1C 4 ≠ w.polls + 1 ∧ natAt w'.body 0x1C 4 ≠ w'.polls + 1) ∧
    (∀ v ∈ [4, 7], yes ((inQ w).feRead (mem v) 0 (natAt w.body 8 8) 8 1) (fun b _ =>
      semHolds (natAt w.body 0x18 1 % 4) (leNat b) (natAt w.body 0x10 8) == decide (v = 7)) = true) ∧
    ((inQ g).opening 3 4 = some g ∧ yes ((inQ g).feRead fe.mem 0 (natAt g.body 8 8) 8 1) (fun _ m1 =>
      yes (m1.feWrite fe.mem 0 (natAt g.body 8 8) (leBytes 8 5) .amo 1)) = true) ∧
    ((inQ c).copyDue 3 = some c ∧ (inQ { c with next := 0 }).copyDue 3 = some { c with next := 0 } ∧ 200 ≤ c.next + min 128 (200 - c.next) ∧ 0 + min 128 (200 - 0) < 200 ∧
      yes ((inQ c).feRead fe.mem 0 (natAt c.body 8 8 + 0) 128 2) (fun b m1 => yes (m1.feWrite fe.mem 0 (natAt c.body 0x10 8 + 0) b .store 2)) = true) := by
  decide +kernel
theorem meets_marks_and_completion :
    let f := pk 7 (body 7 [(2, 1, 4)])
    let k := pk 8 markBody
    let m (l : List Packet) : Mach := (withM (withQ fe { queue0 with packets := l }) (fun m => { m with cqueue := [(3, 1), (4, 4)] })).m.clear
    (inQ f).opening 3 7 = some f ∧ (inQ f).sequencer = true ∧ (inQ k).opening 3 8 = some k ∧ yes ((inQ k).qsbPut fe.mem 3) = true ∧
    (m [k, { k with done := true, idx := 2 }]).completeDue 3 = true ∧ [k].takeWhile (fun p => p.done) = [] ∧
    (m [{ k with done := true }, { k with idx := 3 }]).completeDue 3 = true := by decide +kernel
/-- ENQ of a packet to no queue, to another tenant's queue, and to its own. -/
theorem meets_enq :
    let k (q : Nat) : Task := { task0 with enq := some (BitVec.ofNat 32 q, leBytes 64 1) }
    let s (q : Nat) (x : Queue) : State := withQ (tasked card0 (k q) fe) x
    let m (q : Nat) (x : Queue) : Mach := (s q x).m.clear
    let other : Queue := { queue0 with shadow := { shadow0 with tenant := 4 } }
    has (m 1023 queue0).enqDue (fun t => t == k 1023) = true ∧ (m 1023 queue0).queues.get? 1023 = none ∧ 1024 ≤ 1024 ∧
    (has (m 3 other).enqDue (fun t => t.id == 6) = true ∧ (k 3).tenant ≠ 4 ∧
      (m 3 other).filterOpen 0 3 1 = false) ∧
    (has (m 3 queue0).enqDue (fun t => t.id == 6) = true ∧ (k 3).tenant = queue0.shadow.tenant ∧
      yes (({ m 3 queue0 with tasks := [] } : Mach).placePacket fe.mem 3 (leBytes 64 1)) = true) := by decide +kernel
/-! ### Musters, watchdogs, saves -/

def musterBody : List Byte := body 5 [(2, 1, 2), (8, 8, 0xC000 + 2 ^ 48), (0x10, 8, 0xD000)]
def partBody (p : Nat) : List Byte := launchBody.take 0x34 ++ leBytes 4 p ++ launchBody.drop 0x38
/-- Two partitions, and the two parts of a MUSTER. -/
def parts2 : State := withM (putB (putB fe 0xD000 (partBody 0)) 0xC000 (partBody 1)) (fun m => m.setReg (stwReg 0x3004) 0x80000001)
def partLaunch (p : Nat) : Launch := { wordLaunch with queue := 3, part := p, placed := 0, heldStart := true, lanes := 64 }
def begun : Packet := { pk 5 musterBody with begun := true, parts := [(0, 0xD000), (1, 0xC000)], launches := [10, 11] }
/-- The same with the launches made. -/
def parts2L : State := withM parts2 (fun m => { m with launches := (m.launches.set 10 (partLaunch 0)).set 11 (partLaunch 1) })
def mus (s : State) (q : Queue) (f : Mach → Mach := id) : Mach := (withM (withQ s q) f).m.clear
theorem meets_muster :
    let p := pk 5 musterBody
    let m := mus parts2 { queue0 with packets := [p] }
    m.musterDue 3 = some p ∧ yes (m.addParts parts2.mem 3 p (musterParts p.body)) (fun ids m1 =>
      yes ((m1.modQueue 3 (fun x => { x with mustate := 1 })).qsbWrite parts2.mem 3) (fun _ m2 =>
        ids.all (fun id => !m2.neverFits (m2.launches.get default id)))) = true := by decide +kernel
/-- The last part here has no cluster to place, since where a cluster goes is a free value. -/
theorem meets_muster_grants :
    let q : Queue := { queue0 with mustate := 1, packets := [begun] }
    let first : Packet := { begun with parts := [(1, 0xC000), (0, 0xD000)], launches := [11, 10] }
    let m := mus parts2L { q with packets := [first] }
    let l := mus parts2L q (fun m => { m with reservations := [(0, 3)], launches := m.launches.set 11 { partLaunch 1 with gx := 0 } })
    let last (m : Mach) (n id : Nat) : Bool :=
      begun.parts.all (fun e => decide ((({ m.placeAll parts2L.mem id with reservations := m.reservations.set n 3 } : Mach).reservations.get? e.1) = some 3))
    (m.nextPart 3 = some (first, 1, 11) ∧ m.grantDue 3 = some 1 ∧ m.neverFits (m.launches.get default 11) = false ∧ last m 1 11 = false) ∧
    (l.nextPart 3 = some (begun, 1, 11) ∧ l.grantDue 3 = some 1 ∧ l.neverFits (l.launches.get default 11) = false ∧ last l 1 11 = true ∧
      yes ((({ l.placeAll parts2L.mem 11 with reservations := l.reservations.set 1 3 } : Mach).modQueue 3 (fun x => { x with mustate := 2 })).qsbWrite
        parts2L.mem 3) = true) := by decide +kernel
theorem meets_muster_tokens_and_retry :
    let t := mus parts2L { queue0 with mustate := 2, packets := [begun] } (fun m => { m with reservations := [(0, 3), (1, 3)], tokens := [⟨3, 0, 10, 500⟩, ⟨3, 1, 11, 500⟩] })
    let p : Packet := { begun with retry := some 499, fails := 3 }
    let r := mus parts2L { queue0 with packets := [p] }
    (t.tokenDue 3 0 = some ⟨3, 0, 10, 500⟩ ∧ t.launches.get? 10 = some (partLaunch 0) ∧ (partLaunch 0).heldStart = true) ∧
    (r.retryDue 3 = some p ∧ yes (((r.modPacket 3 p.idx (fun p => { p with retry := none })).modQueue 3 (fun x => { x with mustate := 1 })).qsbWrite parts2L.mem 3)
      (fun _ m2 => p.launches.all (fun id => !m2.neverFits (m2.launches.get default id))) = true) := by decide +kernel
theorem meets_watchdogs_and_saves :
    let k (now : Nat) : Mach := (withM base (fun m => { m with now, kicks := [(5, 400)] })).m.clear
    let pr : Preempt := { op := 1, ctx := 0, arena := 0x100000, pages := 77, since := 400, stage := 1, todo := [(0, 0)] }
    let s2 := (withM base (fun m => { m.setReg (hamReg 0 0x700) 0x00400000 with pre := some pr })).m.clear
    let rs : Preempt := { pr with op := 2, ctx := 6, todo := [] }
    let r := (withM base (fun m => { m with suspended := [6], pre := some { rs with stage := 1 } })).m.clear
    let fe (now : Nat) : Mach := (withM base (fun m => { m with now, kicks := [(5, 400)], cpus := [(645, { pc := 0x80, start := 0x40 })] })).m.clear
    (base.m.kicks.get? 6 = none ∧ (k (400 + feCycles (2 ^ 16))).kicks.get? 5 = some 400) ∧
    ((k 500).now < 400 + feCycles (2 ^ 16) ∧ (k 500).servedBy 5 = [] ∧ (fe 500).servedBy 5 = [] ∧ ((fe 500).cpus.get? (640 + 5)).isSome = true) ∧ 400 + feCycles (2 ^ 22) < (k 20000000).now ∧
    (base.m.pre = none ∧ base.m.residents 0 ≠ [] ∧ base.m.reservations = []) ∧ (base.m.residents (6 % 4096) = [] ∧ 6 % 4096 ∉ base.m.suspended) ∧
    (s2.pre = some pr ∧ s2.stage2Due = true ∧ s2.drainedOut pr = false ∧ s2.regionsDue pr = false ∧ s2.stopsDue pr = [(0, 0)] ∧
      ((s2.ham 0).ctxs.get? 0).isSome = true) ∧
    (withM base (fun m => { m with now := 100000000, pre := some { pr with stage := 2, stops := [(0, 500)] } })).m.clear.resetDue = true ∧
    (r.pre = some { rs with stage := 1 } ∧ rs.op = 2 ∧ rs.regions = [] ∧ rs.ctx = 6 % 4096 ∧ r.anyHot = false) := by decide +kernel

/-! ### The Reeve, registers and mailboxes -/

def parked (p : Park) : Warp :=
  { wordWarp with lanes := (List.range 32).map (fun l => (l, ({ st := if l < 8 then .parked p else if l < 25 then .held .fence else .parked .trap, pc := 0x3004 } : Lane))) }
def report (s : State) (r : Report) : Mach := (withM (withH s (fun h => { h with fqMeta := [(2, (r, false))] })) (fun m => m.setField (hamReg 0 0x630) 16 9 5)).m.clear
theorem meets_fault_queue_and_log :
    let e : LogEntry :=
      { id := 5, store := true, io := false, word := 0, pc := 0, mask := 0x101, todo := 1, reg := 3, size := 4, addrs := [(0, 0x3000)], data := [], issue := 400,
        fparts := 1, faulted := 0x101 }
    let f := report (withW base (fun _ => parked .fetch)) (.fetch 0 0xFF)
    let l := report (withW base (fun _ => { parked .logged with log := [e] })) (.log 0 5)
    (f.fqOpen 0 2 = true ∧ (f.ham 0).fqMeta.get? 2 = some (.fetch 0 0xFF, false)) ∧
    (l.fqOpen 0 2 = true ∧ (l.ham 0).fqMeta.get? 2 = some (.log 0 5, false) ∧ (l.warp 0 0).log = [e]) ∧
    f.fqOpen 0 255 = false ∧ (f.ham 0).fqWait = [] := by decide +kernel
theorem meets_reeve_commands :
    let m := (withW base (fun _ => parked .syscall)).m
    let x := m.warp 0 0
    let c := (withW base (fun _ => { parked .nonTrap with hmode := true, k := [(0, 0xFE0000FF)], saved := 0x1234 })).m.warp 0 0
    (((m.ham 0).warps.get? 0).isSome = true ∧ field (0x100 : Word) 0 6 = 0 ∧ x.hmode = false ∧ (m.reg (wctlReg 0 0)).getLsbD 1 = false ∧ x.log = []) ∧
    (x.ended = false ∧ 0x1FFC < 0x2000 ∧ 0x1FFC % 4 = 0 ∧ (x.lane (0x1FFC / 4 % 32)).st = .parked .trap ∧ (x.lane (32 / 4 % 32)).st = .held .fence) ∧
    (((withM base (fun m => m.setReg (wctlReg 0 0) 2)).m.reg (wctlReg 0 0)).getLsbD 1 = true ∧ x.resumes = [] ∧ x.withheld = []) ∧
    (c.hmode = true ∧ c.resumes = [] ∧ ∀ l < 32, (c.kr 0).getLsbD l = true → (match (c.lane l).st with | .ready => false | .held _ => false | _ => true) = true) := by
  decide +kernel
theorem meets_registers :
    (∀ n ∈ [lnkReg 4, pciReg 8, bootReg 0x100, ethReg 0 0], n < 2 ^ 48 ∧ n % 4 = 0) ∧
    regPlace (lnkReg 4) = .lnk 4 ∧ regPlace (pciReg 8) = .pci 8 ∧ regPlace (bootReg 0x100) = .boot 0x100 ∧ regPlace (ethReg 0 0) = .etx 0 := by decide +kernel
theorem meets_mailboxes :
    let y : Mail := { id := 7, src := 3, dst := 656, words := List.replicate 14 6, due := 500 }
    let m (f : Mach → Mach) : Mach := (withM base (fun m => f { m with mails := [y] })).m.clear
    let used (m : Mach) : Nat := (m.regField (mailBase 656 + 0x84C) 16 7 + 128 - m.regField (mailBase 656 + 0x84C) 0 7) % 128
    ((base.m.reg (mailBase 656 + 0x844)).getLsbD 0 = false ∧ 656 ≤ 656 ∧ 656 < 657) ∧ (m id).mails.find? (fun y => y.id = 7 && y.due ≤ (m id).now) = some y ∧
    (y.src = 3 ∧ (m id).mailBarred y = false ∧ (m id).mailBarred { y with dst := 4, tag := some 5 } = true ∧ (m id).reach ((m id).corePart 656) (64 * 63) true ≠ .held) ∧
    used (m (fun m => m.setReg (mailBase 656 + 0x84C) 0x003F0000)) < 64 ∧ 64 ≤ used (m (fun m => m.setReg (mailBase 656 + 0x84C) 0x00400000)) := by decide +kernel
theorem meets_partitions_and_carves :
    ((∀ k ∈ hamsOf 39, (base.m.ham k).ctxs = []) ∧ base.m.windowsOff 3 = true) ∧ (∃ k ∈ hamsOf 0, (base.m.ham k).ctxs ≠ []) ∧
    base.m.windowsOff (319 / 80) = true ∧ base.mem.wf = true ∧ commons.m.windowsOff 0 = false := by decide +kernel

/-! ### Power, host, links and media -/

theorem meets_power_and_heat :
    let m := base.m
    let low := (withM base (fun m => m.setReg (govReg 39) 0x0208181F)).m
    let hot := (withM base (fun m => { m.setReg (hbmReg 15 4) 0x6A01 with frozen := true, freezeEnd := some 500 })).m
    m.govDue 39 = true ∧ m.powerDue = false ∧ (withM base (fun m => { m with now := 1500000 })).m.powerDue = true ∧
    (∀ p < 40, m.regField (govReg p) 0 5 ≤ field (m.reg (govStat p)) 8 5 ∧ field (m.reg (govStat p)) 8 5 ≤ m.regField (govReg p) 8 5) ∧
    (3600 < 3601 % 4096 ∧ m.regField (netReg 0 0x90) 0 12 = 3600 ∧ m.regField (govReg 39) 0 5 < field (m.reg (govStat 39)) 8 5 ∧
      field (low.reg (govStat 39)) 8 5 ≤ low.regField (govReg 39) 0 5 ∧ 100 * (1000 % 4096) < 95 * 3600 ∧ m.throttle = false) ∧
    (field (m.reg (hbmReg 15 0)) 0 8 ≤ 0x69 % 256 ∧ 0x5E % 256 < field (m.reg (hbmReg 15 0)) 0 8 ∧ 0x5E % 256 < field (m.reg (hbmReg 15 0)) 8 8) ∧
    (hot.frozen = true ∧ (hot.reg (hbmReg 15 4)).getLsbD 0 = true ∧ hot.freezeEnd = some 500 ∧ 500 ≤ hot.now ∧
      ∀ i < 15, (hot.reg (hbmReg i 4)).getLsbD 0 = false) ∧ (m.flashA = [] ∧ m.flashB = [] ∧ m.memDead = false ∧ m.flashDead = false) := by decide +kernel
theorem meets_functions_and_links :
    let fn (f : Func) : Mach := (withM (withQ base { queue0 with }) (fun m => { m.setReg (pciReg 12) 0x100 with funcs := [(3, f)] })).m.clear
    let good : Func := { drv := [4, 0, 0, 0], lasth := 0xFFFFFFFF }
    let ring : Func := { evbase := 0x1000, evcfg := 4, nextd := 17, evhead := 9, events := [(1, 5, 6), (2, 3, 3)] }
    let ports := (withM base (fun m => { (m.setReg (lnkReg 0x100) 0x80008703).setReg (lnkReg 4) 0x88 with ports := [(3, { up := true, replay := [(1, flitBytes 0 2 [1])] }), (7, { up := true })] })).m.clear
    (good.refused = false ∧ (good.drv.getD 0 0) &&& ~~~(fn good).offer = 0 ∧ (good.drv.getD 0 0).getLsbD 2 = true) ∧
    ((0x0000000300000000 : BitVec 64).toNat / 2 ^ 32 % 2 ^ 10 = 3 ∧ (0x0000000300000000 : BitVec 64).extractLsb' 0 32 = good.lasth + 1 ∧
      has ((fn good).queues.get? 3) (fun x => ((fn good).funcsOf x.steward.tenant).contains 3) = true ∧ (0x0000000300000000 : BitVec 64).toNat / 2 ^ 42 = 0) ∧
    (ring.events = (1, 5, 6) :: [(2, 3, 3)] ∧ (fn ring).eventDue 3 = true) ∧
    ports.regField (lnkReg 4) 0 18 = 0x88 := by decide +kernel
/-- A flit of each channel that a port accepts, and one out of its turn; a port that goes down with an alternate route and without one; the
check value of CRC-64/ECMA-182. -/
theorem meets_flits :
    let s (reg : Word) : State := withM base (fun m => { (m.setReg (lnkReg 0x104) reg) with
      ports := [(3, { up := true, rxSeq := 4095, replay := [(1, flitBytes 0 2 [1])] }), (7, { up := true, txSeq := 4095 })] })
    let good (b : List Byte) : Bool :=
      ((s 0).m.port 3).up && b.length == 256 && b.drop 248 == crc64 (b.take 248) && (flitHead b).1 == ((s 0).m.port 3).rxSeq && (flitHead b).2 ≠ 3
    let down (reg : Word) : Option Nat := ((s reg).m.clear.modPort 3 (fun x => { x with up := false })).portTo 1
    (good (flitBytes 4095 0 [9]) = true ∧ good (flitBytes 4095 1 [9]) = true ∧ good (flitBytes 4095 2 [9]) = true ∧ good (flitBytes 5 2 [9]) = false ∧
      (flitHead (flitBytes 4095 1 [9])).2 = 1 ∧ (flitHead (flitBytes 4095 2 [9])).2 = 2 ∧ ((s 0).m.port 3).todo = []) ∧
    (down 0x80008703 = some 7 ∧ down 0x80000003 = none ∧ ((s 0).m.port 7).txSeq < 4096 ∧ ((s 0).m.port 3).replay ≠ []) ∧
    crc64 [0x31, 0x32, 0x33, 0x34, 0x35, 0x36, 0x37, 0x38, 0x39] = [0x6C, 0x40, 0xDF, 0x5F, 0x0B, 0x49, 0x73, 0x47] := by decide +kernel
/-- A frame of 64 bytes to all, and a ring of two descriptors of 40 bytes; one that holds it and one that does not. -/
theorem meets_frames :
    let frame : List Byte := List.replicate 64 0xFF
    let r (dir two : Nat) : State :=
      cached (putAll (withM base (fun m => ((((m.setReg (ethReg 3 8) 5).setReg (ethReg 3 0xC) 1).setReg (ringReg 3 dir 0 0) 0x8000).setReg (ringReg 3 dir 0 8) 4).setReg
        (ringReg 3 dir 0 0xC) 8)) [(0x8000, 8, 0xC000), (0x8008, 4, 40), (0x800C, 4, 1), (0x8020, 8, 0xC040), (0x8028, 4, 40), (0x802C, 4, two)]) [0x8000, 0xC000]
    let free (s : State) : Mach := { s.m.clear with stuck := false }
    let got (s : State) : Option (List ((Nat × List Byte) × List Byte)) :=
      spread ((free s).owned s.mem 3 0 0 0 (min (s.m.clear.ringSize 3 0 0) 65)).1 frame
    let hot (s : State) : State := withM s (fun m => { m with refresh := [stackOf 0xC000], llc := [] })
    let pause : List Byte := base.m.pauseFrame 3
    (macControl frame = false ∧ base.m.timers = [] ∧ ((free (r 0 1)).ethTake (r 0 1).mem 3 frame).stuck = false ∧
      ((free (r 0 0)).ethTake (r 0 0).mem 3 frame).stuck = false ∧ ((free (hot (r 0 1))).ethTake (r 0 1).mem 3 frame).stuck = true ∧
      macControl pause = true ∧ beNat ((pause.drop 14).take 2) = 1) ∧
    (((r 0 1).m.reg (ethReg 3 8)).getLsbD 0 = true ∧ (r 0 1).m.accepts 3 frame = true ∧ ((r 0 1).m.steer 3 frame).1 = 0 ∧
      (got (r 0 1)).isSome = true) ∧ (got (r 0 0)).isSome = false ∧ base.m.accepts 3 frame = false ∧
    has ((r 1 3).m.clear.txFrame (r 1 3).mem 3 0) (fun ds =>
      let read := ds.foldl (fun (a : List (Option (List Byte)) × Mach) d =>
        let (b, m) := a.2.devGet (r 1 3).mem (natAt d.2 0 8) (natAt d.2 8 4)
        (a.1 ++ [b], m)) ([], free (r 1 3))
      let frame := read.1.flatMap (fun b => b.getD [])
      !read.2.stuck && read.1.all (fun b => b.isSome) && framePrio frame = 0 && read.2.ethPause.get 0 24 ≤ 500 &&
      ({ read.2 with ethPause := [(24, 501)] } : Mach).ethPause.get 0 (8 * 3 + framePrio frame) > 500 &&
      !((List.range ds.length).foldl (fun (m : Mach) i =>
        let d := ds.getD i (0, [])
        m.finishDesc (r 1 3).mem d.1 d.2 (natAt d.2 8 4) 0 0 (i = ds.length - 1)) (read.2.freeBelow 1).2).stuck) = true := by decide +kernel
theorem meets_nvme :
    let p : NvmeSq := { base := 0x8000, size := 8, cq := 2, tail := 2 }
    let q : NvmeCq := { base := 0x9000, size := 4, tail := 3, head := 2 }
    let on : State := cached (putAll (withM base (fun m => { m with nvme := { cc := 1, rdy := true, sqs := [(1, p)], cqs := [(2, q)] } })) [(0x8000, 4, 0x770000), (0x8004, 4, 1)]) [0x8000, 0x9000]
    let m0 : Mach := { on.m.clear with stuck := false }
    (on.m.nvme.sqs.get? 1 = some p ∧ on.m.nvme.cqs.get? 2 = some q ∧ (3 : Word).toNat < q.size ∧ (7 : Word).toNat < p.size ∧ p.size ≤ (8 : Word).toNat ∧
      q.size ≤ (4 : Word).toNat) ∧
    (base.m.nvme.cc.getLsbD 0 = false ∧ on.m.nvme.cc.getLsbD 0 = true) ∧
    (field (0x4001 : Word) 14 2 ≠ 0 ∧ field on.m.nvme.cc 14 2 = 0 ∧ on.m.nvme.shst = 0 ∧ (0x4001 : Word).getLsbD 0 = on.m.nvme.cc.getLsbD 0) ∧ ({ cc := 1 } : Nvme).rdy = false ∧
    (on.m.clear.nvmeReadyFor 1 = true ∧ (match m0.devGet on.mem (p.base + 64 * p.head) 64 with
      | (some c, m1) => natAt c 0 1 == 0 && decide (natAt c 1 1 < 64) && natAt c 4 4 == 1 && !(m1.devPut on.mem (q.base + 16 * q.tail) (leBytes 16 1)).2.stuck
      | _ => false) = true) := by decide +kernel

/-! ### The control cores -/

/-- An exception from U mode, delegated and not; a CSR word in M mode and in S mode; SC without a reservation; a core that has an interrupt to
take, one that runs a word of memory, and one that fetches where nothing may be fetched. -/
theorem meets_control_cores :
    let cpu (x : Cpu) : State := cached (putN (withM base (fun m => { m with cpus := [(5, x)] })) 0x3000 4 (encI 0x13 0 5 0 7)) [0x3000]
    let u : Cpu := { mode := 0, csr := [(0x302, 0x100)] }
    let run (s : State) : Mach := (s.m.clear.someTime (s.m.now + 1)).2.modCpu 5 (fun x => { x with due := 600, idle := false })
    (u.mode ≤ 1 ∧ (u.csrOf 0x302).testBit 8 = true ∧ ({ u with mode := 3 } : Cpu).mode = 3 ∧ (u.csrOf 0x302).testBit 2 = false) ∧
    (match (cpu {}).m.cpuAddr (cpu {}).mem 5 0x3000 8 .store with | .ok pa m1 => (m1.cpu 5).resv ≠ some (m1.resvOf 5 pa) | _ => false) = true ∧
    (let s := cpu { mode := 1, csr := [(0x303, 2), (0x304, 2), (0x344, 2), (0x300, 2)] }
     (run s).interrupt 5 = some 1) ∧
    (let s := cpu { pc := 0x3000 }
     (run s).interrupt 5 = none ∧ (match rvStep s.mem (run s) 5 with | .ok pc _ => pc == 0x3004 | _ => false) = true) ∧
    (let s := cpu { pc := BitVec.ofNat 64 (2 ^ 63) }
     (run s).interrupt 5 = none ∧ (match rvStep s.mem (run s) 5 with | .trap .. => true | _ => false) = true) := by decide +kernel

/-! ### The whole machine -/

theorem meets_encoding_and_the_machine :
    (Instr.nop ⟨0, 7⟩).wf = true ∧ encodeNat (.nop ⟨0, 7⟩) = some 0x70000000 ∧ decodesTo 0x70000000 (.nop ⟨0, 7⟩) = true ∧ State.reset.wf = true ∧
    ((0, 1) : Nat × Nat) ≠ (base.m.cur.ham, base.m.cur.warp) := by decide +kernel
/-- The next move: the boot at reset; a group of one word, not withheld; a timed move; an outside one. -/
theorem meets_steps :
    let s := State.reset.withFetchWord 32 0x05051234
    (match nextMove State.reset with | .event .packageReset => true | _ => false) = true ∧
    (match nextMove s with
      | .issue r => r.1.words.map (·.2) == [0x05051234] && (withholdOf ((s.m.take r).warp r.1.ham r.1.warp).fpmode r.1.words).isNone &&
        (let m := ((s.m.take r).enter r.1).cw
         (m.parityFail r.1.bundle (instrOf 0x05051234)).isNone &&
         ({ m with parity := [(5, (0x80000000 : Word))] }.parityFail 0xFFFFFFFF (.iadd ⟨0, 0⟩ 1 5 3 0)).isSome)
      | _ => false) = true := by
  decide +kernel
theorem meets_timed_and_outside :
    let t : State := withM (State.reset.withFetchWord 32 0x05051234) (fun m => { m with timers := [(0, .nvmeReady)] })
    let o : State := withM (State.reset.withFetchWord 32 0x05051234) (fun m => { m with agenda := [(0, .loadToken 5 ⟨[], []⟩)] })
    (match nextMove t with | .timed 0 .nvmeReady => true | _ => false) = true ∧
    (match nextMove o with | .outside 0 (.loadToken 5 ⟨[], []⟩) => true | _ => false) = true ∧ isOutside (.loadToken 5 ⟨[], []⟩) = true := by decide +kernel

end Sys2Proof.Tests
end

section
/-! SUPPORT. What the shared operations of an instruction word do to the issue context `cur`: all of them leave it as it is, but for those
that end the group. -/
namespace Sys2Proof.Machine

/-- A fold whose every step keeps a projection of the state keeps it. -/
theorem foldl_keeps {σ α β : Type} (p : σ → β) (f : σ → α → σ) (k : ∀ s a, p (f s a) = p s) (l : List α) (s : σ) :
    p (l.foldl f s) = p s := by
  induction l generalizing s with
  | nil => rfl
  | cons a r ih => rw [List.foldl_cons, ih, k]

theorem Mach.foldl_cur {α : Type} (f : Mach → α → Mach) (k : ∀ m a, (f m a).cur = m.cur) (l : List α) (m : Mach) :
    (l.foldl f m).cur = m.cur := foldl_keeps (·.cur) f k l m

/-! ## Registers, bytes, free values, outstanding writes -/

@[simp] theorem Mach.stN_cur (m : Mach) (a : Nat) (l : List Byte) : (m.stN a l).cur = m.cur :=
  Mach.stN_keeps (·.cur) (fun _ _ _ => rfl) l m a
@[simp] theorem Mach.store_cur (m : Mach) (a : Nat) (l : List Byte) : (m.store a l).cur = m.cur := Mach.stN_cur m a l
@[simp] theorem Mach.seen_cur (m : Mach) (a n : Nat) : (m.seen a n).cur = m.cur := rfl
@[simp] theorem Mach.rmwAt_cur (mem : Memory) (m : Mach) (op key : Nat) (b b1 : Word) : (m.rmwAt mem op key b b1).2.cur = m.cur :=
  Mach.store_cur ..
@[simp] theorem Mach.freeBelow_cur (m : Mach) (n : Nat) : (m.freeBelow n).2.cur = m.cur := by
  unfold Mach.freeBelow; split <;> rfl
@[simp] theorem Mach.varPend_cur (m : Mach) (file : RFile) (regs : List Nat) (mask : Word) (vals : SMap Word) (land : Option Nat) :
    (m.varPend file regs mask vals land).2.cur = m.cur := rfl
@[simp] theorem Mach.readPend_cur (m : Mach) (regs : List Nat) (mask : Word) (vals : SMap Word) (land : Option Nat) (least : Nat) :
    (m.readPend regs mask vals land least).2.cur = m.cur := rfl
@[simp] theorem Mach.resolveLane_cur (m : Mach) (h w id l : Nat) (vals : SMap Word) (t : Nat) :
    (m.resolveLane h w id l vals t).cur = m.cur := rfl

/-! ## Warps and units: quads, exits, the baton, scoreboards, chunks of a job -/

@[simp] theorem Mach.quadComplete_cur (m : Mach) (pc : Word) : (m.quadComplete pc).cur = m.cur := by
  unfold Mach.quadComplete
  refine Mach.foldl_cur _ (fun m q => ?_) _ m
  dsimp only
  split
  · rfl
  · split <;> rfl
@[simp] theorem Mach.quadExit_cur (m : Mach) : m.quadExit.cur = m.cur :=
  Mach.foldl_cur _ (fun m _ => m.quadComplete_cur _) _ m
@[simp] theorem Mach.passBaton_cur (m : Mach) (h : Nat) : (m.passBaton h).cur = m.cur := by
  unfold Mach.passBaton; dsimp only; split <;> rfl
@[simp] theorem Mach.endWarp_cur (m : Mach) (h w : Nat) : (m.endWarp h w).cur = m.cur := by
  unfold Mach.endWarp; dsimp only; split <;> simp
@[simp] theorem Mach.sbTake_cur (m : Mach) (h id block : Nat) (rd wr : Option Itv) : (m.sbTake h id block rd wr).cur = m.cur := by
  unfold Mach.sbTake; split <;> rfl
@[simp] theorem Mach.harvest_cur (m : Mach) : m.harvest.cur = m.cur := by
  refine Mach.foldl_cur _ (fun m e => ?_) _ m
  unfold Mach.finish; dsimp only; split <;> rfl
@[simp] theorem Mach.endChunks_cur (m : Mach) (card h n : Nat) (p : Chunk → Bool) : (m.endChunks card h n p).cur = m.cur := by
  unfold Mach.endChunks; split <;> rfl

/-! ## The first level, the store path, and requests on the network -/

@[simp] theorem Mach.l1Use_cur (m : Mach) (h : Nat) (x : L1Line) : (m.l1Use h x).cur = m.cur := rfl
@[simp] theorem Mach.invalidateLine_cur (m : Mach) (h die line : Nat) : (m.invalidateLine h die line).cur = m.cur := rfl
@[simp] theorem Mach.spans_cur (m : Mach) (p : Nat) (r : List Leg) : (m.spans p r).2.cur = m.cur := by
  refine foldl_keeps (fun a : Nat × List Span × Mach => a.2.2.cur) _ (fun a g => ?_) r (p, [], m)
  obtain ⟨cur, l, m⟩ := a
  cases g with
  | hop p => dsimp only; split <;> simp
  | bridge p => exact m.freeBelow_cur 2
@[simp] theorem Mach.setOut_cur (m : Mach) (p c : Nat) (r : List Leg) : (m.setOut p c r).2.cur = m.cur :=
  (Mach.spans_cur _ _ _).trans (m.freeBelow_cur _)
@[simp] theorem Mach.sendHome_cur (m : Mach) (r : Req) : (m.sendHome r).cur = m.cur := Mach.setOut_cur _ _ 10 _
@[simp] theorem Mach.sendLoad_cur (m : Mach) (r : Req) : (m.sendLoad r).cur = m.cur := by
  unfold Mach.sendLoad; dsimp only
  split
  · simp
  · split
    · simp
    · exact Mach.setOut_cur ..
@[simp] theorem Mach.sendShared_cur (m : Mach) (r : Req) (act : Word) (addr : Nat → Word) (data : Nat → List Byte) :
    (m.sendShared r act addr data).cur = m.cur := by
  refine Mach.foldl_cur _ (fun m' k => ?_) _ m
  dsimp only
  split
  · rfl
  · exact Mach.setOut_cur ..
@[simp] theorem Mach.l1Write_cur (m : Mach) (h die x : Nat) (b : List Byte) : (m.l1Write h die x b).cur = m.cur := by
  unfold Mach.l1Write; dsimp only; split <;> simp
@[simp] theorem Mach.enterPath_cur (m : Mach) (q : Nat) (r : Req) (l : List (Nat × Nat × List Byte)) : (m.enterPath q r l).cur = m.cur :=
  (Mach.foldl_cur _ (fun m' _ => (m'.fresh.2).sendHome_cur _) _ _).trans
    (Mach.foldl_cur _ (fun m' e => m'.l1Write_cur r.ham r.die e.2.1 e.2.2) l m)
@[simp] theorem Mach.sendAtom_cur (mem : Memory) (m : Mach) (h w : Nat) (j : AtomJob) (so die reg ctx : Nat) :
    (m.sendAtom mem h w j so die reg ctx).cur = m.cur := by
  refine (Mach.foldl_cur _ (fun m' _ => ?_) _ _).trans (Mach.foldl_cur _ (fun m' e => ?_) _ m)
  · simp
  · dsimp only
    split <;> simp

/-! ## Barriers -/

@[simp] theorem Mach.modBar_cur (m : Mach) (h n b : Nat) (f : Bar → Bar) : (m.modBar h n b f).cur = m.cur := rfl
@[simp] theorem Mach.modBarOf_cur (m : Mach) (h n : Nat) (host : Bool) (b : Nat) (f : Bar → Bar) :
    (m.modBarOf h n host b f).cur = m.cur := by
  unfold Mach.modBarOf; split <;> rfl
@[simp] theorem Mach.barTrip_cur (m : Mach) (x : Msg) : (m.barTrip x).2.cur = m.cur := by
  unfold Mach.barTrip
  split
  · rfl
  · exact Mach.setOut_cur _ _ 4 _
@[simp] theorem Mach.sendBar_cur (m : Mach) (x : Msg) : (m.sendBar x).cur = m.cur := by
  unfold Mach.sendBar; dsimp only
  split
  · rfl
  · exact Mach.barTrip_cur ..
@[simp] theorem Mach.flipped_cur (m : Mach) (h n b : Nat) : (m.flipped h n b).cur = m.cur := by
  unfold Mach.flipped; dsimp only
  have e := Mach.foldl_cur (fun m w => m.modWarp h w (fun x => x.release (x.onBar b) (m.now + 4))) (fun _ _ => rfl) (m.warpsOf h n) m
  split
  · exact e
  · exact e
@[simp] theorem Mach.flipTo_cur (m : Mach) (h n b : Nat) (ph : Bool) : (m.flipTo h n b ph).cur = m.cur := by
  unfold Mach.flipTo; split <;> simp
@[simp] theorem Mach.arrive_cur (m : Mach) (h n : Nat) (host : Bool) (b k : Nat) : (m.arrive h n host b k).cur = m.cur := by
  unfold Mach.arrive; dsimp only
  split
  · split
    · refine (Mach.foldl_cur _ (fun m' p => ?_) _ _).trans (by simp)
      split <;> simp
    · simp
  · simp
@[simp] theorem Mach.barDo_cur (m : Mach) (h n : Nat) (host : Bool) (b : Nat) (i : BarItem) : (m.barDo h n host b i).cur = m.cur := by
  cases i with
  | binit e cl =>
    simp only [Mach.barDo]
    split
    · rfl
    · split <;> simp
  | _ => simp [Mach.barDo]
@[simp] theorem Mach.binitOwn_cur (m : Mach) (h n b e : Nat) (cl : Bool) : (m.binitOwn h n b e cl).cur = m.cur := rfl
@[simp] theorem Mach.askHost_cur (m : Mach) (b : Nat) (i : BarItem) (act : Word) (p : Nat) : (m.askHost b i act p).cur = m.cur :=
  Mach.sendBar_cur ..

/-! ## What ends the group -/

@[simp] theorem Mach.trapWord_stop (m : Mach) (g c : Nat) (d1 d2 : Word) : (m.trapWord g c d1 d2).cur.stop = true := rfl
@[simp] theorem Mach.trapMem_stop (m : Mach) (c : Nat) (k : Word) (addr : Nat → Word) (sp : Nat → Nat) (wr : Bool) :
    (m.trapMem c k addr sp wr).cur.stop = true := rfl
@[simp] theorem Mach.trapData_stop (m : Mach) (k : Word) (addr : Nat → Word) (sp : Nat → Nat) (wr : Bool) :
    (m.trapData k addr sp wr).cur.stop = true := rfl
@[simp] theorem Mach.holdGroup_stop (m : Mach) (act : Word) (why : Hold) (kind scope : Nat) (a : Option AtomJob) :
    (m.holdGroup act why kind scope a).cur.stop = true := rfl
end Sys2Proof.Machine
end

section
/-! SUPPORT. What each instruction word does to the issue context: it leaves it as it is, or it ends its group. -/
namespace Sys2Proof.Machine
open Sys2Proof

/-- The issue context is as it was, or the group has ended. -/
def Mach.CurKept (m m' : Mach) : Prop := m'.cur = m.cur ∨ m'.cur.stop = true
/-- A meaning that leaves the issue context as it is, unless it ends the group. -/
def Act.KeepsCur (f : Act) : Prop := ∀ (mem : Memory) (m : Mach), m.CurKept (f mem m)

namespace Mach.CurKept
theorem kept {m m' : Mach} (e : m'.cur = m.cur) : m.CurKept m' := .inl e
theorem ended {m m' : Mach} (e : m'.cur.stop = true) : m.CurKept m' := .inr e
theorem ite {m a b : Mach} {p : Prop} [Decidable p] (ha : m.CurKept a) (hb : m.CurKept b) : m.CurKept (if p then a else b) := by
  split <;> assumption
theorem takeEntry {m m' : Mach} (e : m'.cur = m.cur) (f : Nat → Nat → LogEntry) : m.CurKept (m'.takeEntry f) := by
  unfold Mach.takeEntry
  split
  · exact ended rfl
  · exact kept e
theorem flagged (m : Mach) (q : BitVec 1) (lat : Nat) (mask : Word) (fl : Nat → Nat) (w : Mach → Mach) (k : (w m).cur = m.cur) :
    m.CurKept (m.flagged q lat mask fl w) := ite (kept k) (ite (kept k) (ended rfl))
end Mach.CurKept
open Mach.CurKept

theorem fpV_keepsCur {d : BitVec 6} {q : BitVec 1} {g lat : Nat} {f : Mach → Nat → Nat × Nat} : (fpV d q g lat f).KeepsCur :=
  fun _ m => flagged m q lat _ _ _ rfl
theorem fpV2_keepsCur {d : BitVec 6} {q : BitVec 1} {g lat : Nat} {f : Mach → Nat → Nat × Nat} : (fpV2 d q g lat f).KeepsCur :=
  fun _ m => flagged m q lat _ _ _ rfl
theorem fpCmp_keepsCur {F : Fmt} {lat : Nat} {k c : BitVec 4} {n : BitVec 1} {x y : Mach → Nat → Nat} : (fpCmp F lat k c n x y).KeepsCur :=
  fun _ m => flagged m 0 lat _ _ _ rfl
theorem cvtWord_keepsCur {f : Nat} {d a : BitVec 6} {q : BitVec 1} {g : BitVec 2} {mode : Mach → Rnd} :
    (cvtWord f d a q g mode).KeepsCur := by
  unfold cvtWord
  dsimp only
  split
  · exact fpV2_keepsCur
  · exact fpV_keepsCur
theorem quadWord_keepsCur {f : Nat} {d a : BitVec 6} {g : BitVec 2} :
    (quadWord f d a g).KeepsCur := fun _ _ => kept (Mach.quadComplete_cur ..)
theorem branchTo_keepsCur {a : BitVec 6} {g : BitVec 3} : (branchTo a g).KeepsCur := by
  intro mem m
  unfold branchTo
  dsimp only
  split
  · exact ended rfl
  · exact kept rfl

/-! ## Memory, the operand log and atomics -/

theorem loadCommons_keepsCur {x : Bool} {t a : BitVec 6} {o : BitVec 4} {z : BitVec 3} {h : BitVec 2} :
    (loadCommons x t a o z h).KeepsCur := by
  intro mem m
  unfold loadCommons
  dsimp only
  split
  · exact ended rfl
  · refine ite (kept rfl) (ite (ended rfl) (kept ((Mach.foldl_cur _ ?_ _ _).trans ((Mach.foldl_cur _ ?_ _ _).trans rfl))))
    · intro m' line; exact Mach.sendLoad_cur ..
    · intro m' l; split <;> rfl
theorem storeCommons_keepsCur {x : Bool} {t a : BitVec 6} {o : BitVec 4} {z : BitVec 3} {h : BitVec 2} :
    (storeCommons x t a o z h).KeepsCur := by
  intro mem m
  unfold storeCommons
  dsimp only
  split
  · exact ended rfl
  · refine ite (ended rfl) (kept ((Mach.foldl_cur _ ?_ _ _).trans ((Mach.foldl_cur _ ?_ _ _).trans rfl)))
    · intro m' die; exact Mach.enterPath_cur ..
    · intro m' line; rfl
theorem spillWord_keepsCur {store : Bool} {t a : BitVec 6} {o : BitVec 4} {z : BitVec 3} {h : BitVec 2} :
    (spillWord store t a o z h).KeepsCur := by
  intro mem m
  refine ite (ended rfl) (ite (ended rfl) (ite (kept rfl) (takeEntry ?_ _)))
  refine (foldl_keeps (fun a : List Nat × Mach => a.2.cur) _ ?_ _ _).trans rfl
  intro a i; dsimp only; split <;> rfl
theorem ioWord_keepsCur {store : Bool} {t a : BitVec 6} {o : BitVec 4} {z : BitVec 3} : (ioWord store t a o z).KeepsCur := by
  intro mem m
  unfold ioWord
  dsimp only
  split
  · exact ended rfl
  · exact ended rfl
  · refine ite (ended rfl) (ite (kept rfl) (takeEntry ?_ _))
    split <;> rfl
theorem atomWord_keepsCur {op : Nat} {t a b : BitVec 6} {so : BitVec 3} : (atomWord op t a b so).KeepsCur := by
  intro mem m
  unfold atomWord
  extract_lets act h w bl addr b1 ops
  refine ite (kept rfl) (ite ?_ ?_)
  · extract_lets
    split
    · exact ended (Mach.trapMem_stop ..)
    · refine ite (ended (Mach.trapWord_stop ..)) (ite (ended (Mach.trapData_stop ..)) (kept ?_))
      have e : (m.readPend [t.toNat] act [] none).2.cur = m.cur := rfl
      generalize m.readPend [t.toNat] act [] none = p at e ⊢
      obtain ⟨id, m₁⟩ := p
      refine (Mach.sendShared_cur ..).trans ((Mach.foldl_cur _ (fun m' l => ?_) _ _).trans e)
      split
      next old m₂ e₂ => exact (congrArg (fun p => p.2.cur) e₂).symm.trans (Mach.rmwAt_cur ..)
  · extract_lets
    split
    · exact ended (Mach.trapMem_stop ..)
    · refine ite (ended (Mach.trapWord_stop ..)) (ite (ended (Mach.trapData_stop ..)) ?_)
      have e : (m.readPend [t.toNat] act [] none).2.cur = m.cur := rfl
      generalize m.readPend [t.toNat] act [] none = p at e ⊢
      obtain ⟨id, m₁⟩ := p
      dsimp -zeta only
      extract_lets j m₂
      have e₂ : m₂.cur = m.cur := by
        refine Eq.trans ?_ e
        unfold m₂
        split
        · exact Mach.sendAtom_cur ..
        · exact Mach.foldl_cur _ (fun _ _ => Mach.invalidateLine_cur ..) _ _
      exact ite (kept e₂) (ended (Mach.holdGroup_stop ..))

/-! ## Barriers, channels and engines -/

theorem barChange_keepsCur {b : BitVec 4} {g : BitVec 3} {item : Mach → BarItem} : (barChange b g item).KeepsCur :=
  fun _ _ => ite (kept rfl) (ite (kept (Mach.askHost_cur ..)) (ite (kept (Mach.barDo_cur ..)) (ended rfl)))
theorem copyWord_keepsCur {fn : Nat} {h : BitVec 2} {s : BitVec 8} {n : BitVec 4} {p : BitVec 2} {z : BitVec 1} :
    (copyWord fn h s n p z).KeepsCur := by
  intro mem m
  refine ite (kept rfl) (ite (ended rfl) ?_)
  split
  · exact ended rfl
  · exact kept (Mach.sbTake_cur ..)
theorem Mach.readBlock_curKept (mem : Memory) (m : Mach) (engine lane : Nat) (d : Word) (f : Nat → LayRead) :
    m.CurKept (m.readBlock mem engine lane d f) := by
  refine ite (ended rfl) (ite ?_ ?_)
  · split
    · exact ended rfl
    · exact ite (ended rfl) (ite (ended rfl) (kept rfl))
  · split
    · exact ended rfl
    · refine ite (ended rfl) ?_
      dsimp only
      split
      · exact ite (ended rfl) (kept rfl)
      · exact kept rfl
      · exact kept (Mach.sendLoad_cur ..)
theorem mmWord_keepsCur {fn : Nat} {h : BitVec 2} {s : BitVec 8} {n : BitVec 4} {z : BitVec 1} : (mmWord fn h s n z).KeepsCur := by
  intro mem m
  unfold mmWord
  dsimp only
  split
  · exact kept rfl
  · refine ite (ended rfl) (ite (ended rfl) (ite (ended rfl) (ite (ended rfl) (kept ?_))))
    refine (Mach.sbTake_cur ..).trans ((Mach.sbTake_cur ..).trans ?_)
    split <;> rfl
end Sys2Proof.Machine
end

section
/-! SUPPORT. The words whose meaning is written out in their `exec`: each leaves the issue context as it is, or ends its group. -/
namespace Sys2Proof.Machine
open Sys2Proof
open Mach.CurKept

/-- An answer of the model leaves the issue context as it was, or the group has ended. -/
def KeepsCurAt (s : State) (o : Host.Outcome State Fault Refusal) : Prop := ∀ t, o = .next t → s.m.CurKept t.m

theorem lift_keepsCur {f : Act} (k : f.KeepsCur) (s : State) : KeepsCurAt s (lift f s) := by
  intro t h
  rw [lift_eq] at h
  injection h with h
  subst h
  exact k s.mem s.m.clear

/-! ## Masks and the synchronisation words -/

theorem execJoin_keepsCur {hd : Hdr} {k : BitVec 4} {g : BitVec 3} {s : State} : KeepsCurAt s (execJoin hd k g s) := by
  refine lift_keepsCur (fun _ m => ?_) s
  exact ite (kept rfl) (kept rfl)
theorem execLeave_keepsCur {hd : Hdr} {k : BitVec 4} {g : BitVec 3} {s : State} : KeepsCurAt s (execLeave hd k g s) := by
  refine lift_keepsCur (fun _ m => ?_) s
  refine kept ?_
  dsimp only
  split <;> rfl
theorem execWaitk_keepsCur {hd : Hdr} {k : BitVec 4} {g : BitVec 3} {s : State} : KeepsCurAt s (execWaitk hd k g s) := by
  refine lift_keepsCur (fun _ m => ?_) s
  exact ite (ended rfl) (kept rfl)
theorem execKsync_keepsCur {hd : Hdr} {k : BitVec 4} {a : BitVec 6} {g : BitVec 3} {s : State} : KeepsCurAt s (execKsync hd k a g s) := by
  refine lift_keepsCur (fun _ m => ?_) s
  refine ite (kept rfl) (ite (ended rfl) (kept ?_))
  split <;> rfl

/-! ## Control: the end of lanes, system calls, traps, special registers -/

theorem execExit_keepsCur {hd : Hdr} {g : BitVec 3} {s : State} : KeepsCurAt s (execExit hd g s) := by
  refine lift_keepsCur (fun _ m => ?_) s
  refine kept ?_
  extract_lets act m₁ m₂
  have e₂ : m₂.cur = m.cur := by
    refine Eq.trans ?_ (Mach.quadExit_cur (m.modCw (fun x => x.exitLanes m.now act)))
    unfold m₂
    split <;> rfl
  split
  · exact (Mach.endWarp_cur ..).trans e₂
  · exact e₂
theorem execSyscall_keepsCur {hd : Hdr} {n : BitVec 9} {a : BitVec 6} {s : State} : KeepsCurAt s (execSyscall hd n a s) := by
  refine lift_keepsCur (fun _ m => ?_) s
  dsimp only
  split
  · exact ended rfl
  · refine kept (Eq.trans (b := (Mach.cur (ite _ _ _))) rfl ?_)
    split <;> rfl
theorem execTrap_keepsCur {hd : Hdr} {i : BitVec 8} {g : BitVec 3} {s : State} : KeepsCurAt s (execTrap hd i g s) := by
  refine lift_keepsCur (fun _ m => ?_) s
  exact ite (kept rfl) (ended rfl)
theorem execBkpt_keepsCur {hd : Hdr} {g : BitVec 3} {s : State} : KeepsCurAt s (execBkpt hd g s) := by
  refine lift_keepsCur (fun _ m => ?_) s
  exact ite (kept rfl) (ended rfl)
theorem execTret_keepsCur {hd : Hdr} {s : State} : KeepsCurAt s (execTret hd s) := by
  refine lift_keepsCur (fun _ m => ?_) s
  exact ite (ended rfl) (kept rfl)
theorem execSrd_keepsCur {hd : Hdr} {d a : BitVec 8} {s : State} : KeepsCurAt s (execSrd hd d a s) := by
  refine lift_keepsCur (fun _ m => ?_) s
  refine kept ?_
  refine (Mach.varPend_cur ..).trans ?_
  split <;> rfl
theorem execSwr_keepsCur {hd : Hdr} {d a : BitVec 8} {s : State} : KeepsCurAt s (execSwr hd d a s) := by
  refine lift_keepsCur (fun _ m => ?_) s
  exact ite (ite (ended rfl) (kept rfl)) (ite (kept rfl) (ite (ite (ended rfl) (kept rfl)) (ended rfl)))
theorem execVrd_keepsCur {hd : Hdr} {d a : BitVec 6} {g : BitVec 3} {s : State} : KeepsCurAt s (execVrd hd d a g s) := by
  refine lift_keepsCur (fun _ m => ?_) s
  exact ite (ended rfl) (ite (kept rfl) (kept rfl))
theorem execVwr_keepsCur {hd : Hdr} {a b : BitVec 6} {g : BitVec 3} {s : State} : KeepsCurAt s (execVwr hd a b g s) := by
  refine lift_keepsCur (fun _ m => ?_) s
  exact ite (ended rfl) (ite (kept rfl) (kept rfl))

/-! ## Shared memory and fences -/

theorem execLds_keepsCur {hd : Hdr} {t a : BitVec 6} {o : BitVec 4} {z : BitVec 3} {s : State} : KeepsCurAt s (execLds hd t a o z s) := by
  refine lift_keepsCur (fun mem m => ?_) s
  extract_lets
  split
  · exact ended (Mach.trapMem_stop ..)
  · refine ite (kept rfl) (ite (ended (Mach.trapData_stop ..)) (kept ?_))
    exact (Mach.sendShared_cur ..).trans ((Mach.readPend_cur ..).trans (Mach.foldl_cur _ (fun _ _ => Mach.seen_cur ..) _ _))
theorem execSts_keepsCur {hd : Hdr} {t a : BitVec 6} {o : BitVec 4} {z : BitVec 3} {s : State} : KeepsCurAt s (execSts hd t a o z s) := by
  refine lift_keepsCur (fun mem m => ?_) s
  extract_lets
  split
  · exact ended (Mach.trapMem_stop ..)
  · refine ite (ended (Mach.trapData_stop ..)) (kept ?_)
    exact (Mach.sendShared_cur ..).trans (Mach.foldl_cur _ (fun _ _ => Mach.store_cur ..) _ _)
theorem execFence_keepsCur {hd : Hdr} {sc : BitVec 3} {k : BitVec 2} {g : BitVec 3} {s : State} : KeepsCurAt s (execFence hd sc k g s) := by
  refine lift_keepsCur (fun _ m => ?_) s
  exact ite (kept rfl) (ended (Mach.holdGroup_stop ..))

/-! ## Barriers -/

theorem execBinit_keepsCur {hd : Hdr} {b : BitVec 4} {sr : BitVec 8} {g : BitVec 3} {s : State} : KeepsCurAt s (execBinit hd b sr g s) := by
  refine lift_keepsCur (fun _ m => ?_) s
  exact ite (kept rfl) (ite (ended rfl) (ite (kept (Mach.askHost_cur ..))
    (ite (kept ((Mach.binitOwn_cur ..).trans (Mach.barDo_cur ..))) (ended rfl))))
theorem execBarr_keepsCur {hd : Hdr} {b : BitVec 4} {sr : BitVec 8} {g : BitVec 3} {s : State} : KeepsCurAt s (execBarr hd b sr g s) := by
  refine lift_keepsCur (fun _ m => ?_) s
  exact ite (kept rfl) (ite (kept ((Mach.askHost_cur ..).trans (Mach.varPend_cur ..)))
    (ite (kept ((Mach.barDo_cur ..).trans (Mach.varPend_cur ..))) (ended rfl)))
theorem execBwait_keepsCur {hd : Hdr} {b : BitVec 4} {sr : BitVec 8} {g : BitVec 3} {s : State} : KeepsCurAt s (execBwait hd b sr g s) := by
  refine lift_keepsCur (fun _ m => ?_) s
  exact ite (kept rfl) (ite (kept rfl) (ite (kept rfl) (kept rfl)))
theorem execBsync_keepsCur {hd : Hdr} {b : BitVec 4} {g : BitVec 3} {s : State} : KeepsCurAt s (execBsync hd b g s) := by
  refine lift_keepsCur (fun _ m => ?_) s
  refine ite (kept rfl) (ite (kept (Mach.askHost_cur ..)) (ite (kept ?_) (ended rfl)))
  extract_lets p m₁ x
  have e : m₁.cur = m.cur := Mach.barDo_cur ..
  split
  · exact e
  · split <;> exact e

/-! ## Engines, queues and tasks -/

theorem execCpwait_keepsCur {hd : Hdr} {sr : BitVec 8} {p : BitVec 2} {z : BitVec 1} {s : State} :
    KeepsCurAt s (execCpwait hd sr p z s) := by
  refine lift_keepsCur (fun _ m => ?_) s
  exact ite (kept rfl) (kept rfl)
theorem execLayset_keepsCur {hd : Hdr} {sr : BitVec 8} {n : BitVec 4} {z : BitVec 1} {s : State} :
    KeepsCurAt s (execLayset hd sr n z s) := by
  refine lift_keepsCur (fun mem m => ?_) s
  extract_lets
  split
  · exact kept rfl
  · exact Mach.readBlock_curKept ..
theorem execQenq_keepsCur {hd : Hdr} {sr : BitVec 8} {n : BitVec 4} {z : BitVec 1} {s : State} : KeepsCurAt s (execQenq hd sr n z s) := by
  refine lift_keepsCur (fun _ m => ?_) s
  refine ite (kept rfl) ?_
  split
  · exact ended rfl
  · exact ite (ended rfl) (kept (Mach.sbTake_cur ..))
theorem execQwait_keepsCur {hd : Hdr} {sr : BitVec 8} {z : BitVec 1} {s : State} : KeepsCurAt s (execQwait hd sr z s) := by
  refine lift_keepsCur (fun _ m => ?_) s
  exact ite (kept rfl) (kept rfl)
theorem execMmwait_keepsCur {hd : Hdr} {sr : BitVec 8} {z : BitVec 1} {s : State} : KeepsCurAt s (execMmwait hd sr z s) := by
  refine lift_keepsCur (fun _ m => ?_) s
  exact ite (kept rfl) (kept rfl)
theorem execBatonTake_keepsCur {hd : Hdr} {z : BitVec 1} {s : State} : KeepsCurAt s (execBatonTake hd z s) := by
  refine lift_keepsCur (fun _ m => ?_) s
  exact ite (kept rfl) (ite (ended rfl) (ite (kept rfl) (kept rfl)))
theorem execBatonPass_keepsCur {hd : Hdr} {z : BitVec 1} {s : State} : KeepsCurAt s (execBatonPass hd z s) := by
  refine lift_keepsCur (fun _ m => ?_) s
  exact ite (kept rfl) (ite (ended rfl) (kept (Mach.passBaton_cur ..)))
theorem execTaskget_keepsCur {hd : Hdr} {sr : BitVec 8} {z : BitVec 1} {s : State} : KeepsCurAt s (execTaskget hd sr z s) := by
  refine lift_keepsCur (fun _ m => ?_) s
  refine ite (kept rfl) ?_
  split <;> exact kept rfl
theorem execTaskend_keepsCur {hd : Hdr} {sr : BitVec 8} {z : BitVec 1} {s : State} : KeepsCurAt s (execTaskend hd sr z s) := by
  refine lift_keepsCur (fun _ m => ?_) s
  refine ite (kept rfl) ?_
  split
  · exact kept rfl
  · exact kept ((Mach.harvest_cur _).trans (Mach.endChunks_cur ..))
theorem execEnq_keepsCur {hd : Hdr} {sr : BitVec 8} {z : BitVec 1} {s : State} : KeepsCurAt s (execEnq hd sr z s) := by
  refine lift_keepsCur (fun mem m => ?_) s
  dsimp -zeta only
  split
  · exact kept rfl
  · refine ite (ended rfl) ?_
    split
    · exact ended rfl
    · exact ite (ended rfl) (ite (ended rfl) (kept rfl))
end Sys2Proof.Machine
end

section
/-! SUPPORT. Every instruction word leaves the issue context as it is, or ends its group. -/
namespace Sys2Proof.Machine
open Sys2Proof
open Mach.CurKept

/-- An instruction that has a word leaves the issue context as it is, or ends the group. -/
theorem exec_keepsCur (i : Instr) (w : (encodeNat i).isSome = true) (s : State) : KeepsCurAt s (exec i s) := by
  cases i <;> dsimp only [exec]
  case iadd | isub | imul | imulh | imulhu | imin | imax | iminu | imaxu | and | or | xor | andn | shl | shr | sar | rot | bytp | bfe |
      imad | bfi | idot4 | idot4u | idot8 | iaddi | andi | ori | xori | shli | shri | sari | imuli | popc | clz | brev | not | ineg |
      iabs | lid | sel | movl | movh | movs | iadds | imads | shfl | fxrd | iadd64 | icmp | voteNz | voteZ | matchK | smovl | smovh |
      vtos | saddi | ktos | kpop | sadd | ssub | smul | sand | sor | sxor | sshl | sshr | ssar | smin | smax | sminu | smaxu | smov |
      snot | sneg | seq | slt | sltu | kand | kor | kxor | kandn | knot | kmov | stok | elect | fxclr | fxset | redw | scanw | call |
      bra | brasZ | brasNz | lease | yield | nop =>
    refine lift_keepsCur (fun _ m => kept ?_) s
    rfl
  case idiv | irem =>
    refine lift_keepsCur (fun _ m => ended ?_) s
    rfl
  case fadd | fsub | fmul | fmin | fmax | ffma | hfma2 | bfma2 | fdot4 | fdot8 | fneg | fabs | frcp | frsq | fsqrt | fexp2 | flog2 |
      fsin | fcos | ftanh | ffloor | fceil | frnd | ftrunc =>
    exact lift_keepsCur fpV_keepsCur s
  case dadd | dmul | dfma | drcp | dsqrt | dneg | dabs =>
    exact lift_keepsCur fpV2_keepsCur s
  case fcmp | dcmp =>
    exact lift_keepsCur fpCmp_keepsCur s
  case cvt | cvtMode =>
    exact lift_keepsCur cvtWord_keepsCur s
  case qswz | qbcast | qdiffx | qdiffy =>
    exact lift_keepsCur quadWord_keepsCur s
  case brx | ret =>
    exact lift_keepsCur branchTo_keepsCur s
  case ldc | ldx =>
    exact lift_keepsCur loadCommons_keepsCur s
  case stc | stx =>
    exact lift_keepsCur storeCommons_keepsCur s
  case ldio | stio =>
    exact lift_keepsCur ioWord_keepsCur s
  case spill | fill =>
    exact lift_keepsCur spillWord_keepsCur s
  case atomAdd | atomFadd | atomMin | atomMax | atomAnd | atomOr | atomXor | atomExch | atomCas | atomInc =>
    exact lift_keepsCur atomWord_keepsCur s
  case barrd | barrj =>
    exact lift_keepsCur barChange_keepsCur s
  case copy | copys | copym | gath | pref | amo =>
    exact lift_keepsCur copyWord_keepsCur s
  case mmop | mmsp | mmdrain =>
    exact lift_keepsCur mmWord_keepsCur s
  case join => exact execJoin_keepsCur
  case leave => exact execLeave_keepsCur
  case waitk => exact execWaitk_keepsCur
  case ksync => exact execKsync_keepsCur
  case vrd => exact execVrd_keepsCur
  case vwr => exact execVwr_keepsCur
  case lds => exact execLds_keepsCur
  case sts => exact execSts_keepsCur
  case exit => exact execExit_keepsCur
  case syscall => exact execSyscall_keepsCur
  case trap => exact execTrap_keepsCur
  case tret => exact execTret_keepsCur
  case bkpt => exact execBkpt_keepsCur
  case srd => exact execSrd_keepsCur
  case swr => exact execSwr_keepsCur
  case fence => exact execFence_keepsCur
  case binit => exact execBinit_keepsCur
  case barr => exact execBarr_keepsCur
  case bwait => exact execBwait_keepsCur
  case bsync => exact execBsync_keepsCur
  case layset => exact execLayset_keepsCur
  case cpwait => exact execCpwait_keepsCur
  case mmwait => exact execMmwait_keepsCur
  case batonTake => exact execBatonTake_keepsCur
  case batonPass => exact execBatonPass_keepsCur
  case qenq => exact execQenq_keepsCur
  case qwait => exact execQwait_keepsCur
  case taskget => exact execTaskget_keepsCur
  case taskend => exact execTaskend_keepsCur
  case enq => exact execEnq_keepsCur
  all_goals exact (Bool.false_ne_true w).elim
end Sys2Proof.Machine
end

section
/-! SUPPORT. What the decoder answers: an instruction that has a word, never a move of the machine. -/
namespace Sys2Proof.Machine
open Sys2Proof

/-- An answer of the decoder that, if it is an instruction, is one with a word. -/
def HasWord (e : Except EncTrap Instr) : Prop := ∀ i, e = .ok i → (encodeNat i).isSome = true

theorem hasWord_error (t : EncTrap) : HasWord (.error t) := fun _ h => nomatch h
/-- `accept` answers only the instruction that it is given. -/
theorem hasWord_accept {z : Bool} {i : Instr} (w : (encodeNat i).isSome = true) : HasWord (accept z i) := by
  intro j h
  unfold accept at h
  split at h
  · split at h
    · injection h with h
      exact h ▸ w
    · nomatch h
  · nomatch h
theorem hasWord_ite {p : Prop} [Decidable p] {a b : Except EncTrap Instr} (ha : HasWord a) (hb : HasWord b) :
    HasWord (if p then a else b) := by
  split <;> assumption

/-! ## One lemma for each table of the decoder: a row accepts an instruction with a word, the last one mostly answers a reserved value -/

theorem decodeSop_hasWord (w : Nat) : HasWord (decodeSop w) := by
  unfold decodeSop
  split
  rotate_right
  · exact hasWord_error _
  all_goals exact hasWord_accept rfl
theorem decodeFun_hasWord (w : Nat) : HasWord (decodeFun w) := by
  unfold decodeFun
  split
  rotate_right
  · exact hasWord_error _
  all_goals exact hasWord_accept rfl
theorem decodeQuad_hasWord (w : Nat) : HasWord (decodeQuad w) := by
  unfold decodeQuad
  split
  rotate_right
  · exact hasWord_error _
  all_goals exact hasWord_accept rfl
theorem decodeVote_hasWord (w : Nat) : HasWord (decodeVote w) := by
  unfold decodeVote
  split
  rotate_right
  · exact hasWord_error _
  all_goals exact hasWord_accept rfl
theorem decodeKop_hasWord (w : Nat) : HasWord (decodeKop w) := by
  unfold decodeKop
  split
  rotate_right
  · exact hasWord_error _
  all_goals exact hasWord_accept rfl
theorem decodeKs_hasWord (w : Nat) : HasWord (decodeKs w) := by
  unfold decodeKs
  split
  rotate_right
  · exact hasWord_error _
  all_goals exact hasWord_accept rfl
theorem decodeMsync_hasWord (w : Nat) : HasWord (decodeMsync w) := by
  unfold decodeMsync
  split
  rotate_right
  · exact hasWord_error _
  all_goals exact hasWord_accept rfl
theorem decodeIun_hasWord (w : Nat) : HasWord (decodeIun w) := by
  unfold decodeIun
  split
  rotate_right
  · exact hasWord_error _
  all_goals exact hasWord_accept rfl
theorem decodeFx_hasWord (w : Nat) : HasWord (decodeFx w) := by
  unfold decodeFx
  split
  rotate_right
  · exact hasWord_error _
  all_goals exact hasWord_accept rfl
theorem decodeBar_hasWord (w : Nat) : HasWord (decodeBar w) := by
  unfold decodeBar
  split
  rotate_right
  · exact hasWord_error _
  all_goals exact hasWord_accept rfl
theorem decodeCopy_hasWord (w : Nat) : HasWord (decodeCopy w) := by
  unfold decodeCopy
  split
  rotate_right
  · exact hasWord_error _
  all_goals exact hasWord_accept rfl
theorem decodeMm_hasWord (w : Nat) : HasWord (decodeMm w) := by
  unfold decodeMm
  split
  rotate_right
  · exact hasWord_error _
  all_goals exact hasWord_accept rfl
theorem decodeQeng_hasWord (w : Nat) : HasWord (decodeQeng w) := by
  unfold decodeQeng
  split
  rotate_right
  · exact hasWord_error _
  all_goals exact hasWord_accept rfl
theorem decodeTask_hasWord (w : Nat) : HasWord (decodeTask w) := by
  unfold decodeTask
  split
  rotate_right
  · exact hasWord_error _
  all_goals exact hasWord_accept rfl
theorem decodeOp0_hasWord (w : Nat) : HasWord (decodeOp0 w) := by
  unfold decodeOp0
  split
  all_goals exact hasWord_accept rfl
theorem decodeOp1_hasWord (w : Nat) : HasWord (decodeOp1 w) := by
  unfold decodeOp1
  split
  all_goals exact hasWord_accept rfl
theorem decodeOp2_hasWord (w : Nat) : HasWord (decodeOp2 w) := by
  unfold decodeOp2
  split
  all_goals exact hasWord_accept rfl
theorem decodeOp3_hasWord (w : Nat) : HasWord (decodeOp3 w) := by
  unfold decodeOp3
  split
  case h_1 => exact decodeSop_hasWord w
  case h_16 => exact decodeFun_hasWord w
  all_goals exact hasWord_accept rfl
theorem decodeOp4_hasWord (w : Nat) : HasWord (decodeOp4 w) := by
  unfold decodeOp4
  split
  rotate_right
  · exact hasWord_error _
  case h_1 => exact hasWord_ite (hasWord_accept rfl) (hasWord_accept rfl)
  case h_2 => exact decodeQuad_hasWord w
  case h_4 => exact decodeVote_hasWord w
  case h_8 => exact decodeKop_hasWord w
  case h_9 => exact decodeKs_hasWord w
  case h_10 => exact decodeMsync_hasWord w
  case h_11 => exact decodeIun_hasWord w
  case h_12 => exact decodeFx_hasWord w
  all_goals exact hasWord_accept rfl
theorem decodeOp5_hasWord (w : Nat) : HasWord (decodeOp5 w) := by
  unfold decodeOp5
  split
  rotate_right
  · exact hasWord_error _
  all_goals exact hasWord_accept rfl
theorem decodeOp6_hasWord (w : Nat) : HasWord (decodeOp6 w) := by
  unfold decodeOp6
  split
  case h_12 => exact hasWord_ite (hasWord_accept rfl) (hasWord_accept rfl)
  all_goals exact hasWord_accept rfl
theorem decodeOp7_hasWord (w : Nat) : HasWord (decodeOp7 w) := by
  unfold decodeOp7
  split
  rotate_right
  · exact hasWord_error _
  case h_2 | h_3 | h_4 | h_7 | h_14 => exact hasWord_ite (hasWord_accept rfl) (hasWord_error _)
  case h_8 => exact decodeBar_hasWord w
  case h_9 => exact decodeCopy_hasWord w
  case h_10 => exact decodeMm_hasWord w
  case h_11 => exact decodeQeng_hasWord w
  case h_12 => exact decodeTask_hasWord w
  all_goals exact hasWord_accept rfl

/-- What the decoder yields has a word. -/
theorem decode_hasWord (w : Word) : HasWord (decode w) := by
  unfold decode
  split
  · exact decodeOp0_hasWord _
  · exact decodeOp1_hasWord _
  · exact decodeOp2_hasWord _
  · exact decodeOp3_hasWord _
  · exact decodeOp4_hasWord _
  · exact decodeOp5_hasWord _
  · exact decodeOp6_hasWord _
  · exact decodeOp7_hasWord _
end Sys2Proof.Machine
end

section
/-! SUPPORT. Groups of words keep the state well formed: a run of words whose group a full unit puts back has stored nothing that waits in the
step's buffer. -/
namespace Sys2Proof.Machine
open Sys2Proof

theorem State.wf_iff (s : State) : s.wf = true ↔ s.mem.wf = true ∧ s.m.wr = [] := by
  simp [State.wf]
/-- A settled state is well formed, whatever is settled. -/
theorem State.wf_settle {s : State} (w : s.mem.wf = true) (m : Mach) : (s.settle m).wf = true :=
  (State.wf_iff _).2 ⟨settle_wf s m w, settle_wr s m⟩
/-- What a lifted meaning answers is well formed. -/
theorem State.wf_lift {f : Act} {s t : State} (h : lift f s = .next t) (w : s.mem.wf = true) : t.wf = true :=
  (State.wf_iff _).2 ⟨lift_wf h w, lift_wr h⟩
theorem State.wf_exec {i : Instr} {s t : State} (h : exec i s = .next t) (w : s.mem.wf = true) : t.wf = true := by
  obtain ⟨f, e⟩ := exec_is_lift i s
  exact State.wf_lift (e.symm.trans h) w
theorem State.wf_run {v : Event} {s t : State} (h : v.run s = .next t) (w : s.mem.wf = true) : t.wf = true := by
  obtain ⟨f, e⟩ := run_is_lift v s
  exact State.wf_lift (e.symm.trans h) w

/-! ## The words of a group -/

/-- A machine whose current word is the first of these. -/
def Mach.atWord (m : Mach) (e : Word × Word) (rest : List (Word × Word)) : Mach :=
  { m with cur := { m.cur with pc := e.1, word := e.2, rest } }
/-- What the first word of a group does: nothing, where it is no instruction; a parity trap; or its meaning, after which the words that
follow it run unless it has ended the group. -/
theorem runWords_cons_cases (e : Word × Word) (rest : List (Word × Word)) (s : State) :
    runWords (e :: rest) s = s ∨
    (∃ p, runWords (e :: rest) s = { s with m := (s.m.atWord e rest).parityTrap p }) ∨
    ∃ i t, decode e.2 = .ok i ∧ exec i { s with m := s.m.atWord e rest } = .next t ∧
      runWords (e :: rest) s = if t.m.cur.stop then t else runWords rest t := by
  rw [runWords]
  split
  · exact .inl rfl
  next i hd =>
    dsimp only
    split
    next p _ => exact .inr (.inl ⟨p, rfl⟩)
    · split
      next t ht => exact .inr (.inr ⟨i, t, hd, ht, rfl⟩)
      · exact .inl rfl
/-- The words of a group keep Memory's canonical form. -/
theorem runWords_memWf (ws : List (Word × Word)) (s : State) (w : s.mem.wf = true) : (runWords ws s).mem.wf = true := by
  induction ws generalizing s with
  | nil => exact w
  | cons e rest ih =>
    obtain h | ⟨p, h⟩ | ⟨i, t, _, ht, h⟩ := runWords_cons_cases e rest s <;> rw [h]
    · exact w
    · exact w
    · have wt : t.mem.wf = true := ((State.wf_iff t).1 (State.wf_exec ht w)).1
      split
      · exact wt
      · exact ih t wt

/-- Words of a group that no full unit has put back: if one does then, the step's buffer is empty. -/
theorem runWords_stalled_wr (ws : List (Word × Word)) (s : State) (w : s.mem.wf = true) (k : s.m.cur.stalled = false)
    (hs : (runWords ws s).m.cur.stalled = true) : (runWords ws s).m.wr = [] := by
  induction ws generalizing s with
  | nil => exact absurd (k.symm.trans hs) Bool.false_ne_true
  | cons e rest ih =>
    obtain h | ⟨p, h⟩ | ⟨i, t, hd, ht, h⟩ := runWords_cons_cases e rest s <;> rw [h] at hs ⊢
    · exact absurd (k.symm.trans hs) Bool.false_ne_true
    · exact absurd (k.symm.trans hs) Bool.false_ne_true
    · have wt := (State.wf_iff t).1 (State.wf_exec ht w)
      split at hs
      next stop => rw [if_pos stop]; exact wt.2
      next stop =>
        rw [if_neg stop]
        have kt := (exec_keepsCur i (decode_hasWord _ i hd) _ t ht).resolve_right stop
        exact ih t wt.1 ((congrArg Issue.stalled kt).trans k) hs

theorem endGroup_wf {s : State} (w : s.mem.wf = true) : (endGroup s).wf = true := State.wf_settle w _

/-! ## What a group's beginning and its putting back do not store -/

@[simp] theorem Mach.bundleTo_wr (m : Mach) (pc : Word) : (m.bundleTo pc).wr = m.wr := rfl
@[simp] theorem Mach.enter_wr (m : Mach) (g : IssueGroup) : (m.enter g).wr = m.wr := rfl
@[simp] theorem Mach.take_wr (m : Mach) (r : IssueGroup × List Nat × SMap Nat) : (m.take r).wr = m.wr := rfl
@[simp] theorem Mach.putBack_wr (m : Mach) (g : Withheld) : (m.putBack g).wr = m.wr := rfl
@[simp] theorem Mach.reserveRecord_wr (m : Mach) (j : Option Nat) : (m.reserveRecord j).wr = m.wr := by cases j <;> rfl
@[simp] theorem Mach.mmReserve_wr (m : Mach) (ws : List (Word × Word)) : (m.mmReserve ws).2.wr = m.wr := by
  unfold Mach.mmReserve
  split
  · split <;> rfl
  · rfl
@[simp] theorem Mach.withhold_wr (m : Mach) (g : IssueGroup) (l : Nat) : (m.withhold g l).wr = m.wr :=
  (Mach.mmReserve_wr ..).trans ((Mach.reserveRecord_wr ..).trans (Mach.enter_wr m g))
/-- The words that take effect later begin with no unit having put them back. -/
theorem Mach.enterLate_stalled {m m' : Mach} {h w : Nat} {g : Withheld} (e : m.enterLate h w = some (g, m')) : m'.cur.stalled = false := by
  unfold Mach.enterLate at e
  dsimp only at e
  split at e
  · nomatch e
  · injection e with e
    injection e with _ e
    subst e
    split <;> rfl

theorem issueGroup_wf (r : IssueGroup × List Nat × SMap Nat) {s : State} (w : s.wf = true) : (issueGroup r s).wf = true := by
  obtain ⟨wm, wr⟩ := (State.wf_iff s).1 w
  unfold issueGroup
  dsimp only
  split
  · exact (State.wf_iff _).2 ⟨wm, by simpa using wr⟩
  · exact endGroup_wf (runWords_memWf _ _ wm)
theorem runLate_wf (h w : Nat) {s : State} (k : s.wf = true) : (runLate h w s).wf = true := by
  have km := ((State.wf_iff s).1 k).1
  unfold runLate
  split
  · exact k
  next g m e =>
    have wm : (runWords g.words { s with m }).mem.wf = true := runWords_memWf _ _ km
    dsimp only
    split
    next hs =>
      exact (State.wf_iff _).2 ⟨wm, runWords_stalled_wr _ _ km (Mach.enterLate_stalled e) hs⟩
    · exact endGroup_wf wm

/-! ## Moves -/

theorem Mach.taken_wr (m : Mach) (v : Move) : (m.taken v).wr = m.wr := by cases v <;> rfl
theorem moveOn_wf {s : State} (w : s.wf = true) (v : Move) : (moveOn s v).wf = true := by
  have wm := ((State.wf_iff s).1 w).1
  cases v with
  | late h n => exact runLate_wf h n w
  | issue r => exact issueGroup_wf r w
  | _ => exact State.wf_settle wm _
theorem run1_wf {s t : State} (w : s.wf = true) (v : Move) (h : run1 s v = .next t) : t.wf = true := by
  obtain ⟨wm, wr⟩ := (State.wf_iff s).1 w
  have ws : ({ s with m := s.m.taken v } : State).wf = true := (State.wf_iff _).2 ⟨wm, (Mach.taken_wr ..).trans wr⟩
  cases v with
  | outside _ i =>
    dsimp only [run1] at h
    split at h
    · exact State.wf_exec h wm
    · injection h with h; exact h ▸ ws
  | timed _ e => exact State.wf_run (v := e) h wm
  | event e => exact State.wf_run (v := e) h wm
  | _ => injection h with h; exact h ▸ moveOn_wf ws _
end Sys2Proof.Machine

namespace Sys2Proof.Claim
open Sys2Proof.Machine

/-- Settles O57: by the cases of the next move. Every move but two ends in `settle`, which empties the buffer; a group that is withheld
stores nothing, and one that a full unit puts back has stored nothing since its last word was settled. -/
theorem everyStepKeepsTheStateWellFormed : Obligations.EveryStepKeepsTheStateWellFormed :=
  fun s _ w h => run1_wf w (nextMove s) h
end Sys2Proof.Claim
end

section
/-! SUPPORT. The register space: the block that each address function names, the behaviour of its registers, and what they read as at
reset. -/
namespace Sys2Proof.Machine
open Sys2Proof

/-! ## The block of an address (R12) -/

theorem regPlace_hamReg {h o : Nat} (hh : h < 640) (ho : o < 0x200000) : regPlace (hamReg h o) = .ham h o := by
  unfold regPlace hamReg hamDie dieAperture
  rw [if_pos (by omega), if_pos (by omega)]
  simp only [RegPlace.ham.injEq]
  omega
theorem regPlace_slcReg {k o : Nat} (hk : k < 320) (ho : o < 0x1000) : regPlace (slcReg k o) = .slc k o := by
  unfold regPlace slcReg dieAperture
  rw [if_pos (by omega), if_neg (by omega), if_pos (by omega)]
  simp only [RegPlace.slc.injEq]
  omega
theorem regPlace_netReg {d o : Nat} (hd : d < 4) (ho : o < 0x1000) : regPlace (netReg d o) = .net d o := by
  unfold regPlace netReg dieAperture
  rw [if_pos (by omega), if_neg (by omega), if_neg (by omega), if_pos (by omega)]
  simp only [RegPlace.net.injEq]
  omega
theorem regPlace_hbmReg {k o : Nat} (hk : k < 16) (ho : o < 0x1000) : regPlace (hbmReg k o) = .hbm k o := by
  unfold regPlace hbmReg dieAperture
  rw [if_pos (by omega), if_neg (by omega), if_neg (by omega), if_neg (by omega), if_neg (by omega), if_pos (by omega)]
  simp only [RegPlace.hbm.injEq]
  omega
theorem regPlace_stwReg {o : Nat} (ho : o < 0x4000) : regPlace (stwReg o) = .stw o := by
  unfold regPlace stwReg dieAperture pkgAperture
  rw [if_neg (by omega), if_pos (by omega), if_pos (by omega)]
  simp only [RegPlace.stw.injEq]
  omega
theorem regPlace_bootReg {o : Nat} (ho : o < 0x1000) : regPlace (bootReg o) = .boot o := by
  unfold regPlace bootReg dieAperture pkgAperture
  rw [if_neg (by omega), if_pos (by omega), if_neg (by omega), if_neg (by omega), if_neg (by omega), if_neg (by omega), if_pos (by omega)]
  simp only [RegPlace.boot.injEq]
  omega

/-! ## The behaviour of the registers of a block -/

theorem regSpec_hamReg {h o : Nat} (hh : h < 640) (ho : o < 0x200000) (ha : o % 4 = 0) : regSpec (hamReg h o) = hamSpec o := by
  have : hamReg h o % 4 = 0 := by unfold hamReg dieAperture; omega
  simp [regSpec, this, regPlace_hamReg hh ho]
theorem regSpec_stwReg {o : Nat} (ho : o < 0x4000) (ha : o % 4 = 0) : regSpec (stwReg o) = stwSpec o := by
  have : stwReg o % 4 = 0 := by unfold stwReg pkgAperture; omega
  simp [regSpec, this, regPlace_stwReg ho]
theorem regSpec_slc_carve {k : Nat} (hk : k < 320) : regSpec (slcReg k 0x10) = ⟨0, 7, 0⟩ := by
  have : slcReg k 0x10 % 4 = 0 := by unfold slcReg dieAperture; omega
  simp [regSpec, this, regPlace_slcReg hk]
theorem regSpec_govReg {p : Nat} (hp : p < 40) : regSpec (govReg p) = ⟨0x02081800, 0x9F1F1F1F, 0⟩ := by
  have ha : govReg p % 4 = 0 := by unfold govReg netReg dieAperture; omega
  have hr : regPlace (govReg p) = .net (p / 10) (0x100 + 4 * (p % 10)) := regPlace_netReg (by omega) (by omega)
  simp only [regSpec, ha, hr, ne_eq, not_true_eq_false, if_false]
  rw [if_neg (by omega), if_neg (by omega), if_pos (by omega)]
theorem regSpec_govStat {p : Nat} (hp : p < 40) : regSpec (govStat p) = ⟨0x00001818, 0, 0⟩ := by
  have ha : govStat p % 4 = 0 := by unfold govStat netReg dieAperture; omega
  have hr : regPlace (govStat p) = .net (p / 10) (0x140 + 4 * (p % 10)) := regPlace_netReg (by omega) (by omega)
  simp only [regSpec, ha, hr, ne_eq, not_true_eq_false, if_false]
  rw [if_neg (by omega), if_neg (by omega), if_neg (by omega), if_pos (by omega)]
theorem regSpec_sequencer : regSpec (netReg 0 0x80) = ⟨1, 1, 0⟩ := by
  have ha : netReg 0 0x80 % 4 = 0 := by unfold netReg dieAperture; omega
  simp [regSpec, ha, regPlace_netReg]
theorem regSpec_powerLimit : regSpec (netReg 0 0x90) = ⟨3600, 0xFFF, 0⟩ := by
  have ha : netReg 0 0x90 % 4 = 0 := by unfold netReg dieAperture; omega
  simp [regSpec, ha, regPlace_netReg]
theorem regSpec_hbmReg_zero {k : Nat} (hk : k < 16) : regSpec (hbmReg k 0) = ⟨0x5F69, 0xFFFF, 0⟩ := by
  have ha : hbmReg k 0 % 4 = 0 := by unfold hbmReg dieAperture; omega
  simp [regSpec, ha, regPlace_hbmReg hk]
theorem regSpec_bootReg {o : Nat} (ho : o < 0x1000) (ha : o % 4 = 0) : regSpec (bootReg o) = if o = 0x100 then ⟨1, 0, 0⟩ else resReg := by
  have : bootReg o % 4 = 0 := by unfold bootReg pkgAperture; omega
  simp [regSpec, this, regPlace_bootReg ho]

/-! ## Reset -/

theorem reg_reset (a : Nat) : State.reset.m.reg a = (regSpec a).reset := rfl
/-- R69, R179, R187, R214: the registers of a hamlet at reset. -/
theorem reg_reset_ham {h o : Nat} (hh : h < 640) (ho : o < 0x200000) (ha : o % 4 = 0) :
    State.reset.m.reg (hamReg h o) = (hamSpec o).reset := by
  rw [reg_reset, regSpec_hamReg hh ho ha]
/-- R23: each parish belongs to partition 0 at reset. -/
theorem partOf_reset {p : Nat} (hp : p < 40) : State.reset.m.partOf p = some 0 := by
  have : State.reset.m.reg (stwReg (0x3000 + 4 * p)) = 0x80000000 := by
    rw [reg_reset, regSpec_stwReg (by omega) (by omega)]
    unfold stwSpec
    rw [if_neg (by omega), if_neg (by omega), if_pos (by omega)]
  simp only [Mach.partOf, this]
  decide
/-- R94: no slice is carved at reset. -/
theorem carveOf_reset {k : Nat} (hk : k < 320) : State.reset.m.carveOf k = 0 := by
  have e : State.reset.m.reg (slcReg k 0x10) = 0 := by rw [reg_reset, regSpec_slc_carve hk]
  rw [Mach.carveOf, Mach.regField, e]
  rfl
end Sys2Proof.Machine

namespace Sys2Proof.Claim
open Sys2Proof.Machine

/-- Settles O59: each register's reset value is that of its row in the register tables, which its address leads to. -/
theorem resetLeavesTheResetValues : Obligations.ResetLeavesTheResetValues := by
  have four (c : Nat) (hc : c < 4) : c = 0 ∨ c = 1 ∨ c = 2 ∨ c = 3 := by omega
  refine ⟨rfl, rfl, rfl, rfl, rfl, rfl, rfl, rfl, rfl, fun h hh => ⟨?_, ?_, fun c hc => ⟨?_, ?_, ?_⟩⟩,
    fun p hp => ⟨partOf_reset hp, ?_, ?_⟩, fun k hk => ?_, fun k hk => carveOf_reset hk, ?_, ?_, ?_, fun n hn => ?_⟩
  · exact reg_reset_ham hh (by omega) rfl
  · exact reg_reset_ham hh (by omega) rfl
  · rw [reg_reset_ham hh (by omega) (by omega)]
    obtain rfl | rfl | rfl | rfl := four c hc <;> rfl
  · rw [reg_reset_ham hh (by omega) (by omega)]
    obtain rfl | rfl | rfl | rfl := four c hc <;> rfl
  · rw [reg_reset_ham hh (by omega) (by omega)]
    obtain rfl | rfl | rfl | rfl := four c hc <;> rfl
  · rw [reg_reset, regSpec_govReg hp]
  · rw [reg_reset, regSpec_govStat hp]
  · rw [reg_reset, regSpec_hbmReg_zero hk]
  · rw [reg_reset, regSpec_sequencer]
  · rw [reg_reset, regSpec_powerLimit]
  · rw [reg_reset, regSpec_bootReg (by omega) rfl, if_pos rfl]
  · rw [reg_reset, regSpec_bootReg (by omega) (by omega), if_neg (by omega)]
    rfl
end Sys2Proof.Claim
end

section
/-! SUPPORT. A mailbox message that is longer than the 14 words of R229, and whose delivery a reserved line holds back. -/
namespace Sys2Proof.Machine
open Sys2Proof

/-- A message of 31 words from the steward to itself: with the two words before them they take 132 bytes, on two lines of memory. -/
def longMail : Mail := { id := 0, src := 656, dst := 656, words := List.replicate 31 0, due := 0 }
/-- The machine as it leaves reset, with that message at its receiver and the second of its lines held by a SYS AMO (R292). -/
def longMailState : State := { m := { mails := [longMail], resv := [(0, 1, 1)] }, mem := [] }

/-- The messages on their way after an answer of the model. -/
def mailsAfter : Host.Outcome State Fault Refusal → List Mail
  | .next t => t.m.mails
  | _ => []

/-- The first line that the message is written to can be reached. -/
theorem longMail_reach : longMailState.m.clear.reach (longMailState.m.clear.corePart longMail.dst) 0 true ≠ .held := by decide +kernel
/-- The delivery meets the held line and tries again (R237): the message is still there. -/
theorem longMail_stays : (mailsAfter (exec (.mailboxDeliver 0) longMailState)).any (fun y => y.id = 0) = true := by decide +kernel
end Sys2Proof.Machine

namespace Sys2Proof.Claim
open Sys2Proof.Machine

/-- Refutes O50, by its clause on MAILBOX_DELIVER: it supposes that the place where the message begins can be reached, and says that the
message is then gone; but it allows a message of any length, and the second line of a long one may be held, which puts the delivery off. -/
theorem not_reeveAndRegisterWritesAct : ¬ Obligations.ReeveAndRegisterWritesAct := by
  intro h
  obtain ⟨-, -, -, -, -, -, -, -, -, -, -, -, -, deliver, -⟩ := h longMailState 0 0 0 0 (by decide) (by decide)
  obtain ⟨delivered, -⟩ := deliver longMail rfl
  obtain ⟨t, ht, gone, -⟩ := delivered (by decide +kernel) (by decide +kernel) longMail_reach
  have stays := longMail_stays
  rw [ht] at stays
  obtain ⟨z, hz, hid⟩ := List.any_eq_true.1 stays
  exact gone z hz (of_decide_eq_true hid)
end Sys2Proof.Claim
end

section
/-! SUPPORT. The machine never stops: every move has an answer, which is a next state. -/
namespace Sys2Proof.Machine
open Sys2Proof

theorem exec_goesOn (i : Instr) (s : State) : ∃ t, exec i s = .next t := by
  obtain ⟨f, e⟩ := exec_is_lift i s
  exact ⟨_, e.trans (lift_eq f s)⟩
theorem Event.run_goesOn (e : Event) (s : State) : ∃ t, e.run s = .next t := by
  obtain ⟨f, h⟩ := run_is_lift e s
  exact ⟨_, h.trans (lift_eq f s)⟩
theorem run1_goesOn (s : State) (v : Move) : ∃ t, run1 s v = .next t := by
  cases v with
  | outside _ i =>
    dsimp only [run1]
    split
    · exact exec_goesOn i _
    · exact ⟨_, rfl⟩
  | timed _ e => exact e.run_goesOn _
  | event e => exact e.run_goesOn _
  | _ => exact ⟨_, rfl⟩
theorem step_goesOn (s : State) : ∃ t, step s = .next t := run1_goesOn s (nextMove s)

/-! ## Runs -/

theorem reaches_zero (s : State) : Reaches s 0 s := rfl
/-- A run begins with a step. -/
theorem reaches_succ {s t : State} (h : step s = .next t) (n : Nat) (u : State) : Reaches s (n + 1) u ↔ Reaches t n u := by
  have e : core.step s = .next t := h
  simp only [Reaches, Host.Core.run, e]
/-- A predicate that every step keeps holds along every run, which has any length. -/
theorem KeptByStep.along_run {p : State → Prop} (k : KeptByStep p) (n : Nat) {s : State} (hs : p s) : ∃ t, Reaches s n t ∧ p t := by
  induction n generalizing s with
  | zero => exact ⟨s, reaches_zero s, hs⟩
  | succ n ih =>
    obtain ⟨t, ht⟩ := step_goesOn s
    obtain ⟨u, hu, pu⟩ := ih (k s t hs ht)
    exact ⟨u, (reaches_succ ht n u).2 hu, pu⟩
end Sys2Proof.Machine

namespace Sys2Proof.Claim
open Sys2Proof.Machine

/-- Settles O58: every meaning is a lifted one, which answers a next state, and a step keeps a state well formed (O57). -/
theorem everyRunGoesOn : Obligations.EveryRunGoesOn :=
  ⟨step_goesOn, fun _ w n => everyStepKeepsTheStateWellFormed.along_run n w⟩
end Sys2Proof.Claim
end

section
/-! SUPPORT. The words that trap their bundle where one of their lanes is active, and do nothing where none is. -/
namespace Sys2Proof.Claim
open Sys2Proof Sys2Proof.Machine

theorem lift_guardedTrap_active {s : State} {g : Nat} (a : s.m.active g ≠ 0) (group code : Nat) :
    lift (fun _ m => if m.active g = 0 then m else m.trapWord group code) s = traps s group code s.m.cur.word 0 0 := by
  rw [traps, lift_eq, lift_eq, Mach.clear_active, if_neg a, Mach.trapWord, Mach.clear_cur]
theorem lift_guardedTrap_inactive {s : State} {g : Nat} (a : s.m.active g = 0) (group code : Nat) :
    lift (fun _ m => if m.active g = 0 then m else m.trapWord group code) s = .next (still s) := by
  rw [lift_eq, Mach.clear_active, if_pos a]
  rfl

/-- Settles O14: TRAP and BKPT are each a guarded trap of the word, with their own group and code. -/
theorem softwareTrapsTrapTheirBundle : Obligations.SoftwareTrapsTrapTheirBundle := fun _ _ i _ =>
  ⟨fun a => ⟨lift_guardedTrap_active a 8 i.toNat, lift_guardedTrap_active a 7 1⟩,
   fun a => ⟨lift_guardedTrap_inactive a 8 i.toNat, lift_guardedTrap_inactive a 7 1⟩⟩
end Sys2Proof.Claim
end

section
/-! SUPPORT. Where a group that issues comes from: its packet's words are fetched at their program counters (R249), its own are decoded
(R62), and it is a candidate of its warp's quarter (R49). -/
namespace Sys2Proof.Machine
open Sys2Proof

theorem minBy_mem {α : Type} {key : α → Nat} {l : List α} {x : α} (h : minBy key l = some x) : x ∈ l := by
  induction l generalizing x with
  | nil => nomatch h
  | cons a r ih =>
    rw [minBy] at h
    split at h
    · exact Option.some.inj h ▸ List.mem_cons_self
    next y hy =>
      split at h <;> cases h
      · exact List.mem_cons_self
      · exact List.mem_cons_of_mem _ (ih hy)

/-! ## Fetch -/

/-- What a fetch of one word yields is that word, with its program counter. -/
theorem Mach.fetchWord_words {mem : Memory} {m : Mach} {h w : Nat} {pc : Word} {l : List (Word × Word)}
    (e : m.fetchWord mem h w pc = .words l) : ∃ d, l = [(pc, d)] := by
  unfold Mach.fetchWord at e
  dsimp only at e
  split at e
  · nomatch e
  · nomatch e
  · split at e
    · cases e; exact ⟨_, rfl⟩
    · nomatch e
    · nomatch e
theorem Mach.fetchAll_words {mem : Memory} {m : Mach} {h w : Nat} {pcs : List Word} {l : List (Word × Word)}
    (e : m.fetchAll mem h w pcs = .words l) : ∀ x ∈ l, m.fetchWord mem h w x.1 = .words [x] := by
  induction pcs generalizing l with
  | nil => cases e; intro x hx; nomatch hx
  | cons pc r ih =>
    unfold Mach.fetchAll at e
    split at e
    next a ha =>
      split at e
      next b hb =>
        cases e
        obtain ⟨d, rfl⟩ := Mach.fetchWord_words ha
        intro x hx
        obtain rfl | hx := List.mem_cons.1 hx
        · exact ha
        · exact ih hb x hx
      next hn => exact absurd e (hn l)
    next hn => exact absurd e (hn l)
theorem Mach.fetchPacket_words {mem : Memory} {m : Mach} {h w : Nat} {pc : Word} {l : List (Word × Word)}
    (e : m.fetchPacket mem h w pc = .words l) : ∀ x ∈ l, m.fetchWord mem h w x.1 = .words [x] := by
  -- Unfolded as a function: with its arguments, the kernel would evaluate the slot of the program counter, by successors.
  generalize hf : @Mach.fetchPacket = f at e
  delta Mach.fetchPacket at hf
  subst hf
  dsimp only at e
  split at e
  next a ha => cases e; exact fun x hx => Mach.fetchAll_words ha x (List.mem_of_mem_take hx)
  next hn => exact absurd e (hn l)

/-! ## The words of a group -/

/-- A group has no word, where its first fails a check; or that word decodes and stands alone or before words of the rest. -/
theorem groupWords_cons_cases (check : Instr → Option Short) (used : List Pipe) (e : Word × Word) (rest : List (Word × Word)) :
    (groupWords check used (e :: rest)).1 = [] ∨ (∃ i, decode e.2 = .ok i) ∧
      ((groupWords check used (e :: rest)).1 = [e] ∨
        ∃ used', (groupWords check used (e :: rest)).1 = e :: (groupWords check used' rest).1) := by
  obtain ⟨pc, w⟩ := e
  rw [groupWords]
  dsimp only
  split
  · exact .inl rfl
  · exact .inl rfl
  next i hd =>
    split
    · exact .inl rfl
    · exact .inl rfl
    · split
      · exact .inl rfl
      · split
        · exact .inl rfl
        · split
          · exact .inl rfl
          · refine .inr ⟨⟨i, hd⟩, ?_⟩
            split
            · exact .inr ⟨_, rfl⟩
            · exact .inl rfl
/-- The words of a group are words of the list that it begins, each decoded. -/
theorem groupWords_decoded (check : Instr → Option Short) (used : List Pipe) (ws : List (Word × Word)) :
    ∀ e ∈ (groupWords check used ws).1, e ∈ ws ∧ ∃ i, decode e.2 = .ok i := by
  induction ws generalizing used with
  | nil => intro e he; nomatch he
  | cons a rest ih =>
    intro e he
    obtain h | ⟨hd, h | ⟨used', h⟩⟩ := groupWords_cons_cases check used a rest <;> rw [h] at he
    · nomatch he
    · obtain rfl := List.mem_singleton.1 he
      exact ⟨List.mem_cons_self, hd⟩
    · obtain rfl | he := List.mem_cons.1 he
      · exact ⟨List.mem_cons_self, hd⟩
      · obtain ⟨hr, hi⟩ := ih used' e he
        exact ⟨List.mem_cons_of_mem _ hr, hi⟩
theorem Mach.groupOf_decoded {m : Mach} {h w : Nat} {run : Word × Word × Bool × Bool} {ws : List (Word × Word)} {g : IssueGroup}
    (hg : g = m.groupOf h w run ws) : ∀ e ∈ g.words, e ∈ ws ∧ ∃ i, decode e.2 = .ok i := by
  subst hg
  exact groupWords_decoded _ _ ws

/-! ## The choice of a group -/

/-- The group that a warp would issue is that of its chosen run, from the words of its packet. -/
theorem Mach.candidate_is_groupOf {mem : Memory} {m : Mach} {h w : Nat} {x : Warp} {g : IssueGroup}
    (e : m.candidate mem h w x = some g) :
    ∃ run ws, x.chosen m.now = some run ∧ m.fetchPacket mem h w run.1 = .words ws ∧ g = m.groupOf h w run ws := by
  unfold Mach.candidate at e
  -- The packet stays opaque, so that the kernel does not evaluate its fetch.
  obtain ⟨fetched, hf⟩ : ∃ f, f = Mach.fetchPacket mem m h w := ⟨_, rfl⟩
  rw [← hf] at e ⊢
  split at e
  · nomatch e
  · split at e
    · nomatch e
    next run hr =>
      split at e
      next ws hw =>
        dsimp only at e
        split at e <;> cases e
        exact ⟨run, ws, hr, hw, rfl⟩
      · nomatch e
theorem Mach.candidates_are_candidate {mem : Memory} {m : Mach} {h q : Nat} {g : IssueGroup} (hg : g ∈ m.candidates mem h q) :
    ∃ e ∈ (m.ham h).warps, m.candidate mem h e.1 e.2 = some g := by
  obtain ⟨e, he, c⟩ := List.mem_filterMap.1 hg
  split at c
  · exact ⟨e, he, c⟩
  · nomatch c
theorem Mach.chooseWarp_mem {m : Mach} {h : Nat} {l : List IssueGroup} {g : IssueGroup} (e : m.chooseWarp h l = some g) : g ∈ l := by
  unfold Mach.chooseWarp at e
  split at e
  next hg => cases e; exact (List.mem_filter.1 (minBy_mem hg)).1
  · exact minBy_mem e
theorem Mach.quarterPick_mem {mem : Memory} {m : Mach} {h q : Nat} {r : IssueGroup × List Nat × SMap Nat}
    (e : m.quarterPick mem h q = some r) : r.1 ∈ m.candidates mem h q := by
  unfold Mach.quarterPick at e
  dsimp only at e
  split at e
  · nomatch e
  · obtain ⟨g, hg, rfl⟩ := Option.map_eq_some_iff.1 e
    exact (List.mem_filter.1 (Mach.chooseWarp_mem hg)).1
theorem Mach.nextGroup_mem {mem : Memory} {m : Mach} {r : IssueGroup × List Nat × SMap Nat} (e : m.nextGroup mem = some r) :
    ∃ h q, r.1 ∈ m.candidates mem h q := by
  obtain ⟨y, _, hy⟩ := List.mem_flatMap.1 (minBy_mem e)
  obtain ⟨q, _, hq⟩ := List.mem_filterMap.1 hy
  split at hq
  · nomatch hq
  · exact ⟨y.1, q, Mach.quarterPick_mem hq⟩
/-- The next group is that of some warp's chosen run, whose packet is fetched. -/
theorem Mach.nextGroup_is_groupOf {mem : Memory} {m : Mach} {r : IssueGroup × List Nat × SMap Nat} (e : m.nextGroup mem = some r) :
    ∃ x run ws, (r.1.warp, x) ∈ (m.ham r.1.ham).warps ∧ x.chosen m.now = some run ∧
      m.fetchPacket mem r.1.ham r.1.warp run.1 = .words ws ∧ r.1 = m.groupOf r.1.ham r.1.warp run ws := by
  obtain ⟨h, q, hr⟩ := Mach.nextGroup_mem e
  obtain ⟨⟨w, x⟩, hx, hc⟩ := Mach.candidates_are_candidate hr
  obtain ⟨run, ws, hrun, hws, hg⟩ := Mach.candidate_is_groupOf hc
  have hh : r.1.ham = h := congrArg IssueGroup.ham hg
  have hw : r.1.warp = w := congrArg IssueGroup.warp hg
  rw [hh, hw]
  exact ⟨x, run, ws, hx, hrun, hws, hg⟩
end Sys2Proof.Machine
end

section
/-! SUPPORT. The next move: where it issues a group, the instruction that a move of spec/95 is, and how the words of a group run. -/
namespace Sys2Proof.Machine
open Sys2Proof Sys2Proof.Claim

theorem Mach.coreMove_ne_issue (mem : Memory) (m : Mach) (r : IssueGroup × List Nat × SMap Nat) : m.coreMove mem ≠ some (.issue r) := by
  intro e
  obtain ⟨⟨p, v⟩, hv, rfl⟩ := Option.map_eq_some_iff.1 e
  obtain ⟨o, ho, ov⟩ := List.mem_filterMap.1 (minBy_mem hv)
  simp only [List.mem_cons, List.not_mem_nil, or_false] at ho
  obtain rfl | rfl | rfl | rfl | rfl := ho <;> (obtain ⟨_, _, hx⟩ := Option.map_eq_some_iff.1 ov; nomatch hx)
/-- A move issues a group only where it is the next group. -/
theorem nextGroup_of_nextMove {s : State} {r : IssueGroup × List Nat × SMap Nat} (e : nextMove s = .issue r) :
    s.m.nextGroup s.mem = some r := by
  unfold nextMove at e
  extract_lets m word after at e
  have ofWord {p : Nat} (h : word = some (p, .issue r)) : s.m.nextGroup s.mem = some r := by
    unfold word at h
    split at h
    next hr => split at h <;> cases h; exact hr
    · nomatch h
    next hr => cases h; exact hr
    · nomatch h
  have ofAfter (h : after = .issue r) : s.m.nextGroup s.mem = some r := by
    unfold after at h
    split at h
    · nomatch h
    · split at h
      next p v _ hw _ =>
        split at h <;> cases h
        exact ofWord hw
      next p v hw _ => cases h; exact ofWord hw
      · nomatch h
      · nomatch h
  split at e
  · nomatch e
  split at e
  · nomatch e
  split at e
  · nomatch e
  split at e
  · nomatch e
  split at e
  next v hv => cases e; exact absurd hv (Mach.coreMove_ne_issue _ _ r)
  split at e
  · nomatch e
  split at e
  · nomatch e
  exact ofAfter e

/-! ## The instruction of a move -/

theorem isMove_exists (e : Event) : ∃ i, isMove e i := by
  cases e <;> exact ⟨_, rfl⟩
/-- A move of the machine's own does what the instruction of its name does. -/
theorem run_eq_exec {e : Event} {i : Instr} (h : isMove e i) (s : State) : e.run s = exec i s := by
  cases e <;> cases h <;> rfl

/-! ## The step of each kind of move -/

theorem step_event {s : State} {e : Event} {i : Instr} (h : nextMove s = .event e) (hi : isMove e i) :
    step s = exec i { s with m := s.m.taken (.event e) } := by
  rw [step, h]; exact run_eq_exec hi _
theorem step_timed {s : State} {c : Nat} {e : Event} {i : Instr} (h : nextMove s = .timed c e) (hi : isMove e i) :
    step s = exec i { s with m := s.m.taken (.timed c e) } := by
  rw [step, h]; exact run_eq_exec hi _
theorem step_outside {s : State} {c : Nat} {i : Instr} (h : nextMove s = .outside c i) (hi : isOutside i = true) :
    step s = exec i { s with m := s.m.taken (.outside c i) } := by
  rw [step, h]; exact if_pos hi
theorem step_issue {s : State} {r : IssueGroup × List Nat × SMap Nat} (h : nextMove s = .issue r) :
    step s = .next (issueGroup r { s with m := { s.m with agent := 0 } }) := by
  rw [step, h]; rfl

/-! ## A group of one word -/

theorem issueGroup_now {r : IssueGroup × List Nat × SMap Nat} {s : State} {ws : List (Word × Word)} (hw : r.1.words = ws)
    (h : withholdOf ((s.m.take r).warp r.1.ham r.1.warp).fpmode r.1.words = none) :
    issueGroup r s = endGroup (runWords ws { s with m := (s.m.take r).enter r.1 }) := by
  unfold issueGroup
  dsimp only
  rw [h, hw]
theorem runWords_one {e : Word × Word} {i : Instr} {s : State} (d : decode e.2 = .ok i)
    (p : (s.m.atWord e []).cw.parityFail s.m.cur.bundle i = none) :
    ∃ t, exec i { s with m := s.m.atWord e [] } = .next t ∧ runWords [e] s = t := by
  obtain ⟨t, ht⟩ := exec_goesOn i { s with m := s.m.atWord e [] }
  refine ⟨t, ht, ?_⟩
  unfold Mach.atWord at p ht
  simp only [runWords, d, p, ht, ite_self]
theorem runWords_parityTrap {e : Word × Word} {rest : List (Word × Word)} {i : Instr} {s : State} {f : Nat × Nat × Word}
    (d : decode e.2 = .ok i) (p : (s.m.atWord e rest).cw.parityFail s.m.cur.bundle i = some f) :
    runWords (e :: rest) s = { s with m := (s.m.atWord e rest).parityTrap f } := by
  unfold Mach.atWord at p ⊢
  simp only [runWords, d, p]
end Sys2Proof.Machine

namespace Sys2Proof.Claim
open Sys2Proof.Machine

/-- Settles O60: the next move issues a group only where a quarter has picked it among its candidates, each the group of a fetched packet;
and each kind of move is run as its instruction, or as the words of its group. -/
theorem aStepRunsTheDecodedInstruction : Obligations.AStepRunsTheDecodedInstruction := by
  intro s
  refine ⟨isMove_exists, fun _ _ => step_event, fun _ _ _ => step_timed, fun _ _ => step_outside, ?_, ?_⟩
  · intro r h
    obtain ⟨x, run, ws, hx, hrun, hws, hg⟩ := Mach.nextGroup_is_groupOf (nextGroup_of_nextMove h)
    refine ⟨step_issue h, x, run, ws, hx, hrun, hws, hg, Mach.fetchPacket_words hws, Mach.groupOf_decoded hg⟩
  · intro r pc w i h one d m0 m m1 now
    have issued : step s = .next (endGroup (runWords [(pc, w)] { s with m })) :=
      (step_issue h).trans (congrArg _ (issueGroup_now one now))
    refine ⟨rfl, rfl, rfl, rfl, fun p => ?_, fun e p => ?_⟩
    · obtain ⟨t, ht, hr⟩ := runWords_one (s := { s with m }) (e := (pc, w)) d p
      exact ⟨t, ht, hr ▸ issued⟩
    · exact issued.trans (by rw [runWords_parityTrap (s := { s with m }) (e := (pc, w)) d p]; rfl)
end Sys2Proof.Claim
end
